-- ==== Sys2Proof/Word.lean ====
section
/-! DEFINITION. Word types and their plainest arithmetic (spec/00_scope.md R12, R13). -/

namespace Sys2Proof

/-- A byte of memory. -/
abbrev Byte := BitVec 8
abbrev W16 := BitVec 16
abbrev W32 := BitVec 32
abbrev W64 := BitVec 64
/-- A die address (R6). -/
abbrev DA := BitVec 20
/-- A byte address, as a number below 2^48 (R53). -/
abbrev Addr := Nat

/-- Bits [hi:lo] of a number (R12): both ends included. -/
def bits (v hi lo : Nat) : Nat := (v / 2 ^ lo) % 2 ^ (hi + 1 - lo)

/-- Bit b of a number. -/
def bit (v b : Nat) : Bool := v.testBit b

/-- 1 for true, 0 for false. -/
def b2n (b : Bool) : Nat := if b then 1 else 0

/-- Replace bits [hi:lo] of v by x (R12). -/
def setBits (v hi lo x : Nat) : Nat :=
  v - bits v hi lo * 2 ^ lo + (x % 2 ^ (hi + 1 - lo)) * 2 ^ lo

/-- Quotient rounded up, as the formulas of the chapters use it. -/
def ceilDiv (a b : Nat) : Nat := (a + b - 1) / b

/-- The least multiple of b that is at least a. -/
def roundUp (a b : Nat) : Nat := ceilDiv a b * b

/-- ⌊log2 n⌋ for n > 0. -/
def flog2 (n : Nat) : Nat := Nat.log2 n

/-- The least c with n at most 2^c. -/
def clog2 (n : Nat) : Nat := if n ≤ 1 then 0 else Nat.log2 (n - 1) + 1

/-- A number read as two's complement in w bits. -/
def sext (w v : Nat) : Int :=
  if v % 2 ^ w < 2 ^ (w - 1) then (v % 2 ^ w : Nat) else ((v % 2 ^ w : Nat) : Int) - (2 ^ w : Nat)

/-- An integer as w bits of two's complement. -/
def wrapInt (w : Nat) (i : Int) : Nat := (i % ((2 ^ w : Nat) : Int)).toNat

end Sys2Proof
end

