-- ==== Sys2Proof/Syntax.lean ====
section
/-! DEFINITION. The commands the block takes, as data: host packets (R298), fabric packets (R185), beacon frames (R260), and the one
inductive of commands, one constructor per row of spec/opcode_table.json. -/

namespace Sys2Proof

/-- A host command packet: the 32-byte header of R298 as one little-endian number, and the parameter bytes that follow it. -/
structure HostPkt where
  hdr : BitVec 256
  params : List Byte
deriving DecidableEq, Repr

/-- A fabric packet of R185: header words 0 and 1, the type-specific bytes 16 to 55, the reserved bytes 56 to 59, the CRC, the payload. -/
structure Packet where
  w0 : W64
  w1 : W64
  ts : BitVec 320
  w7 : W32
  crc : W32
  payload : List Byte
deriving DecidableEq, Repr

/-- A beacon frame of R258 as it arrives or is sent: head word, payload word, CRC, and whether it came whole (R262). -/
structure Frame where
  head : W64
  pay : W64
  crc : W16
  whole : Bool
deriving DecidableEq, Repr

/-- What the check of a staging word found (R377, R378): nothing, the bit corrected (64: a check bit), or an uncorrectable error. -/
inductive Ecc where
  | clean
  | corrected (b : Nat)
  | uncorrectable
deriving DecidableEq, Repr

/-- An access of another initiator of the die at staging's own addresses or through the aperture (R324, R378, R379): a read of n
bytes, or a write of bytes; what the check of the first word touched finds. -/
structure MemAccess where
  write : Bool
  addr : Addr
  n : Nat
  data : List Byte
  found : Ecc
deriving DecidableEq, Repr

/-- The kill causes of R296, in its order. -/
inductive KillCause where
  | unitFailure | countRecords | bundleShort | timeout | arrivals | missing | collRefused | poisonedRead | memberLost | killStep
  | collMismatch | widthBad | badIngress | ingressTimeout | killDrop | noLine | flagPoison | areaSmall | switchPoison | switchTimeout
  | drain
deriving DecidableEq, Repr

/-- The commands of the block: one constructor per row of spec/opcode_table.json, in the table's order. -/
inductive Instr where
  /-- R300: Host opcode that does nothing and replies OK. -/
  | nop (p : HostPkt)
  /-- R301: Host opcode that returns the firmware version, die address, partition and device identity. -/
  | getInfo (p : HostPkt)
  /-- R352: Host opcode that checks a model header and installs its placement lines into the next epoch, leaving the model pending. -/
  | loadModel (p : HostPkt)
  /-- R352: Host opcode that schedules a resident model's lines and replicas to leave at the next flip. -/
  | unloadModel (p : HostPkt)
  /-- R352: Host opcode that queues a switch of the active model behind every accepted step. -/
  | switchModel (p : HostPkt)
  /-- R301: Basic-level host opcode that accepts one step, numbers it and sends the acceptance reply. -/
  | runStep (p : HostPkt)
  /-- R301: KILL_STEP with DROP = 0, which kills the partition's started steps so that they are rerun. -/
  | killStepRerun (p : HostPkt)
  /-- R301: KILL_STEP with DROP = 1, which kills the partition's started steps without rerun and ends them with KILLED. -/
  | killStepDrop (p : HostPkt)
  /-- R301: Host opcode that returns a step's state, kill count and final code. -/
  | queryStep (p : HostPkt)
  /-- R301: Host opcode that writes one light-list line of the current or other epoch to host memory. -/
  | readLl (p : HostPkt)
  /-- R340: PART_CONFIG with OP = SET, which assigns the slice to a partition or stages new values for its own partition. -/
  | partConfigSet (p : HostPkt)
  /-- R340: PART_CONFIG with OP = LEAVE, which makes the slice unassigned at once. -/
  | partConfigLeave (p : HostPkt)
  /-- R413: Host opcode that writes the unused copy of each named region of the non-volatile store and reads it back. -/
  | storeNvm (p : HostPkt)
  /-- R413: The end of a store operation, which clears LONG and queues the reply with the new GEN values or STATE. -/
  | storeNvmDone (failed : BitVec 3)
  /-- R415: Host opcode that starts the logic self-tests and the staging SRAM march on the named units. -/
  | selfTest (p : HostPkt)
  /-- R415: The end of a self-test, which sets FAILED bits and queues the reply with the failure masks. -/
  | selfTestDone (tiles : BitVec 9) (lanes : BitVec 5) (words : W32)
  /-- R405: SUSPEND with LEVEL = 0, which takes the slice from RUN to IDLE. -/
  | suspendIdle (p : HostPkt)
  /-- R406: SUSPEND with LEVEL = 1, which fences the slice itself and starts its entry into DARK. -/
  | suspendDark (p : HostPkt)
  /-- R407: Host opcode that is a wake source: it returns the slice from IDLE to RUN, or starts a wake reset from DARK. -/
  | resume (p : HostPkt)
  /-- R364: CAPTURE with OP = START, which takes capture buffers and sets MODE to start pending. -/
  | captureStart (p : HostPkt)
  /-- R364: CAPTURE with OP = STOP, which requests the end of capture once every accepted step has ended. -/
  | captureStop (p : HostPkt)
  /-- R370: REPLAY with OP = START, which checks the stream's state digest and starts replay mode. -/
  | replayStart (p : HostPkt)
  /-- R372: REPLAY with OP = STOP, which ends replay and reports the SEQNO of any divergence. -/
  | replayStop (p : HostPkt)
  /-- R332: Host opcode that requests a flush of the log FIFO. -/
  | logFlush (p : HostPkt)
  /-- R304: Expert-level host opcode that checks every record of a software-built list and accepts the list whole or rejects it. -/
  | submitList (p : HostPkt)
  /-- R301: Host opcode that allocates a range of synchronisation counters to the partition. -/
  | allocCounters (p : HostPkt)
  /-- R301: Host opcode that frees a range of synchronisation counters. -/
  | freeCounters (p : HostPkt)
  /-- R323: Host opcode that allocates a credit pool of buffers, maps them into its window and writes their addresses. -/
  | allocCpool (p : HostPkt)
  /-- R323: Host opcode that frees a credit pool and unmaps its window. -/
  | freeCpool (p : HostPkt)
  /-- R432: CFG_COMMIT with SELF = 0, which writes the given REF to the configuration CRC reference. -/
  | cfgCommitRef (p : HostPkt)
  /-- R432: CFG_COMMIT with SELF = 1, which takes the running CRC of the staged image as the reference. -/
  | cfgCommitSelf (p : HostPkt)
  /-- R297: A write of 1 to the doorbell, which latches the mailbox packet, or is dropped while FULL, or is answered NOT_READY before readiness or in DARK. -/
  | mbDoorbell (data : W32)
  /-- R297: A write to a mailbox CMD register, which stores packet bytes or is ignored and sets OVR while FULL. -/
  | mbCmdWrite (n : Nat) (data : W32)
  /-- R297: A write of 1 to MB_POP, which removes the oldest reply from the reply FIFO. -/
  | mbPop (data : W32)
  /-- R303: The Keeper takes a latched packet once the reply FIFO has room, clears FULL and checks and evaluates the packet. -/
  | mbTake
  /-- R303: A Keeper read of a list or structure that has not completed within 40,000 CORE cycles ends the check with TIMEOUT. -/
  | keeperReadTimeout
  /-- R297: A queued final reply enters the reply FIFO when it has a free entry. -/
  | replyFifoEnter
  /-- R282: The Keeper places held records of an accepted list into a ring as its slots free. -/
  | ringPlaceResume
  /-- R290: An accepted step becomes enqueueable: the Keeper zeroes its counters and enqueues its first records. -/
  | stepEnqueue (spareFail : BitVec 2)
  /-- R425: An unassigned or idle slice has a step boundary every 65,536 CORE cycles. -/
  | idleStepBoundary (spareFail : BitVec 2)
  /-- R383: A step boundary held by a configuration mismatch is attempted again every 65,536 CORE cycles. -/
  | cfgHoldRetry
  /-- R383: A configuration mismatch still standing 45 ms after FLIP_PREP raises CFG_FLIP and the slice is lost. -/
  | cfgFlipTimeout
  /-- R431: The recomputation of the running configuration CRC completes and CFG_BUSY falls. -/
  | cfgCrcDone
  /-- R288: The Keeper resolves a plan-derived target once its PLAN has signalled and releases the record. -/
  | pdResolve
  /-- R93: Record that scores token rows against router weights with the exact accumulator or the binary32 tree. -/
  | score (be : Bool) (fail : Option Nat)
  /-- R95: Record that scores a k-piece and sums the partial accumulators exactly across a group of slices. -/
  | scoreCount (be : Bool) (fail : Option Nat)
  /-- R110: SFU record with OP = FUNC, which evaluates one of six scalar functions elementwise. -/
  | func (be : Bool)
  /-- R112: SFU record with OP = ROW_MAX, which writes each row's maximum. -/
  | rowMax (be : Bool)
  /-- R113: SFU record with OP = ROW_SUMEXP, which writes each row's exact exponential sum record. -/
  | rowSumexp (be : Bool)
  /-- R114: SFU record with OP = SOFTMAX, which writes exactly rounded probabilities per row. -/
  | softmax (be : Bool)
  /-- R116: SFU record with OP = ROW_RMS, which writes each row's reciprocal RMS factor. -/
  | rowRms (be : Bool)
  /-- R117: SFU record with OP = RENORM, which rescales each token's counted gate weights. -/
  | renorm (be : Bool)
  /-- R138: Record that chooses each token's experts, applies capacity and writes slots, gates, counts, masks and load counts. -/
  | select (be : Bool)
  /-- R133: SELECT with GONLY = 1, which writes only each token's group list. -/
  | selectGonly (be : Bool)
  /-- R162: Source-mode SORT record that orders a half's slots by destination key and writes run records. -/
  | sort (be : Bool) (fail : Option Nat)
  /-- R178: Gateway-mode SORT record that re-sorts collected bundle entries by final destination. -/
  | sortGateway (be : Bool) (fail : Option Nat)
  /-- R172: Record that assigns each run a mode and writes the out-list, plan summary and sorted in-list. -/
  | plan (be : Bool)
  /-- R201: Record that walks the out-list, posting local work records and sending DISPATCH packets. -/
  | send (be : Bool)
  /-- R207: Record that completes once all inbound slots and bundles of its half have arrived and their results are injected. -/
  | recv (be : Bool)
  /-- R209: Record on a gateway that forwards re-sorted bundle rows to their final dies. -/
  | forward (be : Bool)
  /-- R211: FETCH record with ROLE = 0, which sends a FETCH_RD for each FETCH out-record. -/
  | fetchRequester (be : Bool)
  /-- R211: FETCH record with ROLE = 1, which serves weight streams to requesters, by multicast per mesh row. -/
  | fetchServer (be : Bool)
  /-- R230: Record that places a half's result arrivals by tag and writes the dense output tile in fixed k-slot order. -/
  | combine (be : Bool)
  /-- R235: COMBINE fused with the commit barrier: after combining it waits on ACK_WAIT and joins COMMIT_READY. -/
  | combineAck (be : Bool)
  /-- R67: Record that copies and converts one tensor into another with gather, scatter and clamping. -/
  | move (be : Bool)
  /-- R253: Record that sends a half's count records and joins the half's COUNT barrier. -/
  | dispatch (be : Bool)
  /-- R246: REDUCE_STATS with PATH = 0, which reduces a statistics vector over a group by staged direct exchange. -/
  | reduceStatsFabric (be : Bool)
  /-- R269: REDUCE_STATS with PATH = 1, which reduces up to two elements over the beacon tree. -/
  | reduceStatsBeacon (be : Bool)
  /-- R291: Keeper-held record that, once its waits hold, publishes the step and queues its final reply. -/
  | commit
  /-- R294: The Keeper kills every started, uncommitted step of the partition, raises the kill generation and sends KILL. -/
  | stepKill (cause : KillCause)
  /-- R295: After the KILL_DONE release, and any recovery hold, each killed step is re-enqueued or ended after RERUN_MAX reruns. -/
  | rerun
  /-- R353: Once enqueued steps end, the Keeper writes back the outgoing router state, streams the incoming one and pins its working set. -/
  | modelSwitch (read : Option (Addr × Ecc))
  /-- R62: A 64 B beat of a token row, with its flag byte, arrives from a cluster and is written to the tile. -/
  | ingressBeat (cluster : Nat) (flag : Byte) (data : List Byte)
  /-- R65: A step's tile still incomplete after ING_TO × 65,536 CORE cycles sets ING_TO and the step ends with TIMEOUT. -/
  | ingTimeout
  /-- R228: A cluster raises SH_DONE after writing its shared rows, incrementing SH_SIG. -/
  | shDone (cluster : Nat)
  /-- R206: A cluster returns a result row, which is appended as local arrivals or sent back as RESULT packets. -/
  | clusterResultRow (cluster : Nat) (tag : W64) (row : List Byte)
  /-- R204: A cluster takes a posted work record from its queue. -/
  | workRecordTaken (cluster : Nat)
  /-- R360: With DLB_EN = 1, an idle cluster receives the newest untaken tile withdrawn from a loaded cluster. -/
  | dlbSteal
  /-- R390: A cluster reports WARM_DONE for promoted experts, after which the member joins the RECOVER barrier. -/
  | warmDone (cluster : Nat)
  /-- R440: Once a half's RECV is in its ring and its PLAN has signalled, held inbound DISPATCH packets are placed. -/
  | halfArmed (half : Bool)
  /-- R205: An ejected DISPATCH packet is checked and its chunk placed by position, completing in-records into work records. -/
  | dispatchPacket (p : Packet)
  /-- R208: A DISPATCH packet with VIA_GW = 1 fills its slot of its source's segment in a gateway's bundle buffer. -/
  | bundlePacket (p : Packet)
  /-- R211: A weight-stream request arrives at the home and starts its stream once every group member's request has arrived. -/
  | fetchRd (p : Packet)
  /-- R212: A 4 KiB weight packet is written to the pending replica bank of the requester's own slot. -/
  | fetchCpl (p : Packet)
  /-- R167: A COUNT packet with SUB = 0 delivers count records, which are accepted into the received-record buffer or discarded. -/
  | countRecords (p : Packet)
  /-- R250: A COUNT packet with SUB ≠ 0 delivers collective data, which is checked and combined or held. -/
  | collData (p : Packet)
  /-- R203: A RESULT packet's chunk is appended as the next arrival and signals RES_CNT. -/
  | result (p : Packet)
  /-- R196: An ACK packet acknowledges ACK_N packets of one type for the sender's pending commands. -/
  | ack (p : Packet)
  /-- R196: An ACK is sent when 256 FAB cycles pass since the last packet counted for a pending count. -/
  | ackBatchTimer (i : Nat)
  /-- R197: Missing acknowledgements ACK_TO_1K × 1,024 CORE cycles after a command's last packet set ACK_TO and kill the step. -/
  | ackTimeout (eng : Nat)
  /-- R197: Arrivals short of EXP_CHUNKS RES_TO_1K × 1,024 CORE cycles after SEND signalled set RES_TO and kill the step. -/
  | resultTimeout (half : Bool)
  /-- R211: A member's FETCH_RD missing at the server's timeout sets RD_LATE and kills the step. -/
  | fetchRdLate
  /-- R212: A weight stream incomplete at timeout sets SHORT and kills the step. -/
  | fetchStreamShort
  /-- R229: COMBINE's shared-row wait not met within the timeout sets SH_TO and kills the step. -/
  | sharedRowsTimeout
  /-- R158: A directory answers a light-list read request from its copy for the requester's epoch. -/
  | llReqRead (p : Packet)
  /-- R159: A directory grants line ownership to one requester or answers LL_RETRY. -/
  | llReqOwn (p : Packet) (rivals : List DA)
  /-- R159: A writer returns the next-epoch copy of an owned line to its directory. -/
  | llWb (p : Packet)
  /-- R158: LL_GRANT with STATUS DATA delivers a requested line to the cache. -/
  | llGrantData (p : Packet)
  /-- R158: LL_GRANT with STATUS GRANT gives the requester ownership of the line's next-epoch copy. -/
  | llGrantGrant (p : Packet)
  /-- R159: LL_GRANT with STATUS LL_RETRY refuses an ownership request and arms the resend delay. -/
  | llRetry (p : Packet)
  /-- R159: After (1 + DA[3:0]) × 64 CORE cycles the requester sends its ownership request again. -/
  | llRetryResend (i : Nat)
  /-- R301: CTRL operation from another Keeper that writes the masked bits of a register. -/
  | regWrite (p : Packet)
  /-- R301: CTRL operation that returns a register's live value without read side effects. -/
  | regRead (p : Packet)
  /-- R296: CTRL operation telling a member that a step ends without rerun with the given code. -/
  | stepAbort (p : Packet)
  /-- R301: CTRL operation after which the Keeper enqueues no further step of the partition. -/
  | partHold (p : Packet)
  /-- R301: CTRL operation that ends PART_HOLD. -/
  | partResume (p : Packet)
  /-- R301: CTRL packet answering an earlier CTRL request with status and value. -/
  | ctrlResult (p : Packet)
  /-- R191: A packet for another die is forwarded by dimension order or around holes, with HOPS incremented and multicast copies made. -/
  | transitForward (p : Packet) (contended : Bool)
  /-- R344: A packet or memory request waiting on the FAB or MEM token bucket is admitted and charged. -/
  | bucketAdmit (mem : Bool)
  /-- R324: An access to the staging aperture is translated to its mapped buffer or reads 0xFF beyond the mapping. -/
  | apertureAccess (a : MemAccess)
  /-- R382: A die memory port completion arrives and is accepted, treated as poisoned, or dropped as late. -/
  | memCompletion (tag : BitVec 14) (poisoned : Bool)
  /-- R382: A read whose completion has not arrived within MEM_TO_1K × 1,024 CORE cycles is timed out and its slot generation advanced. -/
  | memReadTimeout (slot : Nat)
  /-- R268: A SYNC JOIN frame adds its count to a barrier instance, which releases or sends one JOIN up when its tally reaches SUBTREE. -/
  | join (link : Nat) (f : Frame)
  /-- R268: A SYNC RELEASE frame is passed down the JOIN links and delivered locally to members, completing the barrier. -/
  | release (link : Nat) (f : Frame)
  /-- R273: A FOGHORN ALARM frame is recorded, reported to the Keeper and flooded, or starts a wake in DARK. -/
  | alarm (link : Nat) (f : Frame)
  /-- R264: A WAKE frame travels to the apex and down, and is a wake source for a slice in IDLE or DARK. -/
  | wake (link : Nat) (f : Frame)
  /-- R272: A HEARTBEAT frame clears the link's lost bit and starts or continues monitoring of that link. -/
  | heartbeat (link : Nat) (f : Frame)
  /-- R272: Every HB_10US × 10 µs the slice sends HEARTBEATs and counts periods missed by each neighbour. -/
  | heartbeatPeriod
  /-- R275: A CLAIM frame is forwarded if it lowers the kept identity, makes a higher claimant withdraw, or is answered by a late ROOT. -/
  | claim (link : Nat) (f : Frame)
  /-- R275: A ROOT frame makes the slice select the named tree and record the root identity, immediately when LATE = 1. -/
  | root (link : Nat) (f : Frame)
  /-- R275: A claimant that has heard no lower identity for 4 ms becomes root and sends ROOT. -/
  | electSettle
  /-- R388: A selected tree from which no ROOT arrives within 5 ms is marked dead and another is selected. -/
  | treeRootTimeout
  /-- R274: A DISCOVER frame is recorded before readiness and answered with DISCOVER_REPLY afterwards, rate limited. -/
  | discover (link : Nat) (f : Frame)
  /-- R261: A DISCOVER_REPLY frame gives a neighbour's identity on a link. -/
  | discoverReply (link : Nat) (f : Frame)
  /-- R214: A FLIP_REQ frame reaches the pod root, which sends FLIP_PREP when no flip is under way. -/
  | flipReq (link : Nat) (f : Frame)
  /-- R214: While epoch work remains, the Keeper repeats its flip request at most once per 1 ms. -/
  | flipReqTimer
  /-- R213: The FLIP_PREP frame starts flip stage 1: staged epoch configuration goes to version E′ and lines are refetched. -/
  | flipPrep (link : Nat) (f : Frame)
  /-- R213: When its stage 1 work is complete the slice joins the FLIP_READY barrier. -/
  | flipStage1Done
  /-- R213: The FLIP_GO frame makes E′ current, sets DUAL and applies beacon settings and fence lifts. -/
  | flipGo (link : Nat) (f : Frame)
  /-- R213: Once no old-epoch step runs and its packets are settled, the slice joins FLIP_RETIRE. -/
  | flipRetireJoin
  /-- R216: A Benremin step still running DRAIN_TO × 100 µs after DRAINING was set is killed. -/
  | drainTimeout
  /-- R216: When a draining Benremin partition's unacknowledged packets reach zero it changes to E′ and clears DRAINING. -/
  | drainDone
  /-- R271: An INFO KILL frame is applied if its generation is one more than the one held, closing stale barrier instances. -/
  | killFrame (link : Nat) (f : Frame)
  /-- R386: An INFO FENCE frame adds the DA to the fence list, sets its hole bit, withdraws packets and kills the member's steps. -/
  | fence (link : Nat) (f : Frame)
  /-- R263: A sideband ACK acknowledges a frame of one class and frees the sender's outstanding slot for it. -/
  | beaconFrameAck (link : Nat) (cls : Nat)
  /-- R263: A frame not acknowledged 64 BCN cycles after its END is sent again. -/
  | beaconResend (link : Nat) (cls : Nat)
  /-- R264: A neighbour's DARK sideband changes, holding or releasing frames for that link. -/
  | darkSidebandChange (link : Nat) (dark : Bool)
  /-- R278: A mismatch between the Keeper cores is fatal and the slice is lost. -/
  | lockstepMismatch
  /-- R279: 10 ms without watchdog service is fatal and the slice is lost. -/
  | watchdogExpire
  /-- R379: Every SCRUB_CYC CORE cycles the scrubber reads and checks the next staging word. -/
  | scrubVisit (found : Ecc)
  /-- R396: Every SND_PER_MS ms the sounding unit samples margins and warns, raises VOFS, advises retirement or declares loss. -/
  | soundSample (core fab ctl bcn aon : Byte)
  /-- R409: Every 10 µs window each clock is counted, and two bad windows in a row mark the clock lost. -/
  | clockWindow (bad : BitVec 4)
  /-- R398: PWR_GOOD rises and a cold reset runs bring-up from phase A. -/
  | pwrGoodRise
  /-- R398: RESET_N held low for at least 25 AON cycles causes a warm reset. -/
  | resetN (aonCycles : Nat)
  /-- R399: Bring-up phase A ends with the store loaded into shadows and CTL_UP asserted. -/
  | phaseAEnd
  /-- R399: Bring-up phase B ends after logic self-tests and SRAM clearing, and heartbeats start. -/
  | phaseBEnd (tiles : BitVec 9) (lanes : BitVec 5)
  /-- R401: The slice becomes ready: READY rises, credits are granted, DISCOVER_REPLYs are sent and candidates start claiming. -/
  | sliceReady (startupOk : Bool)
  /-- R414: A write of 1 to BOOT_CTL.GO loads and checks an external Tillor image. -/
  | bootGo (data : W32)
  /-- R414: No GO within 10 s of phase C's start with no valid image makes bring-up fail. -/
  | extImageTimeout
  /-- R404: Leaving IDLE completes: the slice is in RUN and held steps are enqueued. -/
  | idleExitDone
  /-- R406: After 10 ms of forwarding, the slice going dark holds credits at zero and waits for its input buffers to empty. -/
  | darkDrainTimer
  /-- R406: With its input buffers empty, the slice gates every domain except AON and enters DARK. -/
  | darkEnter
  /-- R328: A 32- or 64-bit read of LOG_WORD0 takes the next log FIFO word into the output latch. -/
  | logWord0Read (wide : Bool)
  /-- R332: A write of 1 to LOG_CTL.FLUSH requests a log flush. -/
  | logCtlFlush (data : W32)
  /-- R332: At the first cycle with no partly written packet, held packets are discarded and staged spill values applied. -/
  | logFlushBoundary
  /-- R71: A write of 1 to CLAMP_CLR sets the clamp counter to zero. -/
  | clampClr (data : W32)
  /-- R71: A write of 1 to SAT_CLR sets UZ_COMB_SAT_CNT to zero. -/
  | satClr (data : W32)
  /-- R363: A write of 1 to TDC_CLR clears the TDC counter and its source counters. -/
  | tdcClr (data : W32)
  /-- R350: A write of ACCT_SEL.CLIENT starts or restarts a copy of that client's accounting entry. -/
  | acctSelWrite (data : W32)
  /-- R350: The accounting entry copy completes and BUSY clears. -/
  | acctCopyDone
  /-- R368: A write of CAP_SW_HI makes the consumed or supplied byte count take effect, possibly clearing HOLD or STARVE. -/
  | capSwWrite (data : W32)
  /-- R364: At a step boundary with no enqueued step, capture writes its START record and sets MODE = 1. -/
  | captureStartApply
  /-- R364: Once every accepted step has ended, capture writes its STOP record and replies when all records reach the ring. -/
  | captureStopApply
  /-- R421: A write to a register without a row of its own updates its fields by access code, staging RWS fields and refusing bad values. -/
  | registerWrite (off size : Nat) (data : W64)
  /-- R423: A host read of the register window returns shadow or live values, clears RC bits read as 1 on 32- and 64-bit reads, and sets ACCESS_ERR or UNMAPPED for narrow, unaligned or unmapped reads. -/
  | registerRead (off size : Nat)
  /-- R385: PWR_GOOD falls and the slice loses power, being lost to its neighbours until power returns. -/
  | pwrGoodFall
  /-- R424: At each rising AON edge, staged UZ_REL_PWR_CFG and UZ_REL_SND_VOFS values are compared against the reference and applied. -/
  | aonTick
  /-- R189: An ejected packet with an unlisted TYPE, the wrong network bit, or a failed CRC is discarded and counted. -/
  | badTypePacket (rsp : Bool) (p : Packet)
  /-- R261: A beacon frame whose CLASS and TYPE pair is not listed is acknowledged, discarded and counted as stale. -/
  | unlistedBeaconFrame (link : Nat) (f : Frame)
  /-- R368: Capture records are copied from capture staging into the ring, advancing DONE, freeing staging space and ending CRED_HOLD. -/
  | captureRingCopy
  /-- R435: A write through the die memory port that times out is a poisoned access of the writing command, which stops, and its step is killed. -/
  | memWriteTimeout (eng : Nat) (addr : Addr)
deriving DecidableEq, Repr

end Sys2Proof
end

