-- ==== Sys2Proof/WellFormed.lean ====
section
/-! DEFINITION. The form every command has at its port: what could not arrive otherwise. -/

namespace Sys2Proof

/-- A host packet is a header of 32 bytes and at most 224 parameter bytes in whole words (R297, R298). -/
def HostPkt.wf (p : HostPkt) : Bool := decide (p.params.length ≤ 224) && decide (p.params.length % 4 = 0)

/-- A fabric packet's payload has the length its header gives, at most 4,096 bytes (R185). -/
def Packet.wf (p : Packet) : Bool := decide (p.payload.length = bits p.w1.toNat 44 32) && decide (p.payload.length ≤ 4096)

/-- A beacon link is one of BL0 to BL15 (R258). -/
def linkWf (l : Nat) : Bool := decide (l < 16)

/-- A cluster is one of 4 (R1). -/
def clusterWf (c : Nat) : Bool := decide (c < 4)

/-- A register access is 1, 2, 4 or 8 bytes inside the window (R418, R421). -/
def accessWf (off size : Nat) : Bool :=
  (size == 1 || size == 2 || size == 4 || size == 8) && decide (off + size ≤ 0x10000)

/-- An access of another initiator stays in the address space, and a write carries its bytes (R323). -/
def MemAccess.wf (a : MemAccess) : Bool := decide (a.addr + a.n ≤ 0x1000000000000) && (!a.write || a.data.length == a.n)

/-- The form of a command. -/
def Instr.wf (i : Instr) : Bool :=
  match i with
  | .nop p | .getInfo p | .loadModel p | .unloadModel p | .switchModel p | .runStep p | .killStepRerun p | .killStepDrop p
  | .queryStep p | .readLl p | .partConfigSet p | .partConfigLeave p | .storeNvm p | .selfTest p | .suspendIdle p | .suspendDark p
  | .resume p | .captureStart p | .captureStop p | .replayStart p | .replayStop p | .logFlush p | .submitList p | .allocCounters p
  | .freeCounters p | .allocCpool p | .freeCpool p | .cfgCommitRef p | .cfgCommitSelf p => p.wf
  | .mbCmdWrite n _ => decide (n < 64)
  | .score _ f | .scoreCount _ f => match f with | none => true | some t => decide (t < 9)
  | .sort _ f | .sortGateway _ f => match f with | none => true | some l => decide (l < 5)
  | .ingressBeat c _ d => clusterWf c && d.length == 64
  | .shDone c | .workRecordTaken c | .warmDone c => clusterWf c
  | .clusterResultRow c _ _ => clusterWf c
  | .dispatchPacket p | .bundlePacket p | .fetchRd p | .fetchCpl p | .countRecords p | .collData p | .result p | .ack p | .llReqRead p
  | .llReqOwn p _ | .llWb p | .llGrantData p | .llGrantGrant p | .llRetry p | .regWrite p | .regRead p | .stepAbort p | .partHold p
  | .partResume p | .ctrlResult p | .transitForward p _ | .badTypePacket _ p => p.wf
  | .ackTimeout e | .memWriteTimeout e _ => decide (e < 10)
  | .memReadTimeout k => decide (k < 1024)
  | .apertureAccess a => a.wf
  | .join l _ | .release l _ | .alarm l _ | .wake l _ | .heartbeat l _ | .claim l _ | .root l _ | .discover l _ | .discoverReply l _
  | .flipReq l _ | .flipPrep l _ | .flipGo l _ | .killFrame l _ | .fence l _ | .unlistedBeaconFrame l _ => linkWf l
  | .beaconFrameAck l c | .beaconResend l c => linkWf l && decide (c < 4)
  | .darkSidebandChange l _ => linkWf l
  | .registerWrite o n _ | .registerRead o n => accessWf o n
  | _ => true

end Sys2Proof
end

