-- ==== Sys2Proof/Decode.lean ====
section
/-! DEFINITION. The table's words. spec/opcode_table.json gives no row any bits: commands arrive at ports, not as words. -/

namespace Sys2Proof

/-- The command a word of the table spells: none, for no row has bits (log entry 7). -/
def decodeTableWord (_nbits _w : Nat) : Option Instr := none

end Sys2Proof
end

