-- ==== Sys2Proof/Config.lean ====
section
/-! DEFINITION. What an implementation fixes: the free values of the model (opaque, so that no proof can see them) and the fixed
places of the address map. -/

namespace Sys2Proof.Config

/-- A fresh unstated 64-bit value, the n-th one (log entry 2). -/
opaque freeWord : Nat → W64

/-- A fresh unstated byte at an address: what an outcome called undefined writes there (R20, log entry 2). -/
opaque freeByte : Nat → Addr → Byte

/-- A fresh unstated duration in CORE cycles, before the bound of its formula is applied (R3, R333; log entry 4). -/
opaque freeCycles : Nat → Nat

/-- Whether the spill ring hands back a packet with an uncorrectable error, the n-th question (R329, log entry 2). -/
opaque spillBad : Nat → Bool

/-- Where the Keeper puts a structure or a tensor of a basic-level step: the number its build goes by (`stepKey`), half (0, 1), place, the rooms it has
taken (log entry 6). -/
opaque keeperPtr : Nat → Nat → Nat → List Addr → Addr

/-- What the Keeper writes there as far as the spec leaves it open: selection blocks, sizes and formats come from a router-state image whose
layout the spec does not give (R351; log entry 6). -/
opaque keeperBytes : Nat → Nat → Nat → List Addr → List Byte

/-- Parameter bits the Keeper takes from that image for a build, by place, the same in both halves (log entry 6). -/
opaque keeperWord : Nat → Nat → Nat

/-- The selection parameters (bytes 56 to 127 of a selection block, as far as R148 leaves them open) that the image of a model header gives a layer,
for the SELECT and for the group list before it (R351; log entry 6). -/
opaque routerBlock : BitVec 1024 → Nat → Nat → List Byte

/-- The sizes of the staging rooms the Keeper takes for a step: those it keeps over a rerun, or those it takes at each build (log entry 6). -/
opaque keeperRooms : Nat → Bool → List Nat

/-- The publication entries of a build: ENTRY and address (R287; log entry 6). -/
opaque keeperPubs : Nat → List Addr → List (Nat × Addr)

/-- The members of a group below this slice on its child links, where it has any: of the tree, the group and the number of fences
(R268, log entry 8). -/
opaque subtreeBelow : Nat → Nat → Nat → Nat

/-- Whether this slice is the lowest one whose subtree holds all members of a group, where it has child links (R268, log entry 8). -/
opaque apexOf : Nat → Nat → Bool

/-- The partitions other than its own whose members lie below this slice on its child links, where it has any, as its Keeper's group table holds
them: of the tree and the number of fences, each partition's number, SUBTREE, APEX and the KGEN it is written with (R268, log entry 8). -/
opaque transitGroups : Nat → Nat → List (Nat × Nat × Bool × Nat)

/-- Whether a range lies in die SRAM: the spec gives die SRAM no addresses (log entry 5). -/
opaque dieSram : Addr → Nat → Bool

/-- The HOME that the home map of the image at an address gives an expert of a layer, where the image holds no placement line of it: the spec gives the
map no place in the image (R155, R351; log entry 9). -/
opaque homeOf : Addr → Nat → Nat → Nat

/-- Whether the system has more than one pod: the integrator's wiring (R386, log entry 8). -/
opaque manyPods : Bool

/-- The placement lines that a model's router-state image holds: the spec gives the image no layout (R351, R389; log entry 9). -/
opaque imageLines : Nat → Nat → List (BitVec 256)

/-- The bytes of a model's BYTES_OUT region as its Tillor lays them out: from the header, the bias loops (layer, window accumulator, steps, bias
vector), and the memory they lie in (R351, R353; log entry 10). -/
opaque packOut : BitVec 1024 → List (Nat × List (Nat × Nat) × Nat × Addr) → (Addr → Byte) → List Byte

/-- The bias loops that a model's BYTES_OUT region holds (log entry 10). -/
opaque unpackOut : BitVec 1024 → List Byte → List (Nat × List (Nat × Nat) × Nat × Addr)

/-- The bytes of a model's streamed image that are entries of PCNT vectors: offset, layer, expert; the spec leaves the image's layout to the Tillor
release (R351, R353; log entry 63). -/
opaque pcntPlaces : BitVec 1024 → List (Nat × Nat × Nat)

/-- Where the BYTES_OUT region lies in a model's image (log entry 10). -/
opaque outOffset : BitVec 1024 → Nat

/-- Staging SRAM in the die's address map (R310). -/
def stagingBase : Addr := 0xFE0000000000
/-- Its size, 24 MiB (R310). -/
def stagingSize : Nat := 0x1800000
/-- The pool region's offset in staging (R310). -/
def poolRegionOff : Nat := 0x600000
/-- The hold area's offset and size (R310, R251). -/
def holdOff : Nat := 0x500000
def holdSize : Nat := 0x40000
/-- The Keeper region's offset (R310). -/
def keeperOff : Nat := 0x540000
/-- The staging aperture (R323). -/
def apertureBase : Addr := 0xFF0000000000
/-- One window of the aperture: 4 GiB (R323). -/
def apertureWindow : Nat := 0x100000000
/-- One past the last byte address (R323: the aperture ends the 48-bit space). -/
def addrTop : Addr := 0x1000000000000

end Sys2Proof.Config
end

