-- ==== Sys2Proof/Machine/Bits.lean ====
section
/-! DEFINITION. Byte order, CRCs, and sparse maps in canonical form, which every other file of the machine uses. -/

namespace Sys2Proof.Machine

/-! ### Sparse maps: lists of (key, value), keys strictly rising, no entry equal to what an unlisted key reads as -/

/-- The value of key k, d k where it is not listed. -/
def cellGet {α : Type} (d : Nat → α) (l : List (Nat × α)) (k : Nat) : α :=
  match l with
  | [] => d k
  | (i, v) :: t => if i = k then v else cellGet d t k

/-- Put v at key k: in its place, and not at all where it is what an unlisted key reads as. -/
def cellSet {α : Type} [DecidableEq α] (d : Nat → α) (l : List (Nat × α)) (k : Nat) (v : α) : List (Nat × α) :=
  match l with
  | [] => if v = d k then [] else [(k, v)]
  | (i, w) :: t =>
    if i < k then (i, w) :: cellSet d t k v
    else if i = k then (if v = d k then t else (k, v) :: t)
    else (if v = d k then (i, w) :: t else (k, v) :: (i, w) :: t)

/-- The canonical form of any list of entries: the first entry of a key is the one that counts. -/
def cellCanon {α : Type} [DecidableEq α] (d : Nat → α) (l : List (Nat × α)) : List (Nat × α) :=
  l.foldr (fun e acc => cellSet d acc e.1 e.2) []

/-- Keys strictly rise from lo on, and no entry holds what an unlisted key reads as. -/
def cellWfFrom {α : Type} [DecidableEq α] (d : Nat → α) (lo : Nat) : List (Nat × α) → Bool
  | [] => true
  | (i, v) :: t => decide (lo ≤ i) && decide (v ≠ d i) && cellWfFrom d (i + 1) t

/-- The canonical form holds. -/
def cellWf {α : Type} [DecidableEq α] (d : Nat → α) (l : List (Nat × α)) : Bool := cellWfFrom d 0 l

/-! ### Bytes -/

/-- n bytes of a number, little-endian (R13). -/
def leBytes : Nat → Nat → List Byte
  | 0, _ => []
  | n + 1, v => BitVec.ofNat 8 v :: leBytes n (v / 256)

/-- A list of bytes as a little-endian number (R13). -/
def leNat : List Byte → Nat
  | [] => 0
  | b :: t => b.toNat + 256 * leNat t

/-- Bytes i to i + n - 1 of a list as a little-endian number; bytes beyond the list are zero. -/
def leAt (l : List Byte) (i n : Nat) : Nat := leNat ((l.drop i).take n)

/-! ### CRCs -/

/-- One bit of the reflected CRC-32C (R186). -/
def crc32cBit (c : Nat) : Nat := if c % 2 = 1 then Nat.xor (c / 2) 0x82F63B78 else c / 2

/-- One byte of the reflected CRC-32C (R186). -/
def crc32cByte (c : Nat) (b : Byte) : Nat :=
  let x := Nat.xor c b.toNat
  crc32cBit (crc32cBit (crc32cBit (crc32cBit (crc32cBit (crc32cBit (crc32cBit (crc32cBit x)))))))

/-- The bytes of a CRC-32C in order. The match is a fold over them that makes each value a number before it takes the next byte. -/
def crc32cRun (c : Nat) : List Byte → Nat
  | [] => c
  | b :: t => match crc32cByte c b with
    | 0 => crc32cRun 0 t
    | n + 1 => crc32cRun (n + 1) t

/-- CRC-32C of R186: polynomial 0x1EDC6F41 reflected, initial and final 0xFFFFFFFF. -/
def crc32c (l : List Byte) : W32 := BitVec.ofNat 32 (Nat.xor (crc32cRun 0xFFFFFFFF l) 0xFFFFFFFF)

/-- One bit of the CRC-16 of R259. -/
def crc16Bit (c : Nat) : Nat := if c ≥ 0x8000 then Nat.xor ((c * 2) % 0x10000) 0x1021 else c * 2

/-- One byte of the CRC-16 of R259, most significant bit first. -/
def crc16Byte (c : Nat) (b : Byte) : Nat :=
  let x := Nat.xor c (b.toNat * 256)
  crc16Bit (crc16Bit (crc16Bit (crc16Bit (crc16Bit (crc16Bit (crc16Bit (crc16Bit x)))))))

/-- CRC-16 of R259: polynomial 0x1021, initial 0xFFFF, no reflection, no final XOR. -/
def crc16 (l : List Byte) : W16 := BitVec.ofNat 16 (l.foldl crc16Byte 0xFFFF)

/-! ### Small list helpers -/

/-- Replace the first element that p holds of by f of it. -/
def modFirst {α : Type} (p : α → Bool) (f : α → α) : List α → List α
  | [] => []
  | x :: t => if p x then f x :: t else x :: modFirst p f t

/-- Remove the first element that p holds of. -/
def dropFirst {α : Type} (p : α → Bool) : List α → List α
  | [] => []
  | x :: t => if p x then t else x :: dropFirst p t

/-- Insert into a list sorted by le, after its equals. -/
def insertBy {α : Type} (le : α → α → Bool) (x : α) : List α → List α
  | [] => [x]
  | y :: t => if le y x then y :: insertBy le x t else x :: y :: t

/-- A stable sort. -/
def sortBy {α : Type} (le : α → α → Bool) (l : List α) : List α := l.foldl (fun acc x => insertBy le x acc) []

/-- Insert a number into a strictly rising list. -/
def insNat (x : Nat) : List Nat → List Nat
  | [] => [x]
  | y :: t => if x < y then x :: y :: t else if x = y then y :: t else y :: insNat x t

/-- The elements of a list with their positions, from i on. -/
def withIdx {α : Type} : Nat → List α → List (Nat × α)
  | _, [] => []
  | i, x :: t => (i, x) :: withIdx (i + 1) t

/-- The first n of a list cut into chunks of size c (c at least 1). -/
def chunksOf {α : Type} (c : Nat) : Nat → List α → List (List α)
  | 0, _ => []
  | n + 1, l => l.take c :: chunksOf c n (l.drop c)

end Sys2Proof.Machine
end

