-- ==== Sys2Proof/Machine/RegMap.lean ====
section
/-! DEFINITION. The registers of the 64 KiB window: one row per register, with its offset, its reset value, the mask of its fields by
access code (R17) and the boundary at which its staged fields apply (R424). Offsets and fields stand in the register tables of
spec/02 to spec/16; the boundary in spec/16_register_interface.md R424. -/

namespace Sys2Proof.Machine

/-- The boundary kinds of R424. -/
inductive Bound where
  | step | flip | aon | flush | pool
deriving DecidableEq, Repr

/-- One register: offset, reset value, masks of its RW, RWS, RC, WO and RO fields, boundary of its RWS fields. -/
structure RegRow where
  off : Nat
  reset : Nat
  rw : Nat
  rws : Nat
  rc : Nat
  wo : Nat
  ro : Nat
  bound : Bound
deriving DecidableEq, Repr

/-- Registers 0x0000 to 0x0040. -/
def regsCore : List RegRow :=
  [ ⟨0x0000, 0x1000000, 0, 0, 0, 0, 0xff0fffff, .step⟩,
    ⟨0x0004, 0, 0x1, 0, 0, 0, 0, .step⟩,
    ⟨0x0008, 0, 0, 0, 0x3, 0, 0xc, .step⟩,
    ⟨0x000C, 0, 0, 0, 0, 0, 0xfffff, .step⟩,
    ⟨0x0010, 0, 0, 0, 0, 0, 0xffffffff, .step⟩,
    ⟨0x0014, 0, 0, 0, 0, 0, 0xffffffff, .step⟩,
    ⟨0x0018, 0, 0, 0, 0, 0, 0xffffffff, .step⟩,
    ⟨0x001C, 0, 0, 0, 0, 0, 0x3f, .step⟩,
    ⟨0x0020, 0, 0, 0, 0, 0, 0xffffffff, .step⟩,
    ⟨0x0024, 0, 0, 0, 0, 0, 0xffffffff, .step⟩,
    ⟨0x0028, 0, 0xffffffff, 0, 0, 0, 0, .step⟩,
    ⟨0x0040, 0, 0, 0, 0, 0, 0xff, .step⟩ ]

/-- Registers 0x1000 to 0x1160. -/
def regsKeep0 : List RegRow :=
  [ ⟨0x1000, 0, 0, 0, 0x7, 0, 0x8, .step⟩,
    ⟨0x1004, 0x3, 0, 0xf, 0, 0, 0, .step⟩,
    ⟨0x1008, 0, 0, 0, 0, 0, 0xffffffff, .step⟩,
    ⟨0x100C, 0, 0, 0, 0, 0, 0xf, .step⟩,
    ⟨0x1010, 0, 0, 0, 0, 0, 0xffffffff, .step⟩,
    ⟨0x1014, 0, 0, 0, 0, 0, 0xffffffff, .step⟩,
    ⟨0x1018, 0, 0, 0, 0, 0, 0xffffffff, .step⟩,
    ⟨0x101C, 0, 0, 0, 0, 0, 0xffffffff, .step⟩,
    ⟨0x1020, 0, 0, 0, 0, 0, 0xffffffff, .step⟩,
    ⟨0x1024, 0, 0x3ff, 0, 0, 0, 0, .step⟩,
    ⟨0x1028, 0, 0, 0, 0, 0, 0xffffffff, .step⟩,
    ⟨0x102C, 0, 0x3f, 0, 0, 0, 0, .step⟩,
    ⟨0x1030, 0, 0, 0, 0, 0, 0x1ffffff, .step⟩,
    ⟨0x1034, 0, 0, 0xffffffff, 0, 0, 0, .step⟩,
    ⟨0x1038, 0, 0, 0xffff, 0, 0, 0, .step⟩,
    ⟨0x1040, 0, 0, 0, 0, 0, 0x7fff, .step⟩,
    ⟨0x1044, 0, 0, 0, 0, 0, 0x7fff, .step⟩,
    ⟨0x1048, 0, 0, 0, 0, 0, 0x7fff, .step⟩,
    ⟨0x104C, 0, 0, 0, 0, 0, 0x7fff, .step⟩,
    ⟨0x1050, 0, 0, 0, 0, 0, 0x7fff, .step⟩,
    ⟨0x1054, 0, 0, 0, 0, 0, 0x7fff, .step⟩,
    ⟨0x1058, 0, 0, 0, 0, 0, 0x7fff, .step⟩,
    ⟨0x105C, 0, 0, 0, 0, 0, 0x7fff, .step⟩,
    ⟨0x1060, 0, 0, 0, 0, 0, 0x7fff, .step⟩,
    ⟨0x1064, 0, 0, 0, 0, 0, 0x7fff, .step⟩,
    ⟨0x1068, 0, 0, 0, 0, 0, 0x7fff, .step⟩,
    ⟨0x106C, 0, 0, 0, 0, 0, 0x7fff, .step⟩,
    ⟨0x1070, 0, 0, 0, 0, 0, 0x7fff, .step⟩,
    ⟨0x1074, 0, 0, 0, 0, 0, 0x7fff, .step⟩,
    ⟨0x1078, 0, 0, 0, 0, 0, 0x7fff, .step⟩,
    ⟨0x107C, 0, 0, 0, 0, 0, 0x7fff, .step⟩,
    ⟨0x1080, 0, 0, 0, 0, 0, 0x7fff, .step⟩,
    ⟨0x1084, 0, 0, 0, 0, 0, 0x7fff, .step⟩,
    ⟨0x1088, 0, 0, 0, 0, 0, 0x7fff, .step⟩,
    ⟨0x108C, 0, 0, 0, 0, 0, 0x7fff, .step⟩,
    ⟨0x1100, 0, 0, 0, 0, 0xffffffff, 0, .step⟩,
    ⟨0x1104, 0, 0, 0, 0, 0xffffffff, 0, .step⟩,
    ⟨0x1108, 0, 0, 0, 0, 0xffffffff, 0, .step⟩,
    ⟨0x110C, 0, 0, 0, 0, 0xffffffff, 0, .step⟩,
    ⟨0x1110, 0, 0, 0, 0, 0xffffffff, 0, .step⟩,
    ⟨0x1114, 0, 0, 0, 0, 0xffffffff, 0, .step⟩,
    ⟨0x1118, 0, 0, 0, 0, 0xffffffff, 0, .step⟩,
    ⟨0x111C, 0, 0, 0, 0, 0xffffffff, 0, .step⟩,
    ⟨0x1120, 0, 0, 0, 0, 0xffffffff, 0, .step⟩,
    ⟨0x1124, 0, 0, 0, 0, 0xffffffff, 0, .step⟩,
    ⟨0x1128, 0, 0, 0, 0, 0xffffffff, 0, .step⟩,
    ⟨0x112C, 0, 0, 0, 0, 0xffffffff, 0, .step⟩,
    ⟨0x1130, 0, 0, 0, 0, 0xffffffff, 0, .step⟩,
    ⟨0x1134, 0, 0, 0, 0, 0xffffffff, 0, .step⟩,
    ⟨0x1138, 0, 0, 0, 0, 0xffffffff, 0, .step⟩,
    ⟨0x113C, 0, 0, 0, 0, 0xffffffff, 0, .step⟩,
    ⟨0x1140, 0, 0, 0, 0, 0xffffffff, 0, .step⟩,
    ⟨0x1144, 0, 0, 0, 0, 0xffffffff, 0, .step⟩,
    ⟨0x1148, 0, 0, 0, 0, 0xffffffff, 0, .step⟩,
    ⟨0x114C, 0, 0, 0, 0, 0xffffffff, 0, .step⟩,
    ⟨0x1150, 0, 0, 0, 0, 0xffffffff, 0, .step⟩,
    ⟨0x1154, 0, 0, 0, 0, 0xffffffff, 0, .step⟩,
    ⟨0x1158, 0, 0, 0, 0, 0xffffffff, 0, .step⟩,
    ⟨0x115C, 0, 0, 0, 0, 0xffffffff, 0, .step⟩,
    ⟨0x1160, 0, 0, 0, 0, 0xffffffff, 0, .step⟩ ]

/-- Registers 0x1164 to 0x123C. -/
def regsKeep1 : List RegRow :=
  [ ⟨0x1164, 0, 0, 0, 0, 0xffffffff, 0, .step⟩,
    ⟨0x1168, 0, 0, 0, 0, 0xffffffff, 0, .step⟩,
    ⟨0x116C, 0, 0, 0, 0, 0xffffffff, 0, .step⟩,
    ⟨0x1170, 0, 0, 0, 0, 0xffffffff, 0, .step⟩,
    ⟨0x1174, 0, 0, 0, 0, 0xffffffff, 0, .step⟩,
    ⟨0x1178, 0, 0, 0, 0, 0xffffffff, 0, .step⟩,
    ⟨0x117C, 0, 0, 0, 0, 0xffffffff, 0, .step⟩,
    ⟨0x1180, 0, 0, 0, 0, 0xffffffff, 0, .step⟩,
    ⟨0x1184, 0, 0, 0, 0, 0xffffffff, 0, .step⟩,
    ⟨0x1188, 0, 0, 0, 0, 0xffffffff, 0, .step⟩,
    ⟨0x118C, 0, 0, 0, 0, 0xffffffff, 0, .step⟩,
    ⟨0x1190, 0, 0, 0, 0, 0xffffffff, 0, .step⟩,
    ⟨0x1194, 0, 0, 0, 0, 0xffffffff, 0, .step⟩,
    ⟨0x1198, 0, 0, 0, 0, 0xffffffff, 0, .step⟩,
    ⟨0x119C, 0, 0, 0, 0, 0xffffffff, 0, .step⟩,
    ⟨0x11A0, 0, 0, 0, 0, 0xffffffff, 0, .step⟩,
    ⟨0x11A4, 0, 0, 0, 0, 0xffffffff, 0, .step⟩,
    ⟨0x11A8, 0, 0, 0, 0, 0xffffffff, 0, .step⟩,
    ⟨0x11AC, 0, 0, 0, 0, 0xffffffff, 0, .step⟩,
    ⟨0x11B0, 0, 0, 0, 0, 0xffffffff, 0, .step⟩,
    ⟨0x11B4, 0, 0, 0, 0, 0xffffffff, 0, .step⟩,
    ⟨0x11B8, 0, 0, 0, 0, 0xffffffff, 0, .step⟩,
    ⟨0x11BC, 0, 0, 0, 0, 0xffffffff, 0, .step⟩,
    ⟨0x11C0, 0, 0, 0, 0, 0xffffffff, 0, .step⟩,
    ⟨0x11C4, 0, 0, 0, 0, 0xffffffff, 0, .step⟩,
    ⟨0x11C8, 0, 0, 0, 0, 0xffffffff, 0, .step⟩,
    ⟨0x11CC, 0, 0, 0, 0, 0xffffffff, 0, .step⟩,
    ⟨0x11D0, 0, 0, 0, 0, 0xffffffff, 0, .step⟩,
    ⟨0x11D4, 0, 0, 0, 0, 0xffffffff, 0, .step⟩,
    ⟨0x11D8, 0, 0, 0, 0, 0xffffffff, 0, .step⟩,
    ⟨0x11DC, 0, 0, 0, 0, 0xffffffff, 0, .step⟩,
    ⟨0x11E0, 0, 0, 0, 0, 0xffffffff, 0, .step⟩,
    ⟨0x11E4, 0, 0, 0, 0, 0xffffffff, 0, .step⟩,
    ⟨0x11E8, 0, 0, 0, 0, 0xffffffff, 0, .step⟩,
    ⟨0x11EC, 0, 0, 0, 0, 0xffffffff, 0, .step⟩,
    ⟨0x11F0, 0, 0, 0, 0, 0xffffffff, 0, .step⟩,
    ⟨0x11F4, 0, 0, 0, 0, 0xffffffff, 0, .step⟩,
    ⟨0x11F8, 0, 0, 0, 0, 0xffffffff, 0, .step⟩,
    ⟨0x11FC, 0, 0, 0, 0, 0xffffffff, 0, .step⟩,
    ⟨0x1200, 0, 0, 0, 0, 0x1, 0, .step⟩,
    ⟨0x1204, 0, 0, 0, 0x180, 0, 0x7f, .step⟩,
    ⟨0x1208, 0, 0, 0, 0, 0x1, 0, .step⟩,
    ⟨0x120C, 0, 0, 0, 0, 0, 0xffffffff, .step⟩,
    ⟨0x1210, 0, 0, 0, 0, 0, 0xffffffff, .step⟩,
    ⟨0x1220, 0, 0, 0, 0, 0, 0xffffffff, .step⟩,
    ⟨0x1224, 0, 0, 0, 0, 0, 0xffffffff, .step⟩,
    ⟨0x1228, 0, 0, 0, 0, 0, 0xffffffff, .step⟩,
    ⟨0x122C, 0, 0, 0, 0, 0, 0xffffffff, .step⟩,
    ⟨0x1230, 0, 0, 0, 0, 0, 0xffffffff, .step⟩,
    ⟨0x1234, 0, 0, 0, 0, 0, 0xffffffff, .step⟩,
    ⟨0x1238, 0, 0, 0, 0, 0, 0xffffffff, .step⟩,
    ⟨0x123C, 0, 0, 0, 0, 0, 0xffffffff, .step⟩ ]

/-- Registers 0x2000 to 0x2E34. -/
def regsScore : List RegRow :=
  [ ⟨0x2000, 0x3, 0, 0x3, 0, 0, 0, .step⟩,
    ⟨0x2004, 0x10ff, 0, 0, 0, 0, 0x7fff, .step⟩,
    ⟨0x2008, 0, 0, 0x1ff0000, 0, 0, 0x1ff, .step⟩,
    ⟨0x200C, 0, 0, 0, 0x3f, 0, 0x1c0, .step⟩,
    ⟨0x2010, 0, 0, 0, 0, 0, 0xffffffff, .step⟩,
    ⟨0x2014, 0, 0, 0, 0, 0, 0xffff000f, .step⟩,
    ⟨0x2018, 0, 0, 0, 0, 0, 0xffffffff, .step⟩,
    ⟨0x201C, 0, 0, 0, 0, 0, 0xffffffff, .step⟩,
    ⟨0x2020, 0, 0, 0, 0, 0, 0xffffffff, .step⟩,
    ⟨0x2024, 0, 0, 0, 0, 0, 0xffffffff, .step⟩,
    ⟨0x2400, 0, 0, 0, 0x1f, 0, 0x20, .step⟩,
    ⟨0x2404, 0, 0, 0, 0, 0, 0xffffffff, .step⟩,
    ⟨0x2408, 0, 0, 0, 0, 0, 0xffffffff, .step⟩,
    ⟨0x2410, 0, 0, 0, 0, 0, 0xffffffff, .step⟩,
    ⟨0x2414, 0, 0, 0, 0, 0, 0xffffffff, .step⟩,
    ⟨0x2800, 0, 0, 0, 0x3f, 0, 0, .step⟩,
    ⟨0x2804, 0, 0, 0, 0, 0, 0xffffffff, .step⟩,
    ⟨0x2808, 0, 0, 0, 0, 0, 0xffffffff, .step⟩,
    ⟨0x280C, 0, 0, 0, 0, 0, 0xffffffff, .step⟩,
    ⟨0x2810, 0, 0, 0, 0, 0, 0xffffffff, .step⟩,
    ⟨0x2814, 0, 0, 0, 0, 0, 0xffffffff, .step⟩,
    ⟨0x2820, 0x2, 0, 0x1ff, 0, 0, 0, .step⟩,
    ⟨0x2824, 0, 0, 0xffffffff, 0, 0, 0, .step⟩,
    ⟨0x2828, 0, 0, 0xffffffff, 0, 0, 0, .step⟩,
    ⟨0x282C, 0, 0, 0, 0, 0, 0xffffffff, .step⟩,
    ⟨0x2830, 0, 0, 0, 0, 0, 0xffffffff, .step⟩,
    ⟨0x2834, 0, 0, 0, 0, 0, 0xffffffff, .step⟩,
    ⟨0x2E00, 0x4000000c, 0, 0xffffffff, 0, 0, 0, .step⟩,
    ⟨0x2E04, 0x20000000, 0, 0xffff7fff, 0, 0, 0, .step⟩,
    ⟨0x2E10, 0, 0, 0x7fff3fff, 0, 0, 0, .step⟩,
    ⟨0x2E14, 0, 0, 0x7fff3fff, 0, 0, 0, .step⟩,
    ⟨0x2E18, 0, 0, 0x7fff3fff, 0, 0, 0, .step⟩,
    ⟨0x2E1C, 0, 0, 0x7fff3fff, 0, 0, 0, .step⟩,
    ⟨0x2E20, 0, 0, 0xffffffff, 0, 0, 0, .step⟩,
    ⟨0x2E24, 0, 0, 0xffff, 0, 0, 0, .step⟩,
    ⟨0x2E28, 0, 0, 0xffffffff, 0, 0, 0, .step⟩,
    ⟨0x2E2C, 0, 0, 0xffff, 0, 0, 0, .step⟩,
    ⟨0x2E30, 0, 0, 0, 0x1f, 0, 0, .step⟩,
    ⟨0x2E34, 0, 0, 0, 0, 0, 0xffffffff, .step⟩ ]

/-- Registers 0x3000 to 0x3810. -/
def regsSort : List RegRow :=
  [ ⟨0x3000, 0x8f, 0, 0, 0, 0, 0x3ff, .step⟩,
    ⟨0x3004, 0, 0, 0x1f0000, 0, 0, 0x1f, .step⟩,
    ⟨0x3008, 0, 0, 0, 0x1f, 0, 0, .step⟩,
    ⟨0x300C, 0, 0, 0, 0, 0, 0xffffffff, .step⟩,
    ⟨0x3010, 0, 0, 0xffffffff, 0, 0, 0, .flip⟩,
    ⟨0x3014, 0, 0, 0xffff, 0, 0, 0, .flip⟩,
    ⟨0x3018, 0, 0, 0, 0, 0, 0xffffffff, .step⟩,
    ⟨0x301C, 0, 0, 0, 0, 0, 0xffffffff, .step⟩,
    ⟨0x3100, 0, 0, 0, 0x7, 0, 0, .step⟩,
    ⟨0x3104, 0, 0, 0, 0, 0, 0xffffffff, .step⟩,
    ⟨0x3108, 0, 0, 0, 0, 0, 0xffffffff, .step⟩,
    ⟨0x3400, 0x200200, 0, 0x1ffffff, 0, 0, 0, .step⟩,
    ⟨0x3404, 0, 0, 0xffffffff, 0, 0, 0, .flip⟩,
    ⟨0x3408, 0x2002000, 0, 0xfffffff, 0, 0, 0, .step⟩,
    ⟨0x340C, 0, 0, 0, 0x7, 0, 0, .step⟩,
    ⟨0x3410, 0, 0, 0, 0, 0, 0xffffffff, .step⟩,
    ⟨0x3414, 0, 0, 0, 0, 0, 0xffffffff, .step⟩,
    ⟨0x3418, 0, 0, 0, 0, 0, 0xffffffff, .step⟩,
    ⟨0x341C, 0, 0, 0, 0, 0, 0xffffffff, .step⟩,
    ⟨0x3420, 0, 0, 0, 0, 0, 0xffffffff, .step⟩,
    ⟨0x3424, 0, 0, 0, 0, 0, 0xffffffff, .step⟩,
    ⟨0x3800, 0, 0, 0, 0xe, 0, 0x1, .step⟩,
    ⟨0x3804, 0x30000000, 0, 0x7fff0000, 0, 0, 0x7fff, .flip⟩,
    ⟨0x3808, 0, 0, 0, 0, 0, 0xffffffff, .step⟩,
    ⟨0x380C, 0, 0, 0, 0, 0, 0xffffffff, .step⟩,
    ⟨0x3810, 0, 0, 0, 0, 0, 0xffffffff, .step⟩ ]

/-- Registers 0x4000 to 0x464C. -/
def regsXchg : List RegRow :=
  [ ⟨0x4000, 0x40001000, 0, 0xffffffff, 0, 0, 0, .step⟩,
    ⟨0x4004, 0, 0, 0, 0x3f, 0, 0, .step⟩,
    ⟨0x4008, 0, 0, 0, 0, 0, 0xffffffff, .step⟩,
    ⟨0x400C, 0, 0, 0, 0, 0, 0xffffffff, .step⟩,
    ⟨0x4010, 0, 0, 0, 0, 0, 0xffffffff, .step⟩,
    ⟨0x4014, 0, 0, 0, 0, 0, 0xffffffff, .step⟩,
    ⟨0x4018, 0, 0, 0, 0, 0, 0xffffffff, .step⟩,
    ⟨0x401C, 0, 0, 0, 0, 0, 0xffffffff, .step⟩,
    ⟨0x4100, 0, 0, 0, 0, 0, 0x7, .step⟩,
    ⟨0x4104, 0, 0, 0xffffffff, 0, 0, 0, .flip⟩,
    ⟨0x4108, 0, 0, 0xffff, 0, 0, 0, .flip⟩,
    ⟨0x410C, 0, 0, 0, 0x3ff, 0, 0, .step⟩,
    ⟨0x4110, 0, 0, 0, 0, 0, 0xffffffff, .step⟩,
    ⟨0x4114, 0, 0, 0, 0, 0, 0xffffffff, .step⟩,
    ⟨0x4118, 0, 0, 0, 0, 0, 0xffffffff, .step⟩,
    ⟨0x411C, 0, 0, 0, 0, 0, 0xffffffff, .step⟩,
    ⟨0x4120, 0x3200, 0, 0x7f00, 0, 0, 0x1, .step⟩,
    ⟨0x4300, 0, 0, 0xffffffff, 0, 0, 0, .flip⟩,
    ⟨0x4304, 0, 0, 0xffff, 0, 0, 0, .flip⟩,
    ⟨0x4308, 0, 0, 0, 0x7, 0, 0, .step⟩,
    ⟨0x430C, 0, 0, 0, 0, 0, 0xffffffff, .step⟩,
    ⟨0x4310, 0, 0, 0, 0, 0, 0xffffffff, .step⟩,
    ⟨0x4314, 0, 0, 0, 0, 0, 0xffffffff, .step⟩,
    ⟨0x4318, 0, 0, 0, 0, 0, 0xffffffff, .step⟩,
    ⟨0x431C, 0, 0, 0, 0, 0, 0xffffffff, .step⟩,
    ⟨0x4320, 0, 0, 0, 0, 0, 0xffffffff, .step⟩,
    ⟨0x4400, 0, 0, 0, 0x7, 0, 0, .step⟩,
    ⟨0x4404, 0, 0, 0, 0, 0, 0xffffffff, .step⟩,
    ⟨0x4408, 0, 0, 0, 0, 0, 0xffffffff, .step⟩,
    ⟨0x440C, 0, 0, 0, 0, 0, 0xffffffff, .step⟩,
    ⟨0x4600, 0x4419, 0, 0xffff, 0, 0, 0, .flip⟩,
    ⟨0x4604, 0, 0, 0xffff03ff, 0, 0, 0, .flip⟩,
    ⟨0x4608, 0, 0, 0xffff03ff, 0, 0, 0, .flip⟩,
    ⟨0x460C, 0, 0, 0xffff03ff, 0, 0, 0, .flip⟩,
    ⟨0x4610, 0, 0, 0xffff03ff, 0, 0, 0, .flip⟩,
    ⟨0x4614, 0, 0, 0, 0, 0, 0x3f, .step⟩,
    ⟨0x4618, 0, 0, 0, 0, 0, 0xffffffff, .step⟩,
    ⟨0x461C, 0, 0, 0, 0, 0, 0xffffffff, .step⟩,
    ⟨0x4620, 0, 0, 0, 0, 0, 0xffffffff, .step⟩,
    ⟨0x4624, 0, 0, 0, 0x3ff, 0, 0, .step⟩,
    ⟨0x4628, 0, 0, 0, 0, 0, 0xffff, .step⟩,
    ⟨0x462C, 0, 0, 0, 0, 0, 0xfffffff, .step⟩,
    ⟨0x4640, 0, 0, 0, 0, 0, 0xffffffff, .step⟩,
    ⟨0x4644, 0, 0, 0, 0, 0, 0xffffffff, .step⟩,
    ⟨0x4648, 0, 0, 0, 0, 0, 0xffffffff, .step⟩,
    ⟨0x464C, 0, 0, 0, 0, 0, 0xffffffff, .step⟩ ]

/-- Registers 0x5000 to 0x5C10. -/
def regsComb : List RegRow :=
  [ ⟨0x5000, 0x200, 0, 0x3ff, 0, 0, 0, .step⟩,
    ⟨0x5004, 0, 0, 0x7ff, 0, 0, 0, .step⟩,
    ⟨0x5008, 0, 0, 0, 0x3f, 0, 0x40, .step⟩,
    ⟨0x500C, 0, 0, 0, 0, 0, 0xffffffff, .step⟩,
    ⟨0x5010, 0, 0, 0, 0, 0, 0xffffffff, .step⟩,
    ⟨0x5014, 0, 0, 0, 0, 0, 0xffffffff, .step⟩,
    ⟨0x5018, 0, 0, 0, 0, 0, 0xffffffff, .step⟩,
    ⟨0x501C, 0, 0, 0, 0, 0, 0xffffffff, .step⟩,
    ⟨0x5020, 0, 0, 0, 0, 0, 0xffffffff, .step⟩,
    ⟨0x5024, 0, 0, 0, 0, 0, 0xffffffff, .step⟩,
    ⟨0x5400, 0, 0, 0xffffffff, 0, 0, 0, .pool⟩,
    ⟨0x5404, 0, 0, 0xffff, 0, 0, 0, .pool⟩,
    ⟨0x5408, 0, 0, 0x1ffff, 0, 0, 0, .pool⟩,
    ⟨0x540C, 0, 0, 0xffffffff, 0, 0, 0, .pool⟩,
    ⟨0x5410, 0, 0, 0xffff, 0, 0, 0, .pool⟩,
    ⟨0x5414, 0, 0, 0, 0, 0, 0x1ffff, .pool⟩,
    ⟨0x5420, 0, 0, 0xffffffff, 0, 0, 0, .pool⟩,
    ⟨0x5424, 0, 0, 0xffff, 0, 0, 0, .pool⟩,
    ⟨0x5428, 0, 0, 0x1ffff, 0, 0, 0, .pool⟩,
    ⟨0x542C, 0, 0, 0xffffffff, 0, 0, 0, .pool⟩,
    ⟨0x5430, 0, 0, 0xffff, 0, 0, 0, .pool⟩,
    ⟨0x5434, 0, 0, 0, 0, 0, 0x1ffff, .pool⟩,
    ⟨0x5440, 0, 0, 0xffffffff, 0, 0, 0, .pool⟩,
    ⟨0x5444, 0, 0, 0xffff, 0, 0, 0, .pool⟩,
    ⟨0x5448, 0, 0, 0x1ffff, 0, 0, 0, .pool⟩,
    ⟨0x544C, 0, 0, 0xffffffff, 0, 0, 0, .pool⟩,
    ⟨0x5450, 0, 0, 0xffff, 0, 0, 0, .pool⟩,
    ⟨0x5454, 0, 0, 0, 0, 0, 0x1ffff, .pool⟩,
    ⟨0x5460, 0, 0, 0xffffffff, 0, 0, 0, .pool⟩,
    ⟨0x5464, 0, 0, 0xffff, 0, 0, 0, .pool⟩,
    ⟨0x5468, 0, 0, 0x1ffff, 0, 0, 0, .pool⟩,
    ⟨0x546C, 0, 0, 0xffffffff, 0, 0, 0, .pool⟩,
    ⟨0x5470, 0, 0, 0xffff, 0, 0, 0, .pool⟩,
    ⟨0x5474, 0, 0, 0, 0, 0, 0x1ffff, .pool⟩,
    ⟨0x5480, 0, 0, 0xffffffff, 0, 0, 0, .pool⟩,
    ⟨0x5484, 0, 0, 0xffff, 0, 0, 0, .pool⟩,
    ⟨0x5488, 0, 0, 0x1ffff, 0, 0, 0, .pool⟩,
    ⟨0x548C, 0, 0, 0xffffffff, 0, 0, 0, .pool⟩,
    ⟨0x5490, 0, 0, 0xffff, 0, 0, 0, .pool⟩,
    ⟨0x5494, 0, 0, 0, 0, 0, 0x1ffff, .pool⟩,
    ⟨0x54A0, 0x600000, 0, 0xffffffff, 0, 0, 0, .pool⟩,
    ⟨0x54A4, 0xfe00, 0, 0xffff, 0, 0, 0, .pool⟩,
    ⟨0x54A8, 0x120, 0, 0x1ffff, 0, 0, 0, .pool⟩,
    ⟨0x54AC, 0x5ff000, 0, 0xffffffff, 0, 0, 0, .pool⟩,
    ⟨0x54B0, 0xfe00, 0, 0xffff, 0, 0, 0, .pool⟩,
    ⟨0x54B4, 0x120, 0, 0, 0, 0, 0x1ffff, .pool⟩,
    ⟨0x5500, 0, 0, 0, 0xf8, 0, 0x7, .step⟩,
    ⟨0x5504, 0, 0, 0, 0, 0, 0xffffffff, .step⟩,
    ⟨0x5508, 0, 0, 0, 0, 0, 0xffffffff, .step⟩,
    ⟨0x550C, 0, 0, 0, 0, 0, 0xffffffff, .step⟩,
    ⟨0x5510, 0, 0, 0, 0, 0, 0xffffffff, .step⟩,
    ⟨0x5514, 0, 0, 0, 0, 0, 0x3fff, .step⟩,
    ⟨0x5C00, 0, 0, 0, 0xf, 0, 0, .step⟩,
    ⟨0x5C04, 0, 0, 0, 0, 0x3, 0, .step⟩,
    ⟨0x5C08, 0, 0, 0, 0, 0, 0xffffffff, .step⟩,
    ⟨0x5C0C, 0, 0, 0, 0, 0, 0xffff, .step⟩,
    ⟨0x5C10, 0, 0, 0, 0, 0, 0xffffffff, .step⟩ ]

/-- Registers 0x6000 to 0x6C28. -/
def regsPart0 : List RegRow :=
  [ ⟨0x6000, 0, 0, 0, 0, 0, 0x1fff, .step⟩,
    ⟨0x6004, 0x40, 0, 0xffff, 0, 0, 0, .step⟩,
    ⟨0x6008, 0x410000, 0, 0xffffffff, 0, 0, 0, .step⟩,
    ⟨0x600C, 0x400000, 0, 0xffffffff, 0, 0, 0, .step⟩,
    ⟨0x6010, 0, 0, 0, 0xf, 0, 0x10, .step⟩,
    ⟨0x6018, 0, 0, 0, 0, 0, 0xffffffff, .step⟩,
    ⟨0x601C, 0, 0, 0, 0, 0, 0xffffffff, .step⟩,
    ⟨0x6020, 0, 0, 0, 0, 0, 0xffffffff, .step⟩,
    ⟨0x6024, 0, 0, 0, 0, 0, 0xffffffff, .step⟩,
    ⟨0x6028, 0, 0, 0, 0, 0, 0xffffffff, .step⟩,
    ⟨0x6030, 0, 0, 0, 0, 0, 0xffffffff, .step⟩,
    ⟨0x6034, 0x10, 0, 0, 0, 0, 0x1f, .step⟩,
    ⟨0x6038, 0, 0, 0, 0, 0, 0xffffffff, .step⟩,
    ⟨0x603C, 0, 0, 0, 0, 0, 0xffffffff, .step⟩,
    ⟨0x6040, 0, 0x1fff, 0, 0, 0, 0x80000000, .step⟩,
    ⟨0x6044, 0, 0, 0, 0, 0, 0xffffffff, .step⟩,
    ⟨0x6048, 0, 0, 0, 0, 0, 0xffffffff, .step⟩,
    ⟨0x604C, 0, 0, 0, 0, 0, 0xffffffff, .step⟩,
    ⟨0x6050, 0, 0, 0, 0, 0, 0xffffffff, .step⟩,
    ⟨0x6054, 0, 0, 0, 0, 0, 0xffffffff, .step⟩,
    ⟨0x6058, 0, 0, 0, 0, 0, 0xffffffff, .step⟩,
    ⟨0x605C, 0, 0, 0, 0, 0, 0xffffffff, .step⟩,
    ⟨0x6060, 0, 0, 0, 0, 0, 0xffffffff, .step⟩,
    ⟨0x6070, 0, 0xf, 0, 0, 0, 0, .step⟩,
    ⟨0x6074, 0, 0, 0, 0, 0, 0xffffffff, .step⟩,
    ⟨0x6078, 0, 0, 0, 0, 0, 0xffffffff, .step⟩,
    ⟨0x607C, 0, 0, 0, 0, 0, 0xffffffff, .step⟩,
    ⟨0x6080, 0, 0, 0, 0, 0, 0xffffffff, .step⟩,
    ⟨0x6400, 0x480, 0, 0x1fff, 0, 0x2000, 0, .step⟩,
    ⟨0x6404, 0, 0, 0, 0, 0, 0xffffffff, .step⟩,
    ⟨0x6408, 0, 0, 0, 0, 0, 0xffffffff, .step⟩,
    ⟨0x6410, 0, 0, 0, 0, 0, 0xffffffff, .step⟩,
    ⟨0x6414, 0, 0, 0, 0, 0, 0xffffffff, .step⟩,
    ⟨0x6418, 0, 0, 0, 0, 0, 0xffffffff, .step⟩,
    ⟨0x641C, 0, 0, 0, 0, 0, 0xffffffff, .step⟩,
    ⟨0x6420, 0, 0, 0, 0, 0, 0xffffffff, .step⟩,
    ⟨0x6424, 0, 0, 0, 0, 0, 0xffffffff, .step⟩,
    ⟨0x6430, 0, 0, 0, 0x30, 0, 0x4f, .step⟩,
    ⟨0x6434, 0, 0, 0, 0, 0, 0xffffffff, .step⟩,
    ⟨0x6438, 0, 0, 0, 0, 0, 0xffffffff, .step⟩,
    ⟨0x643C, 0, 0xffffffff, 0, 0, 0, 0, .step⟩,
    ⟨0x6440, 0, 0xffffffff, 0, 0, 0, 0, .step⟩,
    ⟨0x6444, 0x10, 0xffff, 0, 0, 0, 0, .step⟩,
    ⟨0x6448, 0, 0, 0, 0, 0, 0xffffffff, .step⟩,
    ⟨0x644C, 0, 0, 0, 0, 0, 0xffffffff, .step⟩,
    ⟨0x6450, 0, 0, 0, 0, 0, 0xffffffff, .step⟩,
    ⟨0x6454, 0, 0, 0, 0, 0, 0xffffffff, .step⟩,
    ⟨0x6458, 0, 0, 0, 0, 0, 0x1fffff, .step⟩,
    ⟨0x645C, 0, 0, 0, 0, 0, 0xffffffff, .step⟩,
    ⟨0x6C00, 0x5, 0xf, 0, 0, 0x10, 0, .step⟩,
    ⟨0x6C04, 0xc, 0x3fffff, 0, 0, 0, 0, .step⟩,
    ⟨0x6C08, 0x4, 0x3fffff, 0, 0, 0, 0, .step⟩,
    ⟨0x6C0C, 0, 0, 0xffffffff, 0, 0, 0, .flush⟩,
    ⟨0x6C10, 0, 0, 0xffff, 0, 0, 0, .flush⟩,
    ⟨0x6C14, 0, 0, 0x7ff, 0, 0, 0, .flush⟩,
    ⟨0x6C18, 0, 0, 0, 0x1a, 0, 0x65, .step⟩,
    ⟨0x6C1C, 0, 0, 0, 0, 0, 0x3fffff, .step⟩,
    ⟨0x6C20, 0, 0, 0, 0, 0, 0x3fffff, .step⟩,
    ⟨0x6C24, 0, 0, 0, 0, 0, 0xffffffff, .step⟩,
    ⟨0x6C28, 0, 0, 0, 0, 0, 0xffffffff, .step⟩ ]

/-- Registers 0x6C40 to 0x6C5C. -/
def regsPart1 : List RegRow :=
  [ ⟨0x6C40, 0, 0, 0, 0, 0, 0xffffffff, .step⟩,
    ⟨0x6C44, 0, 0, 0, 0, 0, 0xffffffff, .step⟩,
    ⟨0x6C48, 0, 0, 0, 0, 0, 0xffffffff, .step⟩,
    ⟨0x6C4C, 0, 0, 0, 0, 0, 0xffffffff, .step⟩,
    ⟨0x6C50, 0, 0, 0, 0, 0, 0xffffffff, .step⟩,
    ⟨0x6C54, 0, 0, 0, 0, 0, 0xffffffff, .step⟩,
    ⟨0x6C58, 0, 0, 0, 0, 0, 0xffffffff, .step⟩,
    ⟨0x6C5C, 0, 0, 0, 0, 0, 0xffffffff, .step⟩ ]

/-- Registers 0x7000 to 0x7224. -/
def regsRel0 : List RegRow :=
  [ ⟨0x7000, 0, 0, 0, 0x3cff, 0, 0x4300, .step⟩,
    ⟨0x7004, 0, 0, 0, 0, 0, 0xffffffff, .step⟩,
    ⟨0x7008, 0, 0, 0, 0, 0, 0xffffffff, .step⟩,
    ⟨0x700C, 0, 0, 0, 0, 0, 0xffffffff, .step⟩,
    ⟨0x7010, 0, 0, 0, 0, 0, 0xffffffff, .step⟩,
    ⟨0x7014, 0, 0, 0, 0, 0, 0xffffffff, .step⟩,
    ⟨0x7018, 0, 0, 0, 0, 0, 0xffffffff, .step⟩,
    ⟨0x701C, 0, 0, 0, 0, 0, 0xffffffff, .step⟩,
    ⟨0x7020, 0, 0, 0, 0, 0, 0xffffffff, .step⟩,
    ⟨0x7024, 0, 0, 0, 0, 0, 0xffffffff, .step⟩,
    ⟨0x7028, 0, 0, 0, 0, 0, 0xffff, .step⟩,
    ⟨0x702C, 0, 0, 0, 0, 0, 0xffffffff, .step⟩,
    ⟨0x7030, 0, 0, 0, 0, 0, 0x7fffff, .step⟩,
    ⟨0x7034, 0x21, 0x1ff, 0, 0, 0, 0, .step⟩,
    ⟨0x7038, 0, 0, 0, 0, 0, 0xffffffff, .step⟩,
    ⟨0x703C, 0x40, 0, 0xffff, 0, 0, 0, .step⟩,
    ⟨0x7040, 0, 0, 0, 0, 0, 0x800fffff, .step⟩,
    ⟨0x7044, 0, 0, 0, 0, 0, 0x800fffff, .step⟩,
    ⟨0x7048, 0, 0, 0, 0, 0, 0x800fffff, .step⟩,
    ⟨0x704C, 0, 0, 0, 0, 0, 0x800fffff, .step⟩,
    ⟨0x7050, 0, 0, 0, 0, 0, 0x800fffff, .step⟩,
    ⟨0x7054, 0, 0, 0, 0, 0, 0x800fffff, .step⟩,
    ⟨0x7058, 0, 0, 0, 0, 0, 0x800fffff, .step⟩,
    ⟨0x705C, 0, 0, 0, 0, 0, 0x800fffff, .step⟩,
    ⟨0x7060, 0, 0, 0, 0, 0, 0x800fffff, .step⟩,
    ⟨0x7064, 0, 0, 0, 0, 0, 0x800fffff, .step⟩,
    ⟨0x7068, 0, 0, 0, 0, 0, 0x800fffff, .step⟩,
    ⟨0x706C, 0, 0, 0, 0, 0, 0x800fffff, .step⟩,
    ⟨0x7070, 0, 0, 0, 0, 0, 0x800fffff, .step⟩,
    ⟨0x7074, 0, 0, 0, 0, 0, 0x800fffff, .step⟩,
    ⟨0x7078, 0, 0, 0, 0, 0, 0x800fffff, .step⟩,
    ⟨0x707C, 0, 0, 0, 0, 0, 0x800fffff, .step⟩,
    ⟨0x7080, 0, 0, 0x800fffff, 0, 0, 0, .flip⟩,
    ⟨0x7084, 0, 0, 0, 0, 0, 0xffffffff, .step⟩,
    ⟨0x7088, 0, 0, 0, 0, 0, 0xffffffff, .step⟩,
    ⟨0x708C, 0, 0, 0, 0, 0, 0xf, .step⟩,
    ⟨0x7090, 0, 0, 0, 0, 0, 0x3fffff, .step⟩,
    ⟨0x7094, 0, 0, 0, 0, 0, 0xffffffff, .step⟩,
    ⟨0x7098, 0, 0, 0, 0, 0, 0xffffffff, .step⟩,
    ⟨0x709C, 0, 0, 0, 0, 0, 0xffffffff, .step⟩,
    ⟨0x70A0, 0, 0, 0, 0, 0, 0xffffffff, .step⟩,
    ⟨0x7100, 0x1003, 0x1fff, 0, 0, 0, 0, .step⟩,
    ⟨0x7104, 0x81428, 0xffffff, 0, 0, 0, 0, .step⟩,
    ⟨0x7110, 0xffff, 0, 0, 0, 0, 0xffff, .step⟩,
    ⟨0x7114, 0xffff, 0, 0, 0, 0, 0xffff, .step⟩,
    ⟨0x7118, 0xffff, 0, 0, 0, 0, 0xffff, .step⟩,
    ⟨0x711C, 0xffff, 0, 0, 0, 0, 0xffff, .step⟩,
    ⟨0x7120, 0xffff, 0, 0, 0, 0, 0xffff, .step⟩,
    ⟨0x7124, 0, 0, 0xf, 0, 0, 0, .aon⟩,
    ⟨0x7128, 0, 0, 0, 0xf, 0, 0x70, .step⟩,
    ⟨0x7200, 0, 0, 0, 0, 0, 0xff, .step⟩,
    ⟨0x7204, 0x3, 0, 0x3, 0, 0, 0, .aon⟩,
    ⟨0x7208, 0, 0, 0, 0xf, 0, 0x1fff0, .step⟩,
    ⟨0x720C, 0x1, 0, 0, 0xf, 0, 0, .step⟩,
    ⟨0x7210, 0, 0, 0, 0, 0, 0xffffffff, .step⟩,
    ⟨0x7214, 0, 0, 0, 0, 0, 0xffffffff, .step⟩,
    ⟨0x7218, 0, 0, 0, 0, 0, 0xffffffff, .step⟩,
    ⟨0x721C, 0, 0, 0, 0, 0, 0xf, .step⟩,
    ⟨0x7220, 0, 0xffffffff, 0, 0, 0, 0, .step⟩,
    ⟨0x7224, 0, 0xffff, 0, 0, 0, 0, .step⟩ ]

/-- Registers 0x7228 to 0x7310. -/
def regsRel1 : List RegRow :=
  [ ⟨0x7228, 0, 0, 0, 0x2, 0x1, 0, .step⟩,
    ⟨0x7300, 0, 0, 0, 0x180, 0, 0x7f, .step⟩,
    ⟨0x7304, 0, 0, 0, 0, 0, 0xffffffff, .step⟩,
    ⟨0x7308, 0, 0xffffffff, 0, 0, 0, 0, .step⟩,
    ⟨0x730C, 0, 0xffff, 0, 0, 0, 0, .step⟩,
    ⟨0x7310, 0, 0, 0, 0, 0, 0xffffffff, .step⟩ ]

/-- Every register of the window in ascending offset (R418). -/
def regTable : List RegRow :=
  regsCore ++ regsKeep0 ++ regsKeep1 ++ regsScore ++ regsSort ++ regsXchg ++ regsComb ++ regsPart0 ++ regsPart1 ++ regsRel0 ++ regsRel1

/-- The row of the register at an offset, if one is mapped there (R418). -/
def regRow (off : Nat) : Option RegRow := regTable.find? (fun r => r.off == off)

end Sys2Proof.Machine

namespace Sys2Proof.Reg

/-- UZ_CORE_ID (R434). -/
abbrev CORE_ID : Nat := 0x0000
/-- UZ_CORE_CTL (R434). -/
abbrev CORE_CTL : Nat := 0x0004
/-- UZ_CORE_STAT (R434). -/
abbrev CORE_STAT : Nat := 0x0008
/-- UZ_CORE_ERR_ADDR (R434). -/
abbrev CORE_ERR_ADDR : Nat := 0x000C
/-- UZ_CORE_ERR_CNT (R434). -/
abbrev CORE_ERR_CNT : Nat := 0x0010
/-- UZ_CORE_CFG_CRC (R434). -/
abbrev CORE_CFG_CRC : Nat := 0x0014
/-- UZ_CORE_CFG_REF (R434). -/
abbrev CORE_CFG_REF : Nat := 0x0018
/-- UZ_CORE_PEND (R434). -/
abbrev CORE_PEND : Nat := 0x001C
/-- UZ_CORE_DEVID_LO (R434). -/
abbrev CORE_DEVID_LO : Nat := 0x0020
/-- UZ_CORE_DEVID_HI (R434). -/
abbrev CORE_DEVID_HI : Nat := 0x0024
/-- UZ_CORE_SCRATCH (R434). -/
abbrev CORE_SCRATCH : Nat := 0x0028
/-- UZ_CORE_SUMMARY (R434). -/
abbrev CORE_SUMMARY : Nat := 0x0040
/-- UZ_KEEP_STAT (R309). -/
abbrev KEEP_STAT : Nat := 0x1000
/-- UZ_KEEP_CFG (R309). -/
abbrev KEEP_CFG : Nat := 0x1004
/-- UZ_KEEP_FW_VER (R309). -/
abbrev KEEP_FW_VER : Nat := 0x1008
/-- UZ_KEEP_KGEN (R309). -/
abbrev KEEP_KGEN : Nat := 0x100C
/-- UZ_KEEP_COMMIT_LO (R309). -/
abbrev KEEP_COMMIT_LO : Nat := 0x1010
/-- UZ_KEEP_COMMIT_HI (R309). -/
abbrev KEEP_COMMIT_HI : Nat := 0x1014
/-- UZ_KEEP_KILL_CNT (R309). -/
abbrev KEEP_KILL_CNT : Nat := 0x1018
/-- UZ_KEEP_RERUN_CNT (R309). -/
abbrev KEEP_RERUN_CNT : Nat := 0x101C
/-- UZ_KEEP_REJ_CNT (R309). -/
abbrev KEEP_REJ_CNT : Nat := 0x1020
/-- UZ_KEEP_CNT_SEL (R309). -/
abbrev KEEP_CNT_SEL : Nat := 0x1024
/-- UZ_KEEP_CNT_VAL (R309). -/
abbrev KEEP_CNT_VAL : Nat := 0x1028
/-- UZ_KEEP_CPOOL_SEL (R309). -/
abbrev KEEP_CPOOL_SEL : Nat := 0x102C
/-- UZ_KEEP_CPOOL_VAL (R309). -/
abbrev KEEP_CPOOL_VAL : Nat := 0x1030
/-- UZ_KEEP_PUB_LO (R309). -/
abbrev KEEP_PUB_LO : Nat := 0x1034
/-- UZ_KEEP_PUB_HI (R309). -/
abbrev KEEP_PUB_HI : Nat := 0x1038
/-- UZ_KEEP_RING0_STAT and its successors (R309). -/
abbrev KEEP_RING_STAT (n : Nat) : Nat := 0x1040 + 4 * n
/-- UZ_KEEP_MB_CMD0 and its successors (R309). -/
abbrev KEEP_MB_CMD (n : Nat) : Nat := 0x1100 + 4 * n
/-- UZ_KEEP_MB_DOORBELL (R309). -/
abbrev KEEP_MB_DOORBELL : Nat := 0x1200
/-- UZ_KEEP_MB_STAT (R309). -/
abbrev KEEP_MB_STAT : Nat := 0x1204
/-- UZ_KEEP_MB_POP (R309). -/
abbrev KEEP_MB_POP : Nat := 0x1208
/-- UZ_KEEP_MB_DROP_CNT (R309). -/
abbrev KEEP_MB_DROP_CNT : Nat := 0x120C
/-- UZ_KEEP_MB_ACC_CNT (R309). -/
abbrev KEEP_MB_ACC_CNT : Nat := 0x1210
/-- UZ_KEEP_MB_REPLY0 and its successors (R309). -/
abbrev KEEP_MB_REPLY (n : Nat) : Nat := 0x1220 + 4 * n
/-- UZ_SCORE_CFG (R102). -/
abbrev SCORE_CFG : Nat := 0x2000
/-- UZ_SCORE_TILE_MAP (R102). -/
abbrev SCORE_TILE_MAP : Nat := 0x2004
/-- UZ_SCORE_TILE_FAIL (R102). -/
abbrev SCORE_TILE_FAIL : Nat := 0x2008
/-- UZ_SCORE_STAT (R102). -/
abbrev SCORE_STAT : Nat := 0x200C
/-- UZ_SCORE_RANGE_CNT (R102). -/
abbrev SCORE_RANGE_CNT : Nat := 0x2010
/-- UZ_SCORE_TILE_ERR (R102). -/
abbrev SCORE_TILE_ERR : Nat := 0x2014
/-- UZ_SCORE_MAC_LO (R102). -/
abbrev SCORE_MAC_LO : Nat := 0x2018
/-- UZ_SCORE_MAC_HI (R102). -/
abbrev SCORE_MAC_HI : Nat := 0x201C
/-- UZ_SCORE_BUSY_LO (R102). -/
abbrev SCORE_BUSY_LO : Nat := 0x2020
/-- UZ_SCORE_BUSY_HI (R102). -/
abbrev SCORE_BUSY_HI : Nat := 0x2024
/-- UZ_SCORE_SFU_STAT (R125). -/
abbrev SCORE_SFU_STAT : Nat := 0x2400
/-- UZ_SCORE_SFU_RESID_CNT (R125). -/
abbrev SCORE_SFU_RESID_CNT : Nat := 0x2404
/-- UZ_SCORE_SFU_NAN_CNT (R125). -/
abbrev SCORE_SFU_NAN_CNT : Nat := 0x2408
/-- UZ_SCORE_SFU_BUSY_LO (R125). -/
abbrev SCORE_SFU_BUSY_LO : Nat := 0x2410
/-- UZ_SCORE_SFU_BUSY_HI (R125). -/
abbrev SCORE_SFU_BUSY_HI : Nat := 0x2414
/-- UZ_SCORE_SEL_STAT (R152). -/
abbrev SCORE_SEL_STAT : Nat := 0x2800
/-- UZ_SCORE_SEL_DROP_CNT (R152). -/
abbrev SCORE_SEL_DROP_CNT : Nat := 0x2804
/-- UZ_SCORE_SEL_NEXT_CNT (R152). -/
abbrev SCORE_SEL_NEXT_CNT : Nat := 0x2808
/-- UZ_SCORE_SEL_SPILL_CNT (R152). -/
abbrev SCORE_SEL_SPILL_CNT : Nat := 0x280C
/-- UZ_SCORE_SEL_NAN_CNT (R152). -/
abbrev SCORE_SEL_NAN_CNT : Nat := 0x2810
/-- UZ_SCORE_SEL_SKIP_CNT (R152). -/
abbrev SCORE_SEL_SKIP_CNT : Nat := 0x2814
/-- UZ_SCORE_SEL_LOOP_CTL (R152). -/
abbrev SCORE_SEL_LOOP_CTL : Nat := 0x2820
/-- UZ_SCORE_SEL_LOOP_ETA (R152). -/
abbrev SCORE_SEL_LOOP_ETA : Nat := 0x2824
/-- UZ_SCORE_SEL_LOOP_BMAX (R152). -/
abbrev SCORE_SEL_LOOP_BMAX : Nat := 0x2828
/-- UZ_SCORE_SEL_LOOP_UPD (R152). -/
abbrev SCORE_SEL_LOOP_UPD : Nat := 0x282C
/-- UZ_SCORE_SEL_BUSY_LO (R152). -/
abbrev SCORE_SEL_BUSY_LO : Nat := 0x2830
/-- UZ_SCORE_SEL_BUSY_HI (R152). -/
abbrev SCORE_SEL_BUSY_HI : Nat := 0x2834
/-- UZ_SCORE_ING_CTL (R70). -/
abbrev SCORE_ING_CTL : Nat := 0x2E00
/-- UZ_SCORE_ING_SHAPE (R70). -/
abbrev SCORE_ING_SHAPE : Nat := 0x2E04
/-- UZ_SCORE_ING_RANGE0 and its successors (R70). -/
abbrev SCORE_ING_RANGE (n : Nat) : Nat := 0x2E10 + 4 * n
/-- UZ_SCORE_ING_BASE_LO (R70). -/
abbrev SCORE_ING_BASE_LO : Nat := 0x2E20
/-- UZ_SCORE_ING_BASE_HI (R70). -/
abbrev SCORE_ING_BASE_HI : Nat := 0x2E24
/-- UZ_SCORE_ING_FLAG_LO (R70). -/
abbrev SCORE_ING_FLAG_LO : Nat := 0x2E28
/-- UZ_SCORE_ING_FLAG_HI (R70). -/
abbrev SCORE_ING_FLAG_HI : Nat := 0x2E2C
/-- UZ_SCORE_ING_STAT (R70). -/
abbrev SCORE_ING_STAT : Nat := 0x2E30
/-- UZ_SCORE_ING_DROP (R70). -/
abbrev SCORE_ING_DROP : Nat := 0x2E34
/-- UZ_SORT_LANE_MAP (R184). -/
abbrev SORT_LANE_MAP : Nat := 0x3000
/-- UZ_SORT_LANE_FAIL (R184). -/
abbrev SORT_LANE_FAIL : Nat := 0x3004
/-- UZ_SORT_STAT (R184). -/
abbrev SORT_STAT : Nat := 0x3008
/-- UZ_SORT_NULL_CNT (R184). -/
abbrev SORT_NULL_CNT : Nat := 0x300C
/-- UZ_SORT_GW_BASE_LO (R184). -/
abbrev SORT_GW_BASE_LO : Nat := 0x3010
/-- UZ_SORT_GW_BASE_HI (R184). -/
abbrev SORT_GW_BASE_HI : Nat := 0x3014
/-- UZ_SORT_BUSY_LO (R184). -/
abbrev SORT_BUSY_LO : Nat := 0x3018
/-- UZ_SORT_BUSY_HI (R184). -/
abbrev SORT_BUSY_HI : Nat := 0x301C
/-- UZ_SORT_CNT_STAT (R184). -/
abbrev SORT_CNT_STAT : Nat := 0x3100
/-- UZ_SORT_CNT_RX (R184). -/
abbrev SORT_CNT_RX : Nat := 0x3104
/-- UZ_SORT_CNT_DISCARD (R184). -/
abbrev SORT_CNT_DISCARD : Nat := 0x3108
/-- UZ_SORT_PLAN_CFG (R184). -/
abbrev SORT_PLAN_CFG : Nat := 0x3400
/-- UZ_SORT_PLAN_REPL (R184). -/
abbrev SORT_PLAN_REPL : Nat := 0x3404
/-- UZ_SORT_PLAN_ROW (R184). -/
abbrev SORT_PLAN_ROW : Nat := 0x3408
/-- UZ_SORT_PLAN_STAT (R184). -/
abbrev SORT_PLAN_STAT : Nat := 0x340C
/-- UZ_SORT_PLAN_TRAVEL_CNT (R184). -/
abbrev SORT_PLAN_TRAVEL_CNT : Nat := 0x3410
/-- UZ_SORT_PLAN_FETCH_CNT (R184). -/
abbrev SORT_PLAN_FETCH_CNT : Nat := 0x3414
/-- UZ_SORT_PLAN_HIT_CNT (R184). -/
abbrev SORT_PLAN_HIT_CNT : Nat := 0x3418
/-- UZ_SORT_PLAN_EVICT_CNT (R184). -/
abbrev SORT_PLAN_EVICT_CNT : Nat := 0x341C
/-- UZ_SORT_PLAN_BUSY_LO (R184). -/
abbrev SORT_PLAN_BUSY_LO : Nat := 0x3420
/-- UZ_SORT_PLAN_BUSY_HI (R184). -/
abbrev SORT_PLAN_BUSY_HI : Nat := 0x3424
/-- UZ_SORT_LL_STAT (R184). -/
abbrev SORT_LL_STAT : Nat := 0x3800
/-- UZ_SORT_LL_PIN (R184). -/
abbrev SORT_LL_PIN : Nat := 0x3804
/-- UZ_SORT_LL_MISS_CNT (R184). -/
abbrev SORT_LL_MISS_CNT : Nat := 0x3808
/-- UZ_SORT_LL_RETRY_CNT (R184). -/
abbrev SORT_LL_RETRY_CNT : Nat := 0x380C
/-- UZ_SORT_LL_WB_CNT (R184). -/
abbrev SORT_LL_WB_CNT : Nat := 0x3810
/-- UZ_XCHG_CFG (R222). -/
abbrev XCHG_CFG : Nat := 0x4000
/-- UZ_XCHG_STAT (R222). -/
abbrev XCHG_STAT : Nat := 0x4004
/-- UZ_XCHG_TX_PKT_LO (R222). -/
abbrev XCHG_TX_PKT_LO : Nat := 0x4008
/-- UZ_XCHG_TX_PKT_HI (R222). -/
abbrev XCHG_TX_PKT_HI : Nat := 0x400C
/-- UZ_XCHG_RX_PKT_LO (R222). -/
abbrev XCHG_RX_PKT_LO : Nat := 0x4010
/-- UZ_XCHG_RX_PKT_HI (R222). -/
abbrev XCHG_RX_PKT_HI : Nat := 0x4014
/-- UZ_XCHG_BUSY_LO (R222). -/
abbrev XCHG_BUSY_LO : Nat := 0x4018
/-- UZ_XCHG_BUSY_HI (R222). -/
abbrev XCHG_BUSY_HI : Nat := 0x401C
/-- UZ_XCHG_FAB_EPOCH (R222). -/
abbrev XCHG_FAB_EPOCH : Nat := 0x4100
/-- UZ_XCHG_RT_BASE_LO (R222). -/
abbrev XCHG_RT_BASE_LO : Nat := 0x4104
/-- UZ_XCHG_RT_BASE_HI (R222). -/
abbrev XCHG_RT_BASE_HI : Nat := 0x4108
/-- UZ_XCHG_FAB_STAT (R222). -/
abbrev XCHG_FAB_STAT : Nat := 0x410C
/-- UZ_XCHG_FAB_CRC_CNT (R222). -/
abbrev XCHG_FAB_CRC_CNT : Nat := 0x4110
/-- UZ_XCHG_FAB_STALE_CNT (R222). -/
abbrev XCHG_FAB_STALE_CNT : Nat := 0x4114
/-- UZ_XCHG_FAB_DROP_CNT (R222). -/
abbrev XCHG_FAB_DROP_CNT : Nat := 0x4118
/-- UZ_XCHG_FAB_WDRAW_CNT (R222). -/
abbrev XCHG_FAB_WDRAW_CNT : Nat := 0x411C
/-- UZ_XCHG_FAB_DRAIN (R222). -/
abbrev XCHG_FAB_DRAIN : Nat := 0x4120
/-- UZ_XCHG_FETCH_STORE_LO (R222). -/
abbrev XCHG_FETCH_STORE_LO : Nat := 0x4300
/-- UZ_XCHG_FETCH_STORE_HI (R222). -/
abbrev XCHG_FETCH_STORE_HI : Nat := 0x4304
/-- UZ_XCHG_FETCH_STAT (R222). -/
abbrev XCHG_FETCH_STAT : Nat := 0x4308
/-- UZ_XCHG_FETCH_BYTES_LO (R222). -/
abbrev XCHG_FETCH_BYTES_LO : Nat := 0x430C
/-- UZ_XCHG_FETCH_BYTES_HI (R222). -/
abbrev XCHG_FETCH_BYTES_HI : Nat := 0x4310
/-- UZ_XCHG_FETCH_SERVED_LO (R222). -/
abbrev XCHG_FETCH_SERVED_LO : Nat := 0x4314
/-- UZ_XCHG_FETCH_SERVED_HI (R222). -/
abbrev XCHG_FETCH_SERVED_HI : Nat := 0x4318
/-- UZ_XCHG_FETCH_BUSY_LO (R222). -/
abbrev XCHG_FETCH_BUSY_LO : Nat := 0x431C
/-- UZ_XCHG_FETCH_BUSY_HI (R222). -/
abbrev XCHG_FETCH_BUSY_HI : Nat := 0x4320
/-- UZ_XCHG_COLL_STAT (R276). -/
abbrev XCHG_COLL_STAT : Nat := 0x4400
/-- UZ_XCHG_COLL_DISCARD (R276). -/
abbrev XCHG_COLL_DISCARD : Nat := 0x4404
/-- UZ_XCHG_COLL_BUSY_LO (R276). -/
abbrev XCHG_COLL_BUSY_LO : Nat := 0x4408
/-- UZ_XCHG_COLL_BUSY_HI (R276). -/
abbrev XCHG_COLL_BUSY_HI : Nat := 0x440C
/-- UZ_XCHG_BCN_CFG (R277). -/
abbrev XCHG_BCN_CFG : Nat := 0x4600
/-- UZ_XCHG_BCN_TREEr (R277). -/
abbrev XCHG_BCN_TREE (n : Nat) : Nat := 0x4604 + 4 * n
/-- UZ_XCHG_BCN_ELECT (R277). -/
abbrev XCHG_BCN_ELECT : Nat := 0x4614
/-- UZ_XCHG_BCN_ROOT_LO (R277). -/
abbrev XCHG_BCN_ROOT_LO : Nat := 0x4618
/-- UZ_XCHG_BCN_ROOT_HI (R277). -/
abbrev XCHG_BCN_ROOT_HI : Nat := 0x461C
/-- UZ_XCHG_BCN_LINK (R277). -/
abbrev XCHG_BCN_LINK : Nat := 0x4620
/-- UZ_XCHG_BCN_STAT (R277). -/
abbrev XCHG_BCN_STAT : Nat := 0x4624
/-- UZ_XCHG_BCN_HB_LOST (R277). -/
abbrev XCHG_BCN_HB_LOST : Nat := 0x4628
/-- UZ_XCHG_BCN_FOG (R277). -/
abbrev XCHG_BCN_FOG : Nat := 0x462C
/-- UZ_XCHG_BCN_CRC_CNT (R277). -/
abbrev XCHG_BCN_CRC_CNT : Nat := 0x4640
/-- UZ_XCHG_BCN_TRUNC_CNT (R277). -/
abbrev XCHG_BCN_TRUNC_CNT : Nat := 0x4644
/-- UZ_XCHG_BCN_RETRY_CNT (R277). -/
abbrev XCHG_BCN_RETRY_CNT : Nat := 0x4648
/-- UZ_XCHG_BCN_STALE_CNT (R277). -/
abbrev XCHG_BCN_STALE_CNT : Nat := 0x464C
/-- UZ_COMB_CFG (R241). -/
abbrev COMB_CFG : Nat := 0x5000
/-- UZ_COMB_SH_SIG (R241). -/
abbrev COMB_SH_SIG : Nat := 0x5004
/-- UZ_COMB_STAT (R241). -/
abbrev COMB_STAT : Nat := 0x5008
/-- UZ_COMB_DROP_CNT (R241). -/
abbrev COMB_DROP_CNT : Nat := 0x500C
/-- UZ_COMB_MISS_CNT (R241). -/
abbrev COMB_MISS_CNT : Nat := 0x5010
/-- UZ_COMB_NAN_CNT (R241). -/
abbrev COMB_NAN_CNT : Nat := 0x5014
/-- UZ_COMB_TILES_SPARSE (R241). -/
abbrev COMB_TILES_SPARSE : Nat := 0x5018
/-- UZ_COMB_TILES_DENSE (R241). -/
abbrev COMB_TILES_DENSE : Nat := 0x501C
/-- UZ_COMB_BUSY_LO (R241). -/
abbrev COMB_BUSY_LO : Nat := 0x5020
/-- UZ_COMB_BUSY_HI (R241). -/
abbrev COMB_BUSY_HI : Nat := 0x5024
/-- UZ_COMB_POOLn_BASE_LO (R334). -/
abbrev COMB_POOL_BASE_LO (n : Nat) : Nat := 0x5400 + 0x20 * n
/-- UZ_COMB_POOLn_BASE_HI (R334). -/
abbrev COMB_POOL_BASE_HI (n : Nat) : Nat := 0x5404 + 0x20 * n
/-- UZ_COMB_POOLn_CNT (R334). -/
abbrev COMB_POOL_CNT (n : Nat) : Nat := 0x5408 + 0x20 * n
/-- UZ_COMB_POOLn_RING_LO (R334). -/
abbrev COMB_POOL_RING_LO (n : Nat) : Nat := 0x540C + 0x20 * n
/-- UZ_COMB_POOLn_RING_HI (R334). -/
abbrev COMB_POOL_RING_HI (n : Nat) : Nat := 0x5410 + 0x20 * n
/-- UZ_COMB_POOLn_FREE (R334). -/
abbrev COMB_POOL_FREE (n : Nat) : Nat := 0x5414 + 0x20 * n
/-- UZ_COMB_POOL_STAT (R334). -/
abbrev COMB_POOL_STAT : Nat := 0x5500
/-- UZ_COMB_POOL_NOBUF_CNT (R334). -/
abbrev COMB_POOL_NOBUF_CNT : Nat := 0x5504
/-- UZ_COMB_POOL_BADFREE_CNT (R334). -/
abbrev COMB_POOL_BADFREE_CNT : Nat := 0x5508
/-- UZ_COMB_POOL_LEAK_CNT (R334). -/
abbrev COMB_POOL_LEAK_CNT : Nat := 0x550C
/-- UZ_COMB_APER_MISS_CNT (R334). -/
abbrev COMB_APER_MISS_CNT : Nat := 0x5510
/-- UZ_COMB_XLATE (R334). -/
abbrev COMB_XLATE : Nat := 0x5514
/-- UZ_COMB_FMT_STAT (R71). -/
abbrev COMB_FMT_STAT : Nat := 0x5C00
/-- UZ_COMB_CNT_CLR (R71). -/
abbrev COMB_CNT_CLR : Nat := 0x5C04
/-- UZ_COMB_CLAMP_CNT_LO (R71). -/
abbrev COMB_CLAMP_CNT_LO : Nat := 0x5C08
/-- UZ_COMB_CLAMP_CNT_HI (R71). -/
abbrev COMB_CLAMP_CNT_HI : Nat := 0x5C0C
/-- UZ_COMB_SAT_CNT (R71). -/
abbrev COMB_SAT_CNT : Nat := 0x5C10
/-- UZ_PART_ID (R356). -/
abbrev PART_ID : Nat := 0x6000
/-- UZ_PART_SCHED (R356). -/
abbrev PART_SCHED : Nat := 0x6004
/-- UZ_PART_REG_FAB (R356). -/
abbrev PART_REG_FAB : Nat := 0x6008
/-- UZ_PART_REG_MEM (R356). -/
abbrev PART_REG_MEM : Nat := 0x600C
/-- UZ_PART_STAT (R356). -/
abbrev PART_STAT : Nat := 0x6010
/-- UZ_PART_FAB_STALL_LO (R356). -/
abbrev PART_FAB_STALL_LO : Nat := 0x6018
/-- UZ_PART_FAB_STALL_HI (R356). -/
abbrev PART_FAB_STALL_HI : Nat := 0x601C
/-- UZ_PART_MEM_STALL_LO (R356). -/
abbrev PART_MEM_STALL_LO : Nat := 0x6020
/-- UZ_PART_MEM_STALL_HI (R356). -/
abbrev PART_MEM_STALL_HI : Nat := 0x6024
/-- UZ_PART_ISO_DROP_CNT (R356). -/
abbrev PART_ISO_DROP_CNT : Nat := 0x6028
/-- UZ_PART_MODEL (R356). -/
abbrev PART_MODEL : Nat := 0x6030
/-- UZ_PART_ACTIVE (R356). -/
abbrev PART_ACTIVE : Nat := 0x6034
/-- UZ_PART_SWITCH_CNT (R356). -/
abbrev PART_SWITCH_CNT : Nat := 0x6038
/-- UZ_PART_SWITCH_LAST (R356). -/
abbrev PART_SWITCH_LAST : Nat := 0x603C
/-- UZ_PART_ACCT_SEL (R356). -/
abbrev PART_ACCT_SEL : Nat := 0x6040
/-- UZ_PART_ACCT_VAL0 and its successors (R356). -/
abbrev PART_ACCT_VAL (n : Nat) : Nat := 0x6044 + 4 * n
/-- UZ_PART_WIN_SEL (R356). -/
abbrev PART_WIN_SEL : Nat := 0x6070
/-- UZ_PART_WIN_VAL0 and its successors (R356). -/
abbrev PART_WIN_VAL (n : Nat) : Nat := 0x6074 + 4 * n
/-- UZ_PART_DET_CTL (R373). -/
abbrev PART_DET_CTL : Nat := 0x6400
/-- UZ_PART_TDC_LO (R373). -/
abbrev PART_TDC_LO : Nat := 0x6404
/-- UZ_PART_TDC_HI (R373). -/
abbrev PART_TDC_HI : Nat := 0x6408
/-- UZ_PART_TDC_SRC0 and its successors (R373). -/
abbrev PART_TDC_SRC (n : Nat) : Nat := 0x6410 + 4 * n
/-- UZ_PART_CAP_STAT (R373). -/
abbrev PART_CAP_STAT : Nat := 0x6430
/-- UZ_PART_CAP_DONE_LO (R373). -/
abbrev PART_CAP_DONE_LO : Nat := 0x6434
/-- UZ_PART_CAP_DONE_HI (R373). -/
abbrev PART_CAP_DONE_HI : Nat := 0x6438
/-- UZ_PART_CAP_SW_LO (R373). -/
abbrev PART_CAP_SW_LO : Nat := 0x643C
/-- UZ_PART_CAP_SW_HI (R373). -/
abbrev PART_CAP_SW_HI : Nat := 0x6440
/-- UZ_PART_CAP_MARGIN (R373). -/
abbrev PART_CAP_MARGIN : Nat := 0x6444
/-- UZ_PART_CAP_HOLD_CNT (R373). -/
abbrev PART_CAP_HOLD_CNT : Nat := 0x6448
/-- UZ_PART_CAP_SEQNO (R373). -/
abbrev PART_CAP_SEQNO : Nat := 0x644C
/-- UZ_PART_REP_DIV0 and its successors (R373). -/
abbrev PART_REP_DIV (n : Nat) : Nat := 0x6450 + 4 * n
/-- UZ_PART_LOG_CTL (R335). -/
abbrev PART_LOG_CTL : Nat := 0x6C00
/-- UZ_PART_LOG_HIGH (R335). -/
abbrev PART_LOG_HIGH : Nat := 0x6C04
/-- UZ_PART_LOG_LOW (R335). -/
abbrev PART_LOG_LOW : Nat := 0x6C08
/-- UZ_PART_LOG_SPILL_LO (R335). -/
abbrev PART_LOG_SPILL_LO : Nat := 0x6C0C
/-- UZ_PART_LOG_SPILL_HI (R335). -/
abbrev PART_LOG_SPILL_HI : Nat := 0x6C10
/-- UZ_PART_LOG_SPILL_SZ (R335). -/
abbrev PART_LOG_SPILL_SZ : Nat := 0x6C14
/-- UZ_PART_LOG_STAT (R335). -/
abbrev PART_LOG_STAT : Nat := 0x6C18
/-- UZ_PART_LOG_FILL (R335). -/
abbrev PART_LOG_FILL : Nat := 0x6C1C
/-- UZ_PART_LOG_PKT (R335). -/
abbrev PART_LOG_PKT : Nat := 0x6C20
/-- UZ_PART_LOG_LOST_PKT (R335). -/
abbrev PART_LOG_LOST_PKT : Nat := 0x6C24
/-- UZ_PART_LOG_LOST_WORD (R335). -/
abbrev PART_LOG_LOST_WORD : Nat := 0x6C28
/-- UZ_PART_LOG_WORD0 and its successors (R335). -/
abbrev PART_LOG_WORD (n : Nat) : Nat := 0x6C40 + 4 * n
/-- UZ_REL_STAT (R397). -/
abbrev REL_STAT : Nat := 0x7000
/-- UZ_REL_CE_CNT (R397). -/
abbrev REL_CE_CNT : Nat := 0x7004
/-- UZ_REL_UE_CNT (R397). -/
abbrev REL_UE_CNT : Nat := 0x7008
/-- UZ_REL_PARTIAL_CNT (R397). -/
abbrev REL_PARTIAL_CNT : Nat := 0x700C
/-- UZ_REL_MEM_POISON_CNT (R397). -/
abbrev REL_MEM_POISON_CNT : Nat := 0x7010
/-- UZ_REL_MEM_TO_CNT (R397). -/
abbrev REL_MEM_TO_CNT : Nat := 0x7014
/-- UZ_REL_LATE_CPL (R397). -/
abbrev REL_LATE_CPL : Nat := 0x7018
/-- UZ_REL_FENCE_DROP_CNT (R397). -/
abbrev REL_FENCE_DROP_CNT : Nat := 0x701C
/-- UZ_REL_RETIRE_CNT (R397). -/
abbrev REL_RETIRE_CNT : Nat := 0x7020
/-- UZ_REL_ERR_LO (R397). -/
abbrev REL_ERR_LO : Nat := 0x7024
/-- UZ_REL_ERR_HI (R397). -/
abbrev REL_ERR_HI : Nat := 0x7028
/-- UZ_REL_CE_LO (R397). -/
abbrev REL_CE_LO : Nat := 0x702C
/-- UZ_REL_CE_HI (R397). -/
abbrev REL_CE_HI : Nat := 0x7030
/-- UZ_REL_SCRUB (R397). -/
abbrev REL_SCRUB : Nat := 0x7034
/-- UZ_REL_SCRUB_PASS (R397). -/
abbrev REL_SCRUB_PASS : Nat := 0x7038
/-- UZ_REL_MEM_TO (R397). -/
abbrev REL_MEM_TO : Nat := 0x703C
/-- UZ_REL_FENCE0 and its successors (R397). -/
abbrev REL_FENCE (n : Nat) : Nat := 0x7040 + 4 * n
/-- UZ_REL_FENCE_LIFT (R397). -/
abbrev REL_FENCE_LIFT : Nat := 0x7080
/-- UZ_REL_HOLE_LO (R397). -/
abbrev REL_HOLE_LO : Nat := 0x7084
/-- UZ_REL_HOLE_HI (R397). -/
abbrev REL_HOLE_HI : Nat := 0x7088
/-- UZ_REL_TREE (R397). -/
abbrev REL_TREE : Nat := 0x708C
/-- UZ_REL_RECOV (R397). -/
abbrev REL_RECOV : Nat := 0x7090
/-- UZ_REL_RECOV_T0 and its successors (R397). -/
abbrev REL_RECOV_T (n : Nat) : Nat := 0x7094 + 4 * n
/-- UZ_REL_SND_CTL (R397). -/
abbrev REL_SND_CTL : Nat := 0x7100
/-- UZ_REL_SND_THR (R397). -/
abbrev REL_SND_THR : Nat := 0x7104
/-- UZ_REL_SND_M0 and its successors (R397). -/
abbrev REL_SND_M (n : Nat) : Nat := 0x7110 + 4 * n
/-- UZ_REL_SND_VOFS (R397). -/
abbrev REL_SND_VOFS : Nat := 0x7124
/-- UZ_REL_SND_STAT (R397). -/
abbrev REL_SND_STAT : Nat := 0x7128
/-- UZ_REL_PWR_STAT (R416). -/
abbrev REL_PWR_STAT : Nat := 0x7200
/-- UZ_REL_PWR_CFG (R416). -/
abbrev REL_PWR_CFG : Nat := 0x7204
/-- UZ_REL_WAKE_REASON (R416). -/
abbrev REL_WAKE_REASON : Nat := 0x7208
/-- UZ_REL_RESET_CAUSE (R416). -/
abbrev REL_RESET_CAUSE : Nat := 0x720C
/-- UZ_REL_BOOT_T0 and its successors (R416). -/
abbrev REL_BOOT_T (n : Nat) : Nat := 0x7210 + 4 * n
/-- UZ_REL_CLK_STAT (R416). -/
abbrev REL_CLK_STAT : Nat := 0x721C
/-- UZ_REL_BOOT_SRC_LO (R416). -/
abbrev REL_BOOT_SRC_LO : Nat := 0x7220
/-- UZ_REL_BOOT_SRC_HI (R416). -/
abbrev REL_BOOT_SRC_HI : Nat := 0x7224
/-- UZ_REL_BOOT_CTL (R416). -/
abbrev REL_BOOT_CTL : Nat := 0x7228
/-- UZ_REL_NVM_STAT (R417). -/
abbrev REL_NVM_STAT : Nat := 0x7300
/-- UZ_REL_NVM_WEAR (R417). -/
abbrev REL_NVM_WEAR : Nat := 0x7304
/-- UZ_REL_NVM_SRC_LO (R417). -/
abbrev REL_NVM_SRC_LO : Nat := 0x7308
/-- UZ_REL_NVM_SRC_HI (R417). -/
abbrev REL_NVM_SRC_HI : Nat := 0x730C
/-- UZ_REL_NVM_GEN (R417). -/
abbrev REL_NVM_GEN : Nat := 0x7310

end Sys2Proof.Reg
end

