-- ==== Sys2Proof/Machine/State.lean ====
section
/-! DEFINITION. The state of one slice as plain data, its reset value, and the ways a step can stop. Each field names the rule of spec/
that gives it. -/

namespace Sys2Proof.Machine

/-- A byte map: (address, byte), canonical with unlisted bytes 0 (R399 for staging; log entry 15 for the rest). -/
abbrev Mem := List Host.Cell

/-- A register map: (offset, word), canonical with unlisted registers at their reset value. -/
abbrev RegMap := List (Nat × W32)

/-- A command record of 64 bytes as one little-endian number (R283). -/
abbrev Record := BitVec 512

/-- A record placed in a ring, or held by the Keeper: its ring number (R281), its step and its place in the step's list; its slot of the ring (R310). -/
structure RingRec where
  ring : Nat
  step : W32
  idx : Nat
  raw : Record
  slot : Nat := 0
deriving DecidableEq, Repr

/-- A reply of R299. -/
structure Reply where
  status : Nat
  final : Bool
  uncommitted : Bool
  seq : W16
  part : BitVec 10
  opcode : Byte
  r0 : W32
  r1 : W32
  r2 : W32
  r3 : W32
  r4 : W32
  r5 : W32
deriving DecidableEq, Repr

/-- Where a step stands: accepted, enqueued, joined to its commit barrier (R293), killed and waiting for its rerun (R295). -/
inductive Phase where
  | accepted | enqueued | joined | killed
deriving DecidableEq, Repr

/-- An out-record in mode FETCH, or a replica that was hit, as COMMIT needs it (R177, R212). -/
structure FetchNote where
  half : Bool
  expert : Nat
  layer : Nat
  model : Nat
  slot : Nat
  bank : Nat
  total : Nat
deriving DecidableEq, Repr

/-- A weight stream a requester waits for (R212). -/
structure Stream where
  note : FetchNote
  got : List Nat
  complete : Bool
deriving DecidableEq, Repr

/-- A step that has been accepted and has not finished (R289). The replicas its DISPATCH of half A claims and hits stand for half B before PLAN has
run (R29, R169). The bias vectors and the replica lines that stood at its start (R143, R169). Its staging buffers by purpose (0: kept over a kill, R294); of a basic-level step the
number of its build and the rooms it was given, kept ones and others. The clusters whose SH_DONE came for it, once each time (R228). Its last kill was
charged as a pre-emption (R349). -/
structure Step where
  seq : W32
  opcode : Byte
  hostSeq : W16
  client : Nat
  be : Bool
  stepId : W32
  model : Nat
  layer : Nat
  tokens : Nat
  flagEn : Bool
  cntFirst : Nat
  cntNum : Nat
  recs : List Record
  held : List RingRec
  resolved : List (Nat × W32)
  phase : Phase
  released : Bool
  completed : Nat
  kills : Nat
  reruns : Nat
  kgen : BitVec 4
  epoch : Bool
  bound : RegMap
  poolSnap : List (Nat × Nat)
  fetches : List FetchNote
  hits : List FetchNote
  claims : List FetchNote
  claimHits : List FetchNote
  streams : List Stream
  plansDone : List Addr
  buffers : List (Nat × Addr)
  build : Nat
  kept : List Addr
  rooms : List Addr
  loopVector : Option Addr
  biases : List (Nat × Addr)
  replicas : List (BitVec 256)
  shDone : List Nat := []
  endCode : Option Nat
  preempts : Nat
  faultKills : Nat
  lastHost : Bool := false
deriving DecidableEq, Repr

/-- A finished step kept for QUERY_STEP (R301). -/
structure Finished where
  seq : W32
  committed : Bool
  kills : Nat
  code : Nat
deriving DecidableEq, Repr

/-- A credit pool (R285, R301, R323). -/
structure CPool where
  id : Nat
  credits : Nat
  size : Nat
  cls : Nat
  bufs : List Addr
deriving DecidableEq, Repr

/-- A work record posted to a cluster (R202), with the engine's ring that posted it and its address; its first row in the run; rows not yet returned; held back by replay (R371); taken or not. -/
structure Work where
  cluster : Nat
  eng : Nat
  step : W32
  half : Bool
  expert : Nat
  layer : Nat
  model : Nat
  replica : Bool
  gather : Bool
  count : Nat
  waddr : Addr
  inBase : Addr
  tagBase : Addr
  src : Nat
  place : Nat
  first : Nat
  addr : Addr
  rowsLeft : Nat
  held : Bool
  taken : Bool
deriving DecidableEq, Repr

/-- A group of weight-stream requesters a server serves (R211). -/
structure ServeGroup where
  expert : Nat
  members : List Nat
  total : Nat
  slot : Nat
  base : Addr
  sent : Bool
deriving DecidableEq, Repr

/-- One packet's collective data that was accepted (R247): its source, phase, stage, first element and elements as codes. -/
structure CollData where
  src : Nat
  phase : Nat
  stage : Nat
  offset : Nat
  elems : List Nat
deriving DecidableEq, Repr

/-- The buffers of an enqueued collective record (R251): what has arrived for it so far. -/
structure CollBuf where
  step : W32
  ring : Nat
  idx : Nat
  data : List CollData
deriving DecidableEq, Repr

/-- A barrier instance's name (R267): group, TAG, kill generation. -/
structure BarId where
  group : Nat
  tag : Nat
  kgen : Nat
deriving DecidableEq, Repr

/-- A command an engine has started and not finished (R31): what it still waits for. `acks` holds one destination per packet not yet
acknowledged (R196) by ACKs of `ackType`, which a command whose exchange has not begun holds at 0 (R245), `memSlots` the tag slots of its die-memory reads that are outstanding (R382). -/
structure Run where
  eng : Nat
  cmd : RingRec
  acks : List Nat
  ackType : Nat
  waiting : List Work
  serves : List ServeGroup
  stage : Nat
  phase : Nat
  value : List Nat
  bar : Option BarId
  memSlots : List Nat
  shWait : Bool
  waitVal : W32
  credits : Nat
deriving DecidableEq, Repr

/-- An in-record of the half (R175) with its first inbound row, the (RUN_POS, CHUNK) pairs that have arrived, and whether its work was posted. -/
structure InRec where
  src : Nat
  expert : Nat
  place : Nat
  mode : Nat
  cl : Nat
  count : Nat
  base : Nat
  got : List (Nat × Nat)
  posted : Bool
deriving DecidableEq, Repr

/-- One half of one step as the exchange engine sees it (R203 to R208, R440). -/
structure Half where
  step : W32
  half : Bool
  layer : Nat
  model : Nat
  armed : Bool
  xb : Addr
  inRows : Addr
  bundleRows : Addr
  resCnt : Nat
  sendXb : Option Addr
  expChunks : Nat
  arrivals : Nat
  sendSignalled : Bool
  sendWl : Nat
  recvWl : Nat
  inRecs : List InRec
  resultsSent : Nat
  rxKeys : List (Nat × Nat × Nat × Bool)
  rxCount : Nat
  rxBase : Addr
  rxCap : Nat
  rxOpen : Bool
  counted : Bool
deriving DecidableEq, Repr

/-- A tile being delivered (R61 to R65): its step and the registers bound to it, whole rows and beats of the row under way per cluster, the halves
signalled, further beats dropped. -/
structure Ingress where
  step : W32
  bound : RegMap
  rows : List (Nat × Nat)
  beat : List (Nat × Nat)
  sigA : Bool
  sigB : Bool
  dropping : Bool
deriving DecidableEq, Repr

/-- Pending acknowledgement count of R196: (SRC, TYPE, LAYER, HALF), the KGEN and CLASS it answers with. -/
structure AckPend where
  src : Nat
  typ : Nat
  layer : Nat
  half : Bool
  n : Nat
  kgen : Nat
  be : Bool
  epoch : Bool
deriving DecidableEq, Repr

/-- A light-list line held by the slice (R153, R156): version, line, pinned or not, whether this slice is its directory, whether it is the copy that
becomes visible at the next flip (R158), and whether a command that waits for lines holds it because the cache has no room (log entry 19). -/
structure LLine where
  epoch : Bool
  data : BitVec 256
  pinned : Bool
  dir : Bool
  next : Bool
  aside : Bool := false
deriving DecidableEq, Repr

/-- An LL_REQ of this slice (R158, R159): key, OWN or READ, waiting for a resend after LL_RETRY, to be pinned, its epoch, not yet sent because 64
requests of a pin pass are outstanding (R353). -/
structure LLReq where
  key : Nat
  own : Bool
  retry : Bool
  pin : Bool
  epoch : Bool
  queued : Bool
deriving DecidableEq, Repr

/-- A tag slot of the die memory port (R382): its generation, outstanding or not, the clock until which a timeout withholds it, the reading engine, the
address and number of bytes read, and the class of the reading command's ring. -/
structure MemTag where
  slot : Nat
  gen : Nat
  busy : Bool
  freeAt : Nat
  eng : Nat
  addr : Addr
  n : Nat := 0
  be : Bool := false
deriving DecidableEq, Repr

/-- A pool of the buffer pool manager (R312 to R322): class code 0 to 4, or 5 for the uniform pool; the free buffers in ring order, of which the first
`cached` entries have been read into the on-chip cache and the next one stands at ring position `head`; buffers allocated. -/
structure Pool where
  id : Nat
  head : Nat
  cached : Nat := 0
  free : List Addr
  owned : List Addr
deriving DecidableEq, Repr

/-- A mapping of an aperture window (R323). -/
structure Window where
  id : Nat
  size : Nat
  bufs : List Addr
deriving DecidableEq, Repr

/-- A log packet held in the FIFO (R325): its words not yet taken, the WSEQ of its next FIFO word, and whether a word of it went to the spill
ring (R329). -/
structure LogPkt where
  words : List W32
  wseq : Nat
  spilled : Bool
deriving DecidableEq, Repr

/-- The log FIFO (R325 to R332). -/
structure LogFifo where
  pkts : List LogPkt
  latch : BitVec 256
  wseq : Nat
  lossMark : Bool
  /-- The clock of the last take (R328). -/
  takenAt : Option Nat := none
  /-- FIFO words that have entered, and those of them that have gone to the spill ring or past it (R329). -/
  entered : Nat := 0
  spilledTo : Nat := 0
  flushReplies : List Reply
deriving DecidableEq, Repr

/-- A resident, pending or leaving model (R351, R352); `late`: its unloading was accepted in stage 1 of a flip and waits for the next one (R214). -/
structure Model where
  id : Nat
  hdr : BitVec 1024
  resident : Bool
  leaving : Bool
  late : Bool := false
deriving DecidableEq, Repr

/-- A switch of the active model waiting its turn (R352): the steps it waits behind, and the packet to answer. -/
structure Switch where
  model : Nat
  behind : W32
  reply : Reply
deriving DecidableEq, Repr

/-- The home map of a model in one version (R155): the router-state image it was loaded from, and the entries rewritten since (R389). -/
structure HomeMap where
  model : Nat
  epoch : Bool
  img : Addr
  fixed : List (Nat × Nat)
deriving DecidableEq, Repr

/-- The bias loop of one layer (R142): window accumulator, committed steps since the last update, bias vector. -/
structure Loop where
  layer : Nat
  acc : List (Nat × Nat)
  steps : Nat
  bias : Addr
deriving DecidableEq, Repr

/-- A die-memory request that waits on the MEM bucket (R344): the class and engine of the command, a write or a read, its size, its address. -/
structure MemReq where
  be : Bool
  write : Bool
  eng : Nat
  n : Nat
  addr : Addr
deriving DecidableEq, Repr

/-- A token bucket (R344): its count in units of 1/16 byte, and the packets or request sizes that wait. -/
structure Bucket where
  tk : Int
  req : List Packet
  rsp : List Packet
  mem : List MemReq
deriving DecidableEq, Repr

/-- One of the two versions of the fabric and light-list configuration (R213, R192, R210). -/
structure Version where
  held : Bool
  rtBase : Addr
  rt : List (Nat × Nat)
  gwBase : Addr
  storeBase : Addr
  rs : Nat
  slot4k : Nat
deriving DecidableEq, Repr

/-- The epoch flip under way (R213, R214): the version being prepared, settings taken in stage 1, the lift taken, requests kept, joins made,
whether the slice has taken part in no flip since its reset (R215). -/
structure Flip where
  target : Bool
  taken : RegMap
  lift : Option Nat
  wanted : Bool
  readyJoined : Bool
  retireJoined : Bool
  fresh : Bool
deriving DecidableEq, Repr

/-- A frame of one class on a link (R262, R263): waiting, or sent and not acknowledged with its resends. -/
structure TxFrame where
  cls : Nat
  frame : Frame
  sent : Bool
  resends : Nat
deriving DecidableEq, Repr

/-- One beacon link BL0 to BL15 (R258 to R264, R272, R274). -/
structure Link where
  up : Bool
  seqTx : List Nat
  seqRx : List (Nat × Nat)
  tx : List TxFrame
  neighbour : Option Nat
  identity : W64
  monitored : Bool
  heard : Bool
  missed : Nat
  dark : Bool
  discovered : Bool
  replied : Option Nat
  answeredRoot : Option Nat
deriving DecidableEq, Repr

/-- An entry of the group table (R268). -/
structure Group where
  id : Nat
  subtree : Nat
  apex : Bool
  member : Bool
  kgen : Nat
deriving DecidableEq, Repr

/-- A contribution to a barrier: the link it came from (16 for the local join), the sender's DA, OP, LANES, COUNT, value. -/
structure Contrib where
  link : Nat
  da : Nat
  op : Nat
  lanes : Bool
  count : Nat
  pay : W64
deriving DecidableEq, Repr

/-- An open barrier instance (R268): its tally, its contributions, and whether its own JOIN went up. -/
structure Inst where
  id : BarId
  tally : Nat
  ins : List Contrib
  up : Bool
deriving DecidableEq, Repr

/-- The election (R275, R388): the lowest identity received, a ROOT received, a selected tree whose ROOT is awaited. -/
structure Elect where
  lowest : Option W64
  rootSeen : Bool
  waitRoot : Bool
deriving DecidableEq, Repr

/-- Recovery (R389 to R392): the partition is held, the next flip is the recovery flip, the flip under way is it, clusters warming, those to be asked
once the weights are read and the experts to load, T3 is awaited. -/
structure Recov where
  active : Bool
  flipDue : Bool
  flipping : Bool
  warm : List Nat
  asks : List (Nat × List Nat) := []
  rerunDue : Bool
deriving DecidableEq, Repr

/-- An event that replay compares with a record of its type: its payload, of which n bytes count, and the value of DIV3; for an arrival its kind and
step (R372). -/
structure RepEvent where
  typ : Nat
  payload : List Byte
  n : Nat
  value : Nat
  key : Nat := 0
  step : Nat := 0
deriving DecidableEq, Repr

/-- In replay, a result chunk (`isCount` false) or a count record of a step's half whose captured place has not been supplied (R371). -/
structure HeldRow where
  isCount : Bool
  step : W32
  half : Bool
  tag : Nat
  chunk : Nat
  data : List Byte
deriving DecidableEq, Repr

/-- The record/replay unit (R364 to R372): buffers taken, digests, staged records, bytes of the oldest already copied, ring, space reserved,
reserve buffer, replay cursor; `arr`: arrivals gathered by kind and step, `work`: work entries by step and half; `waiting`: events whose record has
not been supplied; `rows`: chunks and count records that wait for their captured place; `heldFor`: cycles of hold not yet counted. -/
structure Capture where
  digest : Bool
  bufs : List Addr
  ringBase : Addr
  ringSize : Nat
  staged : List (List Byte)
  reserved : Nat
  keepUsed : Nat
  arr : List (Nat × Nat × List Byte)
  work : List (Nat × Bool × List Byte)
  workPos : Nat
  tdcAt : List Int
  start : Option Reply
  stop : Option Reply
  divSeq : Option W32
  sw : W64
  sent : Nat
  dlb : Bool
  waiting : List RepEvent := []
  rows : List HeldRow := []
  heldFor : Nat := 0
deriving DecidableEq, Repr

/-- A packet whose check waits for the Keeper's reads of die memory (R303, R382), and what came back bad: address, bytes, late or poisoned. -/
structure Taking where
  pkt : HostPkt
  bad : List (Addr × Nat × Bool) := []
deriving DecidableEq, Repr

/-- A switch that waits for its reads of die memory (R353): the model, the SWITCH_MODEL it serves or else the waiting step, and what came back bad. -/
structure SwitchRun where
  model : Nat
  pkt : Option Switch
  step : W32
  bad : List (Addr × Nat × Bool) := []
deriving DecidableEq, Repr

/-- A power transition (R404 to R407): none; leaving IDLE, with the RESUME to answer then; on the way to DARK, forwarding or draining. -/
inductive Suspend where
  | none | leavingIdle (reply : Option Reply) | fencing | draining
deriving DecidableEq, Repr

/-- A wake source (R407, R408): its bit of WAKE_REASON, the frame's REASON and link, FULL_BIST of a RESUME, the RESUME to answer. -/
structure Wake where
  bit : Nat
  reason : Nat
  link : Nat
  full : Option Bool
  reply : Option Reply
deriving DecidableEq, Repr

/-- The domain controller's own state (R398 to R409): the transition under way, wake sources held, clocks whose last window was bad, clocks
stopped; the AON shadows of the store (device identity, settings entries, pool body, R399, R411); a wake reset and its FULL_BIST; phase C waits
for an external image, has one, or has waited too long; frames to forward once awake (R264); a step of VOFS asked for by the sounding unit, and a write of VOFS, not yet applied
(R396, R409; log entry 37). -/
structure Power where
  susp : Suspend
  heldWakes : List Wake
  clkBad : Nat
  clkStopped : Bool
  shadow : List (Nat × Nat)
  poolBody : Option (List Byte)
  waking : Bool
  full : Bool
  fwVer : Option Nat
  fwd : List (Nat × Frame)
  vofsUp : Bool
  vofsSet : Bool
deriving DecidableEq, Repr

/-- A store operation (R413) or self-test (R415) in progress, with the packet to answer. -/
inductive LongOp where
  | none
  | store (regions : Nat) (copies : List (Nat × List Byte)) (reply : Reply)
  | selfTest (units : Nat) (reply : Reply)
deriving DecidableEq, Repr

/-- The non-volatile store (R410): its bytes and the store-cycle counts of settings, pool and image. -/
structure Nvm where
  bytes : Mem
  cycSettings : Nat
  cycPool : Nat
  cycImage : Nat
deriving DecidableEq, Repr

/-- Partition state (R336 to R340) beside its registers: member map, windows, accounting base, staged copies of a SET. -/
structure Part where
  members : List Nat
  wins : List Nat
  acctBase : Addr
  staged : Option (List Nat × Addr × Bool × Bool)
deriving DecidableEq, Repr

/-- A beat of a beacon link: 32 data bits, above them the sideband: CODE, DARK, ACK, ACK_CLASS (R258). -/
abbrev Beat := BitVec 38

/-- What the slice has driven on its partner ports (R1). A packet's port is 0 to 3 the mesh links towards rising x, falling x, rising y and
falling y, 4 and 5 the off-package ports A and B, 6 its own die. -/
inductive Out where
  | packet (rsp : Bool) (port : Nat) (p : Packet)
  | frame (link : Nat) (beats : List Beat)
  | linkAck (link : Nat) (b : Beat)
  | stepBeat (cluster : Nat) (b : BitVec 128)
  | workPost (cluster : Nat) (addr : Addr)
  | workWithdraw (cluster : Nat) (addr : Addr)
  | commitTag (cluster : Nat) (b : BitVec 128)
  | warm (cluster : Nat) (experts : List Nat)
  | memRead (tag : Nat) (addr : Addr) (bytes : Nat)
  | readData (size : Nat) (v : W64)
  | memData (l : List Byte)
  | memPoisoned
  | reply (r : Reply)
deriving DecidableEq, Repr

/-- The state of one slice. -/
structure State where
  /-- Live registers (R17, R418). -/
  live : RegMap
  /-- Staged copies of the RWS registers (R424). -/
  staged : RegMap
  /-- Staged values refused at their last boundary: offset, value (R427). -/
  refused : List (Nat × Nat)
  /-- Outcome of the spares' test patterns at the step boundary that is held back, SCORE's and SORT's lightship (R98, R383). -/
  spareHeld : BitVec 2
  /-- CFG_BUSY's cause: the running CRC is being recomputed (R431). -/
  cfgBusy : Bool
  /-- Position straps (R434; log entry 12). -/
  da : DA
  /-- PWR_GOOD (R398). -/
  powered : Bool
  /-- The alarm output (R385, R402). -/
  alarm : Bool
  /-- Synchronisation counters (R30): canonical, unlisted 0. -/
  cnt : List (Nat × W32)
  /-- Software-allocated counters (R30, R301), rising. -/
  cntAlloc : List Nat
  cpools : List CPool
  /-- Records in the twenty rings, in the order they were placed (R281). -/
  ringq : List RingRec
  /-- The slot of each ring that its next record takes: canonical, unlisted 0 (R281, R282, R310). -/
  ringTail : List (Nat × Nat) := []
  running : List Run
  steps : List Step
  finished : List Finished
  nextSeq : W32
  /-- Kill causes held while a step is joined to COMMIT_READY, each with the step it concerns (R293). -/
  heldKill : List (KillCause × Option W32)
  /-- A KILL that arrived between the RELEASE of COMMIT_READY and the COMMIT: its generation (R293). -/
  heldKg : Option Nat
  /-- KILL_DONE has not released since the last kill (R295). -/
  killDone : Bool
  /-- STEP_ABORTs sent and not yet acknowledged, by destination; KILL_DONE is joined after the last (R296). -/
  abortAcks : List Nat
  /-- STEP_ABORTs held (R296): STEP_SEQ and final code. -/
  aborts : List (W32 × Nat)
  /-- The publication table (R291): (ENTRY, address), canonical, unlisted 0. -/
  pub : List (Nat × Addr)
  /-- Buffers that published entries keep (R291). -/
  pubBufs : List (Nat × Addr)
  /-- CTRL requests sent and not yet answered (R301): CTRL_OP and destination. -/
  ctrlWait : List (Nat × Nat)
  /-- Mailbox CMD registers (R297), canonical, unlisted 0; the latched packet; FULL. -/
  mboxCmd : List (Nat × W32)
  mboxPkt : Option HostPkt
  /-- The packet taken whose check waits for reads of die memory (R303, R382). -/
  taking : Option Taking := none
  longOp : LongOp
  replies : List Reply
  replyq : List Reply
  mem : Mem
  /-- Poisoned staging words by address / 8, rising (R378). -/
  poison : List Nat
  ueFrames : List Nat
  retired : List Addr
  scrubPos : Nat
  memTags : List MemTag
  /-- Partial records written by SCORE (R83): address, value, and the products folded into it (R84). -/
  folded : List (Addr × Nat × Nat)
  /-- Per fault code written: the clock of its last record and the records withheld since (R376). -/
  faultGate : List (Nat × Nat × Nat)
  pools : List Pool
  windows : List Window
  log : LogFifo
  part : Part
  models : List Model
  switchq : List Switch
  /-- The model switch that waits for its reads (R353). -/
  switchRun : Option SwitchRun := none
  loops : List Loop
  acct : BitVec 256
  fab : Bucket
  memb : Bucket
  ll : List LLine
  llOwners : List (Nat × Nat)
  llReqs : List LLReq
  /-- Placement lines as the recovery flip has rewritten them in a model's image: the image's address, the line (R389). -/
  imgFix : List (Addr × BitVec 256)
  /-- Home maps by version (R155). -/
  homes : List HomeMap
  /-- LL_WB and CTRL_RESULT packets of the Keeper not yet acknowledged: TYPE, destination, EPOCH (R196, R213). -/
  ownAcks : List (Nat × Nat × Bool)
  /-- Tiles under delivery, oldest step first (R61, R66). -/
  ing : List Ingress
  halves : List Half
  work : List Work
  acks : List AckPend
  hold : List Packet
  /-- The REQ ejection queue behind a packet that waits for room in the hold area (R251). -/
  ejectQ : List Packet
  /-- REQ packets at the fabric interface's inputs, for which the ejection queue has given no credit (R36, R193, R369). -/
  inQ : List Packet
  /-- FETCH_RD packets held until their server command starts (R211). -/
  rdHeld : List Packet
  /-- Collective data by enqueued record (R251). -/
  colls : List CollBuf
  /-- The CORE to FAB queues (R36): at most two whole packets of each network, oldest first; and the packets that wait at their engines for room. -/
  fabQ : List (Bool × Packet)
  injQ : List (Bool × Packet)
  verA : Version
  verB : Version
  flip : Flip
  links : List (Nat × Link)
  groups : List Group
  insts : List Inst
  elect : Elect
  /-- Alarms forwarded: source and code, the clock of the last forwarding (R273). -/
  fogs : List (Nat × Nat)
  recov : Recov
  /-- Slices fenced while the fence list was full (R386). -/
  fencedMore : List Nat
  cap : Capture
  power : Power
  nvm : Nvm
  /-- The model's own fields (log entries 2, 3, 16). -/
  out : List Out
  free : Nat
  clock : Nat
  /-- The queue of waiting commands, first in, first out. -/
  pending : List Instr
deriving DecidableEq, Repr

/-- The reset value of the register at an offset; 0 where none is mapped. -/
def regReset (off : Nat) : W32 :=
  match regRow off with
  | some r => BitVec.ofNat 32 r.reset
  | none => 0

/-- A link right after reset: down, nothing waiting, nothing heard. -/
def linkReset : Link :=
  { up := false, seqTx := [], seqRx := [], tx := [], neighbour := none, identity := 0, monitored := false, heard := false,
    missed := 0, dark := false, discovered := false, replied := none, answeredRoot := none }

/-- A version of the fabric configuration at reset (R222, R184): nothing loaded. -/
def versionReset (held : Bool) : Version :=
  { held := held, rtBase := 0, rt := [], gwBase := 0, storeBase := 0, rs := 0, slot4k := 0 }

/-- Why a step can stop with a fault: no rule of the spec makes the block stop, so nothing raises one. -/
inductive Fault where
  /-- Raised by no meaning of this model; kept so that the type names the outcome (safe: it cannot occur). -/
  | stuck
deriving DecidableEq, Repr

/-- Why a step can be refused. -/
inductive Refusal where
  /-- Raised by an arm of exec that has no meaning yet, under the row's mnemonic (safe: the machine stops). -/
  | notModelled (mnemonic : String)
deriving DecidableEq, Repr

end Sys2Proof.Machine

namespace Sys2Proof.Machine.State

/-- The slice right after PWR_GOOD rises (R398): phase A, every register at its reset value, nothing accepted, nothing assigned. -/
def reset : Sys2Proof.Machine.State :=
  { live := [], staged := [], refused := [], spareHeld := 0, cfgBusy := false, da := 0, powered := true, alarm := false, cnt := [], cntAlloc := [], cpools := [],
    ringq := [], ringTail := [], running := [], steps := [], finished := [], nextSeq := 0, heldKill := [], heldKg := none, killDone := true, abortAcks := [], aborts := [],
    pub := [], pubBufs := [], ctrlWait := [], mboxCmd := [], mboxPkt := none, taking := none, longOp := .none, replies := [], replyq := [],
    mem := [], poison := [], ueFrames := [], retired := [], scrubPos := 0, memTags := [], folded := [], faultGate := [],
    pools := [{ id := 5, head := 0, free := (List.range 288).map (fun j => 0xFE0000600000 + j * 0x10000), owned := [] }],
    windows := [], log := { pkts := [], latch := 0, wseq := 0, lossMark := false, takenAt := none, entered := 0, spilledTo := 0, flushReplies := [] },
    part := { members := [], wins := [], acctBase := 0, staged := none }, models := [], switchq := [], switchRun := none, loops := [], acct := 0,
    fab := { tk := 66560, req := [], rsp := [], mem := [] }, memb := { tk := 65536, req := [], rsp := [], mem := [] },
    ll := [], llOwners := [], llReqs := [], imgFix := [], homes := [], ownAcks := [],
    ing := [],
    halves := [], work := [], acks := [], hold := [], ejectQ := [], inQ := [], rdHeld := [], colls := [], fabQ := [], injQ := [], verA := versionReset true, verB := versionReset false,
    flip := { target := false, taken := [], lift := none, wanted := false, readyJoined := false, retireJoined := false, fresh := true },
    links := [], groups := [], insts := [],
    elect := { lowest := none, rootSeen := false, waitRoot := false }, fogs := [],
    recov := { active := false, flipDue := false, flipping := false, warm := [], rerunDue := false },
    fencedMore := [],
    cap := { digest := false, bufs := [], ringBase := 0, ringSize := 0, staged := [], reserved := 0, keepUsed := 0, arr := [],
             work := [], workPos := 0, tdcAt := [], start := none, stop := none, divSeq := none, sw := 0, sent := 0, dlb := false },
    power := { susp := .none, heldWakes := [], clkBad := 0, clkStopped := false, shadow := [], poolBody := none, waking := false, full := true, fwVer := none, fwd := [], vofsUp := false, vofsSet := false },
    nvm := { bytes := [], cycSettings := 0, cycPool := 0, cycImage := 0 },
    out := [], free := 0, clock := 0, pending := [] }

end Sys2Proof.Machine.State
end

