-- ==== Sys2Proof/Machine/Ops.lean ====
section
/-! DEFINITION. The named operations over registers, memory, counters, logs, faults, replies and buffers, which every meaning uses. -/

namespace Sys2Proof.Machine

/-! ### Registers (R17, R19, R418) -/

/-- The live value of the register at an offset. -/
def reg (s : State) (off : Nat) : Nat := (cellGet regReset s.live off).toNat

/-- Write the live value of the register at an offset. -/
def setReg (off v : Nat) (s : State) : State := { s with live := cellSet regReset s.live off (BitVec.ofNat 32 v) }

/-- The staged copy of the register at an offset (R424). -/
def stg (s : State) (off : Nat) : Nat := (cellGet regReset s.staged off).toNat

/-- Write the staged copy of the register at an offset. -/
def setStg (off v : Nat) (s : State) : State := { s with staged := cellSet regReset s.staged off (BitVec.ofNat 32 v) }

/-- Bits [hi:lo] of a live register. -/
def fld (s : State) (off hi lo : Nat) : Nat := bits (reg s off) hi lo

/-- Write bits [hi:lo] of a live register. -/
def setFld (off hi lo v : Nat) (s : State) : State := setReg off (setBits (reg s off) hi lo v) s

/-- One bit of a live register. -/
def flag (s : State) (off b : Nat) : Bool := bit (reg s off) b

/-- Set one bit of a live register. -/
def raiseBit (off b : Nat) (s : State) : State := setFld off b b 1 s

/-- Clear one bit of a live register. -/
def dropBit (off b : Nat) (s : State) : State := setFld off b b 0 s

/-- Set a bit when c holds. -/
def raiseIf (c : Bool) (off b : Nat) (s : State) : State := if c then raiseBit off b s else s

/-- Add n to a 32-bit event counter, which stops at its maximum (R19). -/
def bump (off n : Nat) (s : State) : State := setReg off (min (reg s off + n) 0xFFFFFFFF) s

/-- The value of a counter held in a _LO register and the _HI register 4 above it. -/
def reg64 (s : State) (lo : Nat) : Nat := reg s lo + reg s (lo + 4) * 2 ^ 32

/-- Add n to a 64-bit event counter at a _LO, _HI pair (R19). -/
def bump64 (lo n : Nat) (s : State) : State :=
  let v := min (reg64 s lo + n) (2 ^ 64 - 1)
  setReg (lo + 4) (v / 2 ^ 32) (setReg lo (v % 2 ^ 32) s)

/-- A 48-bit address held in a _LO, _HI pair. -/
def addrReg (s : State) (lo : Nat) : Addr := reg s lo + (reg s (lo + 4) % 2 ^ 16) * 2 ^ 32

/-- A register bound to a step (R425). -/
def bReg (b : RegMap) (off : Nat) : Nat := (cellGet regReset b off).toNat

/-- Bits [hi:lo] of a register bound to a step. -/
def bFld (b : RegMap) (off hi lo : Nat) : Nat := bits (bReg b off) hi lo

/-- A 48-bit address held in a bound _LO, _HI pair. -/
def bAddr (b : RegMap) (lo : Nat) : Addr := bReg b lo + (bReg b (lo + 4) % 2 ^ 16) * 2 ^ 32

/-! ### Names for what many rules ask of the state -/

/-- The slice's own DA (R434). -/
def ownDa (s : State) : Nat := s.da.toNat
/-- The partition's kill generation (R309). -/
def kgen (s : State) : Nat := fld s Reg.KEEP_KGEN 3 0
/-- The slice's partition (R336). -/
def partId (s : State) : Nat := fld s Reg.PART_ID 9 0
/-- The slice belongs to a partition (R336). -/
def assigned (s : State) : Bool := flag s Reg.PART_ID 10
/-- Benremin mode in force (R118). -/
def benremin (s : State) : Bool := flag s Reg.PART_ID 12
/-- The slice is ready (R401). -/
def ready (s : State) : Bool := flag s Reg.REL_PWR_STAT 2
/-- PWR_STAT.STATE: 0 RUN, 1 IDLE, 2 DARK, 3 WAKING (R416). -/
def pwrState (s : State) : Nat := fld s Reg.REL_PWR_STAT 1 0
/-- The slice is in the fenced state (R385). -/
def fenced (s : State) : Bool := flag s Reg.REL_STAT 9
/-- The partition is held for recovery (R391). -/
def recovering (s : State) : Bool := flag s Reg.REL_STAT 14
/-- PART_HOLD in force (R301). -/
def partHeld (s : State) : Bool := flag s Reg.KEEP_STAT 3
/-- CAP_STAT.MODE: 0 off, 1 capture, 2 replay, 3 start pending (R373). -/
def capMode (s : State) : Nat := fld s Reg.PART_CAP_STAT 1 0
/-- The partition is held by capture or replay (R368, R371, R372). -/
def capHold (s : State) : Bool := flag s Reg.PART_CAP_STAT 2
/-- The current version (R213). -/
def curEpoch (s : State) : Bool := flag s Reg.XCHG_FAB_EPOCH 0
/-- The old version is still held (R215). -/
def dual (s : State) : Bool := flag s Reg.XCHG_FAB_EPOCH 1
/-- A flip is in stage 1 (R213). -/
def prep (s : State) : Bool := flag s Reg.XCHG_FAB_EPOCH 2
/-- The model is resident (R351). -/
def resident (s : State) (m : Nat) : Bool := flag s Reg.PART_MODEL m
/-- The active model, none when NONE = 1 (R356). -/
def activeModel (s : State) : Option Nat := if flag s Reg.PART_ACTIVE 4 then none else some (fld s Reg.PART_ACTIVE 3 0)
/-- Powered, ready, not dark and not lost: the Keeper runs (R385, R400, R406). -/
def keeperUp (s : State) : Bool := s.powered && ready s && !fenced s && decide (pwrState s < 2) && !s.power.clkStopped
/-- The slice serves its fabric and beacon ports for others: ready and clocked (R385, R400, R404). -/
def forwarding (s : State) : Bool := s.powered && ready s && decide (pwrState s < 2) && !s.power.clkStopped

/-- The slice takes packets from the fabric: not while it holds its credits at zero on the way to DARK (R406). -/
def takesPackets (s : State) : Bool := forwarding s && decide (s.power.susp ≠ .draining)

/-! ### Free values (R20; log entry 2) -/

/-- The next free 64-bit value. -/
def fresh (s : State) : W64 := Config.freeWord s.free
/-- The state after one free value has been taken. -/
def tick (s : State) : State := { s with free := s.free + 1 }

/-- Add to a BUSY counter the free number of CORE cycles a command ran, at most its worst-case formula (log entry 4). -/
def busy (lo bound : Nat) (s : State) : State := tick (bump64 lo (min (Config.freeCycles s.free) bound) s)

/-- Add to a BUSY counter a free number of CORE cycles, for a command whose bound rests on values the spec leaves to the integrator (R220,
R256; log entry 4). -/
def busyFree (lo : Nat) (s : State) : State := tick (bump64 lo (Config.freeCycles s.free) s)

/-! ### Synchronisation counters (R30, R33) -/

/-- The value of counter Cn. -/
def cnt (s : State) (n : Nat) : W32 := cellGet (fun _ => 0) s.cnt n
/-- Write counter Cn. -/
def setCnt (n : Nat) (v : W32) (s : State) : State := { s with cnt := cellSet (fun _ => 0) s.cnt n v }
/-- Add 1 to counter Cn, wrapping (R33). -/
def signal (n : Nat) (s : State) : State := setCnt n (cnt s n + 1) s
/-- (i32)(counter − target) ≥ 0 (R31). -/
def reached (s : State) (n : Nat) (target : W32) : Bool := decide ((cnt s n - target).toNat < 2 ^ 31)

/-! ### Memory, the staging aperture and poison (R310, R323, R324, R378) -/

/-- What an unlisted byte reads as (log entry 15). -/
def memDefault (_ : Nat) : Byte := 0

/-- Buffer size of a class code; 64 KiB for the uniform pool, code 5 (R312). -/
def classSize (c : Nat) : Nat := if c = 5 then 0x10000 else 0x1000 * 4 ^ c

/-- The byte an address reaches: through the window for an aperture address; none beyond a window's mapping (R323, R324). -/
def phys (s : State) (a : Addr) : Option Addr :=
  if Config.apertureBase ≤ a then
    let w := (a - Config.apertureBase) / Config.apertureWindow
    let o := (a - Config.apertureBase) % Config.apertureWindow
    match s.windows.find? (fun x => x.id == w) with
    | none => none
    | some x => match x.bufs[o / x.size]? with
      | none => none
      | some b => some (b + o % x.size)
  else some a

/-- Read one byte; 0xFF beyond a window's mapping (R324). -/
def rd8 (s : State) (a : Addr) : Byte :=
  match phys s a with
  | none => 0xFF
  | some p => cellGet memDefault s.mem p

/-- Write one byte; nothing beyond a window's mapping (R324). -/
def wr8 (a : Addr) (b : Byte) (s : State) : State :=
  match phys s a with
  | none => s
  | some p => { s with mem := cellSet memDefault s.mem p b }

/-- Read n bytes from an address on. -/
def rdN (s : State) (a : Addr) : Nat → List Byte
  | 0 => []
  | n + 1 => rd8 s a :: rdN s (a + 1) n

/-- Write bytes in ascending address order (R58). -/
def wrN (a : Addr) (l : List Byte) (s : State) : State :=
  match l with
  | [] => s
  | b :: t => wrN (a + 1) t (wr8 a b s)

/-- Write (address, byte) pairs in order; a later one to the same address remains (R58). -/
def wrAll (l : List (Addr × Byte)) (s : State) : State := l.foldl (fun s p => wr8 p.1 p.2 s) s

/-- A little-endian number of n bytes (R13). -/
def rdLe (s : State) (a : Addr) (n : Nat) : Nat := leNat (rdN s a n)

/-- Write a number as n little-endian bytes (R13). -/
def wrLe (a : Addr) (n v : Nat) (s : State) : State := wrN a (leBytes n v) s

/-- The address lies in staging SRAM (R310). -/
def inStaging (p : Addr) : Bool := decide (Config.stagingBase ≤ p) && decide (p < Config.stagingBase + Config.stagingSize)

/-- The word that holds the byte is poisoned (R378). -/
def poisonedAt (s : State) (a : Addr) : Bool :=
  match phys s a with
  | none => false
  | some p => s.poison.contains (p / 8)

/-- The first poisoned byte of a range. -/
def poisonIn (s : State) (a : Addr) : Nat → Option Addr
  | 0 => none
  | n + 1 => if poisonedAt s a then some a else poisonIn s (a + 1) n

/-- The first poisoned byte of a list of ranges. -/
def poisonAny (s : State) (l : List (Addr × Nat)) : Option Addr := l.findSome? (fun r => poisonIn s r.1 r.2)

/-- The address of a slot of a ring (R281, R310). -/
def ringSlotAddr (ring slot : Nat) : Addr := Config.stagingBase + 0x40000 * ring + 64 * slot

/-- The 64 bytes of a record in its ring, which its engine reads (R281, R310). -/
def cmdSpan (r : RingRec) : Addr × Nat := (ringSlotAddr r.ring r.slot, 64)

/-- Mark the word poisoned (R378). -/
def poison (p : Addr) (s : State) : State := { s with poison := insNat (p / 8) s.poison }

/-- A whole-word write gives the word new check bits (R378). -/
def heal (p : Addr) (s : State) : State := { s with poison := s.poison.filter (fun w => w != p / 8) }

/-- Whole words among the byte addresses that will be written lose their poison (R378, R379). -/
def healAll (l : List Addr) (s : State) : State :=
  let ph := l.filterMap (phys s)
  { s with poison := s.poison.filter (fun w => !((List.range 8).all (fun j => ph.contains (w * 8 + j)))) }

/-- The first byte written whose word is poisoned and not wholly written (R379). -/
def partialPoison (s : State) (l : List Addr) : Option Addr :=
  if s.poison.isEmpty then none else
  let ph := l.filterMap (phys s)
  l.find? (fun a => match phys s a with
    | none => false
    | some p => s.poison.contains (p / 8) && !((List.range 8).all (fun j => ph.contains (p / 8 * 8 + j))))

/-! ### The log FIFO (R325 to R331) -/

/-- FIFO words a packet of n packet words takes (R327). -/
def fifoWords (n : Nat) : Nat := ceilDiv n 7

/-- LOG_FILL: FIFO words held (R329). -/
def logFill (s : State) : Nat := (s.log.pkts.map (fun p => fifoWords p.words.length)).foldl (· + ·) 0

/-- Capacity in FIFO words (R329). -/
def logCap (s : State) : Nat := 16 + 2048 * fld s Reg.PART_LOG_SPILL_SZ 10 0

/-- FILL rose: ABOVE at HIGH_BUOY (R331). -/
def logBuoys (s : State) : State := if fld s Reg.PART_LOG_HIGH 21 0 ≤ logFill s then raiseBit Reg.PART_LOG_STAT 0 s else s

/-- FILL fell: ABOVE ends at LOW_BUOY (R331). -/
def logFell (s : State) : State :=
  if flag s Reg.PART_LOG_STAT 0 && decide (logFill s ≤ fld s Reg.PART_LOG_LOW 21 0) then dropBit Reg.PART_LOG_STAT 0 s else s

/-- Count a packet of n FIFO words as lost (R330). -/
def logLose (n : Nat) (s : State) : State :=
  let s := raiseBit Reg.PART_LOG_STAT 1 (bump Reg.PART_LOG_LOST_WORD n (bump Reg.PART_LOG_LOST_PKT 1 s))
  { s with log := { s.log with lossMark := true } }

/-- Discard whole packets from the head until n words fit; FILL falls with each (R330, R331); k bounds the packets discarded. -/
def logRoom (n : Nat) : Nat → State → State
  | 0, s => s
  | k + 1, s =>
    if logFill s + n ≤ logCap s then s
    else match s.log.pkts with
      | [] => s
      | p :: t => logRoom n k (logFell (logLose (fifoWords p.words.length) { s with log := { s.log with pkts := t } }))

/-- Mark the packets with a word between the first 8 and the last 8 words held: those words go to the spill ring (R329); i words precede. -/
def logSpill (fill : Nat) : Nat → List LogPkt → List LogPkt
  | _, [] => []
  | i, p :: t =>
    let n := fifoWords p.words.length
    { p with spilled := p.spilled || decide (max i 8 < min (i + n) (fill - 8)) } :: logSpill fill (i + n) t

/-- A completed packet enters the FIFO whole (R325, R329, R330). -/
def logEnter (kind source : Nat) (payload : List Nat) (s : State) : State :=
  if !(flag s Reg.PART_LOG_CTL 0) then s else
  let len := payload.length + 1
  let head := kind + source * 2 ^ 8 + len * 2 ^ 14 + partId s * 2 ^ 21
  let n := fifoWords len
  let s := logRoom n (s.log.pkts.length) s
  let p : LogPkt := { words := (head :: payload).map (fun v => BitVec.ofNat 32 v), wseq := s.log.wseq, spilled := false }
  let pkts := s.log.pkts ++ [p]
  logBuoys { s with log := { s.log with pkts := logSpill (logFill s + n) 0 pkts, wseq := (s.log.wseq + n) % 2 ^ 16, entered := s.log.entered + n } }

/-- A TRACE packet of R326: the cycles are free values (R333); suppressed and counted lost while ABOVE (R331). -/
def logTrace (ring opcode : Nat) (step target wait : W32) (credits : Nat) (s : State) : State :=
  if !(flag s Reg.PART_LOG_CTL 0) || !(flag s Reg.PART_LOG_CTL 1) then s
  else if flag s Reg.PART_LOG_STAT 0 && flag s Reg.PART_LOG_CTL 2 then logLose 2 s
  else
    let c0 := (fresh s).toNat
    let c1 := (fresh (tick s)).toNat
    logEnter 0x10 (1 + ring / 2) [ring + opcode * 2 ^ 5, step.toNat, c0 % 2 ^ 32, c0 / 2 ^ 32, c1 % 2 ^ 32, c1 / 2 ^ 32,
      target.toNat, wait.toNat, credits] (tick (tick s))

/-- An EPOCH packet (R326). -/
def logEpoch (s : State) : State := logEnter 0x05 0 [reg s Reg.XCHG_FAB_EPOCH % 4] s

/-! ### Faults (R374 to R380) -/

/-- CORE cycles in 1 ms (R11, R376). -/
def msTicks : Nat := 1600000

/-- 100 µs in ticks (log entry 3). -/
def us100Ticks : Nat := 160000

/-- What was last done at `t` may be done again: not within 100 µs (R274, R442). -/
def mayAgain (t : Option Nat) (s : State) : Bool := match t with | none => true | some t => decide (t + us100Ticks ≤ s.clock)

/-- Write a fault record by R374, a correctable one at most once per 1 ms and code (R376). -/
def faultRec (code unit da detail : Nat) (addr : Addr) (step : Nat) (s : State) : State :=
  let body (sup : Nat) : List Nat :=
    [code + unit * 2 ^ 8 + (min sup 65535) * 2 ^ 16, da % 2 ^ 20, detail % 2 ^ 32, addr % 2 ^ 32, (addr / 2 ^ 32) % 2 ^ 16, step % 2 ^ 32]
  if 0x80 ≤ code then logEnter 0x04 13 (body 0) s
  else match s.faultGate.find? (fun g => g.1 == code) with
    | none => logEnter 0x03 13 (body 0) { s with faultGate := (code, s.clock, 0) :: s.faultGate }
    | some g =>
      let rest := s.faultGate.filter (fun x => x.1 != code)
      if s.clock < g.2.1 + msTicks then { s with faultGate := (code, g.2.1, g.2.2 + 1) :: rest }
      else logEnter 0x03 13 (body g.2.2) { s with faultGate := (code, s.clock, 0) :: rest }

/-- No step is concerned (R374). -/
def noStep : Nat := 0xFFFFFFFF

/-- A corrected word (R377). -/
def ceDetect (a : Addr) (b : Nat) (s : State) : State :=
  let s := raiseBit Reg.REL_STAT 0 (bump Reg.REL_CE_CNT 1 s)
  let w := a / 8 * 8
  let s := setReg Reg.REL_CE_HI ((w / 2 ^ 32) % 2 ^ 16 + (b % 128) * 2 ^ 16) (setReg Reg.REL_CE_LO (w % 2 ^ 32) s)
  faultRec 0x01 22 (ownDa s) b w noStep s

/-- The buffer of a pool in use that holds an address, with its class code (R312, R315, R380). -/
def bufferOf (s : State) (p : Addr) : Option (Nat × Addr) :=
  (s.pools.filter (fun q => (q.id == 5) == flag s Reg.COMB_POOL_STAT 0)).findSome? (fun q =>
    ((q.free ++ q.owned).find? (fun b => decide (b ≤ p) && decide (p < b + classSize q.id))).map (fun b => (q.id, b)))

/-- An uncorrectable detection: the word is poisoned, counted and recorded, and its buffer retired at the second in a frame (R378, R380). -/
def ueDetect (a : Addr) (detail step : Nat) (s : State) : State :=
  let p := (phys s a).getD a
  let w := p / 8 * 8
  let s := raiseBit Reg.REL_STAT 1 (bump Reg.REL_UE_CNT 1 (poison p s))
  let s := setReg Reg.REL_ERR_HI ((w / 2 ^ 32) % 2 ^ 16) (setReg Reg.REL_ERR_LO (w % 2 ^ 32) s)
  let s := faultRec 0x02 22 (ownDa s) detail w step s
  let f := p / 4096
  let seen := s.ueFrames.contains f
  let s := { s with ueFrames := (f :: s.ueFrames).take 64 }
  match bufferOf s p with
  | none => s
  | some (c, b) =>
    if seen && !(s.retired.contains b) then
      faultRec 0x05 22 (ownDa s) c b noStep
        (raiseBit Reg.REL_STAT 13 (bump Reg.REL_RETIRE_CNT 1 { s with retired := b :: s.retired }))
    else s

/-- A partial write that met an uncorrectable word is aborted (R379, R397). -/
def partialAbort (s : State) : State := raiseBit Reg.REL_STAT 3 (bump Reg.REL_PARTIAL_CNT 1 s)

/-! ### Replies and rejections (R297, R299, R305) -/

/-- A reply enters the FIFO, or waits in the internal queue when the FIFO is full (R297). -/
def answer (r : Reply) (s : State) : State :=
  if s.replies.length < 16 && s.replyq.isEmpty then { s with replies := s.replies ++ [r] } else { s with replyq := s.replyq ++ [r] }

/-- A final reply waits in the internal queue (R297). -/
def queueReply (r : Reply) (s : State) : State := { s with replyq := s.replyq ++ [r] }

/-- The eight words of a reply (R299). -/
def replyWords (r : Reply) : List Nat :=
  [r.status + (b2n r.final) * 2 ^ 8 + (b2n r.uncommitted) * 2 ^ 9 + r.seq.toNat * 2 ^ 16,
   r.part.toNat + r.opcode.toNat * 2 ^ 16, r.r0.toNat, r.r1.toNat, r.r2.toNat, r.r3.toNat, r.r4.toNat, r.r5.toNat]

/-! ### Outputs at the partner ports (R1; log entry 16) -/

/-- Record what was driven, newest first. -/
def emit (o : Out) (s : State) : State := { s with out := o :: s.out }

/-! ### Timing-dependent choices (R362) -/

/-- Count one event of source i. -/
def tdc (i : Nat) (s : State) : State := bump (Reg.PART_TDC_SRC i) 1 (bump64 Reg.PART_TDC_LO 1 s)

/-! ### Capture records (R365, R366, R369) -/

/-- The header and payload of a record, padded to 16 bytes (R365). -/
def capBytes (typ sub : Nat) (half : Bool) (step seqno time : Nat) (payload : List Byte) : List Byte :=
  let n := ceilDiv payload.length 16
  leBytes 1 typ ++ leBytes 1 (sub + b2n half * 16) ++ leBytes 2 n ++ leBytes 4 step ++ leBytes 4 seqno ++ leBytes 4 time
    ++ payload ++ List.replicate (n * 16 - payload.length) 0

/-- Bytes of the records in capture staging. -/
def capUsed (s : State) : Nat := (s.cap.staged.map List.length).foldl (· + ·) 0

/-- The bytes of gathered entries that no start has reserved: DISPATCH and bundle arrivals, and work entries (R366, R369). -/
def capGathered (s : State) : Nat :=
  16 * ((s.cap.arr.filter (fun e => e.1 % 16 == 1 || e.1 % 16 == 2)).length + s.cap.work.length)

/-- The bytes capture staging has free, its reserve buffer, the space reserved at starts and the entries gathered left out (R368, R369). -/
def capFree (s : State) : Nat := (s.cap.bufs.length - 1) * 0x10000 - (capUsed s - s.cap.keepUsed) - s.cap.reserved - capGathered s

/-- Set CRED_HOLD by the free capture staging (R369). -/
def capCred (s : State) : State := setFld Reg.PART_CAP_STAT 3 3 (b2n (capMode s == 1 && decide (capFree s < 0x10000))) s

/-- The types that use the reserve buffer: CTRL, BEACON, COMMIT (R369). -/
def capKeeps (typ : Nat) : Bool := typ == 4 || typ == 9 || typ == 11

/-- Append a record to capture staging; TIME is a free value. -/
def capPush (typ sub : Nat) (half : Bool) (step : Nat) (payload : List Byte) (s : State) : State :=
  let r := capBytes typ sub half step (reg s Reg.PART_CAP_SEQNO) ((fresh s).toNat % 2 ^ 32) payload
  let s := tick s
  let s := { s with cap := { s.cap with staged := s.cap.staged ++ [r],
                                        keepUsed := s.cap.keepUsed + (if capKeeps typ then r.length else 0) } }
  capCred (setReg Reg.PART_CAP_SEQNO ((reg s Reg.PART_CAP_SEQNO + 1) % 2 ^ 32) s)

/-- Write a capture record while MODE = 1; the reserve buffer full ends the capture as incomplete (R369). -/
def capWrite (typ sub : Nat) (half : Bool) (step : Nat) (payload : List Byte) (s : State) : State :=
  if capMode s != 1 then s
  else if capKeeps typ && decide (0x10000 < s.cap.keepUsed + 16 + roundUp payload.length 16) then
    setFld Reg.PART_CAP_STAT 1 0 0
      (raiseBit Reg.PART_CAP_STAT 5 (capPush 2 0 false step (leBytes 8 (reg64 s Reg.PART_TDC_LO) ++ leBytes 4 0 ++ leBytes 4 4) s))
  else capPush typ sub half step payload s

/-- A record of a type that replay compares: of the BEACON records only those of a RELEASE (R372). -/
def repIs (typ : Nat) (r : List Byte) : Bool := leAt r 0 1 == typ && (typ != 9 || (bits (leAt r 16 8) 1 0 == 1 && bits (leAt r 16 8) 9 4 == 2))

/-- A record of a captured KILL (R366, R371). -/
def repKill (r : List Byte) : Bool := leAt r 0 1 == 9 && bits (leAt r 16 8) 1 0 == 3 && bits (leAt r 16 8) 9 4 == 8

/-- The records of the runs under way: those read so far that stand before the next captured KILL; behind it stand those of the reruns (R371, R372). -/
def repRun (s : State) : List (List Byte) := s.cap.staged.takeWhile (fun r => !(repKill r))

/-- A record of a run, which a kill ends: COUNTS, ARRIVALS, WORK, DIGEST. -/
def repOfRun (typ : Nat) : Bool := typ == 6 || typ == 7 || typ == 8 || typ == 10

/-- The next record of a type in the replay stream read so far; one of a run stands before a captured KILL (R372). -/
def repNext (typ : Nat) (s : State) : Option (List Byte) := (if repOfRun typ then repRun s else s.cap.staged).find? (repIs typ)

/-- The next record of a type, step and half of the runs under way. -/
def repFind (typ : Nat) (step : Nat) (half : Bool) (s : State) : Option (List Byte) :=
  (repRun s).find? (fun r => leAt r 0 1 == typ && leAt r 4 4 == step && bit (leAt r 1 1) 4 == half)

/-- Remove the next record of a type. -/
def repTake (typ : Nat) (s : State) : State :=
  { s with cap := { s.cap with staged := dropFirst (repIs typ) s.cap.staged } }

/-- Set STARVE, and HOLD with it, when the stream holds no further record (R371). -/
def repStarve (s : State) : State :=
  if capMode s == 2 && s.cap.staged.isEmpty then raiseBit Reg.PART_CAP_STAT 2 (raiseBit Reg.PART_CAP_STAT 6 s) else s

/-- The first difference: DIV, the four DIV registers, and the hold until REPLAY STOP (R372). -/
def repDiverge (r : List Byte) (value : Nat) (s : State) : State :=
  if s.cap.divSeq.isSome then s else
  let typ := leAt r 0 1
  let d2 := if typ == 10 then typ + leAt r 16 1 * 2 ^ 8 + leAt r 17 1 * 2 ^ 13 else typ
  let s := setReg (Reg.PART_REP_DIV 3) (value % 2 ^ 32) (setReg (Reg.PART_REP_DIV 2) (d2 % 2 ^ 21)
    (setReg (Reg.PART_REP_DIV 1) (leAt r 4 4) (setReg (Reg.PART_REP_DIV 0) (leAt r 8 4) s)))
  { raiseBit Reg.PART_CAP_STAT 2 (raiseBit Reg.PART_CAP_STAT 4 s) with
    cap := { s.cap with divSeq := some (BitVec.ofNat 32 (leAt r 8 4)) } }

/-- The 16-byte records of a COUNTS payload, in no order. -/
def countKey (l : List Byte) : List Nat := sortBy (fun a b => decide (a ≤ b)) ((chunksOf 16 (l.length / 16) l).map leNat)

/-- An event's payload is the one a record holds: a COUNTS set as a set, of any other record the first n bytes (R372). -/
def repSame (e : RepEvent) (p : List Byte) : Bool :=
  if e.typ = 6 then countKey p == countKey e.payload else p.take e.n == e.payload.take e.n

/-- An ARRIVALS record of a kind (SUB and HALF) and step (R366). -/
def repIsArr (key step : Nat) (r : List Byte) : Bool := leAt r 0 1 == 7 && leAt r 1 1 == key && leAt r 4 4 == step

/-- The entries of a record. -/
def repEntries (r : List Byte) : List (List Byte) := chunksOf 16 ((r.length - 16) / 16) (r.drop 16)

/-- The staged records with one entry of an ARRIVALS record of a kind and step taken out; none where no such record before a captured KILL holds
it. -/
def takeEntry (key step : Nat) (e : List Byte) : List (List Byte) → Option (List (List Byte))
  | [] => none
  | r :: t =>
    if repKill r then none
    else if repIsArr key step r && (repEntries r).contains e then
      let left := dropFirst (fun x => x == e) (repEntries r)
      some (if left.isEmpty then t else (r.take 16 ++ left.flatten) :: t)
    else (takeEntry key step e t).map (fun l => r :: l)

/-- Every ARRIVALS record of a step's run has been supplied: its COMMIT record stands in the stream (R366). -/
def arrClosed (step : Nat) (s : State) : Bool := (repRun s).any (fun r => leAt r 0 1 == 11 && leAt r 4 4 == step)

/-- An arrival is compared with the captured arrivals of its kind, step and half, each of which serves once: the places of results are imposed by
(TAG, CHUNK) and those of packets from other dies may differ, so their order is none (R371, R372; DEDUCED, log entry 97). -/
def repArrive (e : RepEvent) (s : State) : State :=
  match takeEntry e.key e.step e.payload s.cap.staged with
  | some l => repStarve { s with cap := { s.cap with staged := l } }
  | none =>
    if !(arrClosed e.step s) then repStarve { s with cap := { s.cap with waiting := s.cap.waiting ++ [e] } }
    else match s.cap.staged.find? (fun r => leAt r 0 1 == 7 || (leAt r 0 1 == 11 && leAt r 4 4 == e.step)) with
      | some r => repDiverge r 0 s
      | none => s

/-- Compare an event with the next record of its type in replay; one whose record has not been supplied yet waits for it, as do those of its type
behind it; a DIGEST for which only records behind a captured KILL are left is not compared (R372). -/
def repCompare (e : RepEvent) (s : State) : State :=
  let wait (s : State) : State := { s with cap := { s.cap with waiting := s.cap.waiting ++ [e] } }
  if e.typ = 7 then repArrive e s else
  if s.cap.waiting.any (fun x => x.typ == e.typ) then wait s else
  match repNext e.typ s with
  | none => if e.typ = 10 ∧ s.cap.staged.any repKill then s else repStarve (wait s)
  | some r => repStarve (if repSame e (r.drop 16) then repTake e.typ s else repDiverge r e.value (repTake e.typ s))

/-- Compare the events that wait with the records supplied since (R372). -/
def repCompareWaiting (s : State) : State := s.cap.waiting.foldl (fun s e => repCompare e s) { s with cap := { s.cap with waiting := [] } }

/-- Capture an event, or compare it in replay with the payload's first n bytes (R366, R372). -/
def capEvent (typ sub : Nat) (half : Bool) (step : Nat) (payload : List Byte) (n value : Nat) (s : State) : State :=
  if capMode s == 2 then repCompare { typ := typ, payload := payload, n := n, value := value, step := step } s
  else capWrite typ sub half step payload s

/-! ### Gathered arrivals and work entries (R366) -/

/-- Write the gathered arrival entries of one kind, step and half; the space a start reserved for those of results and streams is theirs now
(R369). -/
def flushArr (key : Nat) (step : Nat) (s : State) : State :=
  let mine := s.cap.arr.filter (fun e => e.1 == key && e.2.1 == step)
  if mine.isEmpty then s else
  let held := if key % 16 = 0 ∨ key % 16 = 3 then 16 * mine.length else 0
  capWrite 7 (key % 16) (decide (16 ≤ key)) step (mine.flatMap (fun e => e.2.2))
    { s with cap := { s.cap with arr := s.cap.arr.filter (fun e => !(e.1 == key && e.2.1 == step)), reserved := s.cap.reserved - held } }

/-- Write the gathered work entries of one step and half. -/
def flushWork (step : Nat) (half : Bool) (s : State) : State :=
  let mine := s.cap.work.filter (fun e => e.1 == step && e.2.1 == half)
  if mine.isEmpty then s else
  capWrite 8 0 half step (mine.flatMap (fun e => e.2.2))
    { s with cap := { s.cap with work := s.cap.work.filter (fun e => !(e.1 == step && e.2.1 == half)) } }

/-- A command of the exchange ends, a killed one too: gathered arrivals and work entries are written (R366). -/
def flushCap (s : State) : State :=
  if capMode s != 1 then s else
  let s := (s.cap.arr.map (fun e => (e.1, e.2.1))).dedup.foldl (fun s k => flushArr k.1 k.2 s) s
  (s.cap.work.map (fun e => (e.1, e.2.1))).dedup.foldl (fun s k => flushWork k.1 k.2 s) s

/-- Gather one arrival entry; 256 of a kind make a record (R366). -/
def gatherArr (key step : Nat) (e : List Byte) (s : State) : State :=
  let s := { s with cap := { s.cap with arr := s.cap.arr ++ [(key, step, e)] } }
  if 256 ≤ (s.cap.arr.filter (fun x => x.1 == key && x.2.1 == step)).length then flushArr key step s else capCred s

/-- Gather one work entry; 256 make a record (R366). -/
def gatherWork (step : Nat) (half : Bool) (e : List Byte) (s : State) : State :=
  let s := { s with cap := { s.cap with work := s.cap.work ++ [(step, half, e)] } }
  if 256 ≤ (s.cap.work.filter (fun x => x.1 == step && x.2.1 == half)).length then flushWork step half s else capCred s

/-- The order of records that arise in one cycle: those of one TYPE as they arose, the types rising; each takes its SEQNO by its place (R365, R366). -/
def sameCycle (k : State → State) (s : State) : State :=
  let t := k s
  if capMode s != 1 || capMode t != 1 then t else
  let n := s.cap.staged.length
  let l := sortBy (fun (a b : List Byte) => decide (leAt a 0 1 ≤ leAt b 0 1)) (t.cap.staged.drop n)
  let l := (withIdx (reg s Reg.PART_CAP_SEQNO) l).map (fun e => e.2.take 8 ++ leBytes 4 (e.1 % 2 ^ 32) ++ e.2.drop 12)
  { t with cap := { t.cap with staged := t.cap.staged.take n ++ l } }

/-- What a kill leaves of the record/replay unit: no space reserved, nothing that the killed runs wait for, and of their records those behind the captured
KILL (R369, R371, R372). -/
def capKilled (dead : Nat → Bool) (s : State) : State :=
  let ran := repRun s
  let gone (typ step : Nat) : Bool := repOfRun typ && dead step
  capCred { s with cap := { s.cap with reserved := 0, rows := s.cap.rows.filter (fun r => !(dead r.step.toNat)),
                                       waiting := s.cap.waiting.filter (fun e => !(gone e.typ e.step)),
                                       staged := if capMode s != 2 || ran.length == s.cap.staged.length then s.cap.staged else
                                         ran.filter (fun r => !(gone (leAt r 0 1) (leAt r 4 4))) ++ s.cap.staged.drop ran.length } }

/-! ### The end of every meaning -/

/-- Put every sparse map back into canonical form; reading any key gives what it gave (Laws). -/
def settle (s : State) : State :=
  { s with
    live := cellCanon regReset s.live
    staged := cellCanon regReset s.staged
    cnt := cellCanon (fun _ => 0) s.cnt
    pub := cellCanon (fun _ => 0) s.pub
    mboxCmd := cellCanon (fun _ => 0) s.mboxCmd
    mem := cellCanon memDefault s.mem
    nvm := { s.nvm with bytes := cellCanon memDefault s.nvm.bytes } }

/-- A meaning's answer: always a next state. -/
def finish (s : State) : Host.Outcome State Fault Refusal := .next (settle s)

end Sys2Proof.Machine
end

