-- ==== Sys2Proof/Machine/Flags.lean ====
section
/-! DEFINITION. Number formats, exact values, rounding, and the status every conversion reports (spec/02 R40 to R49, R71). -/

namespace Sys2Proof.Machine

/-- An exact value: NaN, an infinity, or (−1)^neg × m × 2^e; a zero keeps its sign (R41). -/
inductive Val where
  | nan
  | inf (neg : Bool)
  | fin (neg : Bool) (m : Nat) (e : Int)
deriving DecidableEq, Repr

/-- A floating-point format: exponent bits, mantissa bits, bias, largest finite code, infinity code, NaN code, the sign left out (R40). -/
structure Fp where
  eb : Nat
  mb : Nat
  bias : Nat
  maxCode : Nat
  infCode : Option Nat
  nanCode : Nat
deriving DecidableEq, Repr

def fpF32 : Fp := { eb := 8, mb := 23, bias := 127, maxCode := 0x7F7FFFFF, infCode := some 0x7F800000, nanCode := 0x7FC00000 }
def fpF16 : Fp := { eb := 5, mb := 10, bias := 15, maxCode := 0x7BFF, infCode := some 0x7C00, nanCode := 0x7E00 }
def fpBF16 : Fp := { eb := 8, mb := 7, bias := 127, maxCode := 0x7F7F, infCode := some 0x7F80, nanCode := 0x7FC0 }
def fpE4M3 : Fp := { eb := 4, mb := 3, bias := 7, maxCode := 0x7E, infCode := none, nanCode := 0x7F }
def fpE5M2 : Fp := { eb := 5, mb := 2, bias := 15, maxCode := 0x7B, infCode := some 0x7C, nanCode := 0x7F }
def fpE2M3 : Fp := { eb := 2, mb := 3, bias := 1, maxCode := 0x1F, infCode := none, nanCode := 0 }
def fpE3M2 : Fp := { eb := 3, mb := 2, bias := 3, maxCode := 0x1F, infCode := none, nanCode := 0 }
def fpE2M1 : Fp := { eb := 2, mb := 1, bias := 1, maxCode := 0x7, infCode := none, nanCode := 0 }

/-- The format of the elements of a floating-point format code; none for MXINT8 and the integers (R40). -/
def fpOf (fmt : Nat) : Option Fp :=
  match fmt with
  | 0x00 => some fpF32 | 0x01 => some fpF16 | 0x02 => some fpBF16 | 0x03 => some fpE4M3 | 0x04 => some fpE5M2
  | 0x05 => some fpE4M3 | 0x06 => some fpE5M2 | 0x07 => some fpE2M3 | 0x08 => some fpE3M2 | 0x09 => some fpE2M1
  | _ => none

/-- The code names a format of R40. -/
def fmtKnown (fmt : Nat) : Bool := decide (fmt ≤ 0x0A) || (decide (0x10 ≤ fmt) && decide (fmt ≤ 0x13))
/-- A Microscaling format (R40). -/
def fmtMx (fmt : Nat) : Bool := decide (0x05 ≤ fmt) && decide (fmt ≤ 0x0A)
/-- An integer format (R43). -/
def fmtInt (fmt : Nat) : Bool := decide (0x10 ≤ fmt) && decide (fmt ≤ 0x13)

/-- Element width in bits (R40). -/
def fmtBits (fmt : Nat) : Nat :=
  match fmt with
  | 0x00 => 32 | 0x01 => 16 | 0x02 => 16 | 0x07 => 6 | 0x08 => 6 | 0x09 => 4 | 0x10 => 32 | 0x11 => 16
  | _ => 8

/-! ### Reading a code (R41, R42, R47) -/

/-- The value of a code, sign bit included. -/
def decodeFp (f : Fp) (c : Nat) : Val :=
  let neg := bit c (f.eb + f.mb)
  let a := c % 2 ^ (f.eb + f.mb)
  if f.maxCode < a then (if f.infCode = some a then .inf neg else .nan)
  else
    let ex := a / 2 ^ f.mb
    let ma := a % 2 ^ f.mb
    if ex = 0 then .fin neg ma (1 - (f.bias : Int) - f.mb) else .fin neg (ma + 2 ^ f.mb) ((ex : Int) - f.bias - f.mb)

/-- Multiply a value by 2^k. -/
def scaleVal (k : Int) : Val → Val
  | .fin n m e => .fin n m (e + k)
  | v => v

/-- The value of an MX element under scale byte s (R47). -/
def decodeMx (fmt s c : Nat) : Val :=
  if s = 0xFF then .nan
  else if fmt = 0x0A then
    let i := sext 8 c
    .fin (decide (i < 0)) i.natAbs (-6 + (s : Int) - 127)
  else match fpOf fmt with
    | some f => scaleVal ((s : Int) - 127) (decodeFp f c)
    | none => .nan

/-- The value of an element of a scalar floating-point format. -/
def decodeScalar (fmt c : Nat) : Val :=
  match fpOf fmt with
  | some f => decodeFp f c
  | none => .fin (decide (sext (fmtBits fmt) c < 0)) (sext (fmtBits fmt) c).natAbs 0

/-! ### Rounding (R44) -/

/-- The code, sign left out, of the exact magnitude (m + d) × 2^e rounded to nearest, ties to even, where d is 0, or strictly between
0 and 1 when sticky holds; codes above the largest finite one mean overflow. With sticky, m must be 2^60 or more. -/
def roundMag (f : Fp) (m : Nat) (e : Int) (sticky : Bool) : Nat :=
  if m = 0 then 0 else
  let top : Int := (Nat.log2 m : Int) + e
  let qmin : Int := 1 - (f.bias : Int) - f.mb
  let q : Int := max (top - f.mb) qmin
  let n : Nat :=
    if q ≤ e then m * 2 ^ (e - q).toNat
    else
      let sh := (q - e).toNat
      let lo := m % 2 ^ sh
      let hi := m / 2 ^ sh
      let half := 2 ^ (sh - 1)
      if lo > half || (lo == half && (sticky || hi % 2 == 1)) then hi + 1 else hi
  -- n × 2^q, with q ≥ qmin: the code counts ulps from zero
  if n < 2 ^ f.mb then n
  else (q - qmin).toNat * 2 ^ f.mb + n

/-- What a conversion wrote and reported. -/
structure Conv where
  code : Nat
  sat : Bool := false
  ovf : Bool := false
deriving DecidableEq, Repr

/-- Put the sign bit on a code. -/
def signed (f : Fp) (neg : Bool) (c : Nat) : Nat := c + b2n neg * 2 ^ (f.eb + f.mb)

/-- A finite magnitude or an infinity that overflowed, by R45 and R46. `sat` has an effect only on E4M3 and E5M2. -/
def overflowTo (f : Fp) (neg finite sat : Bool) : Conv :=
  let narrow := decide (f.mb < 7)
  if narrow && sat then { code := signed f neg f.maxCode, sat := true }
  else match f.infCode with
    | some i => { code := signed f neg i, ovf := finite }
    | none => { code := f.nanCode, ovf := finite }

/-- Conversion of an exact value into FP32, FP16, BF16, E4M3 or E5M2 (R44 to R46). -/
def convert (f : Fp) (sat : Bool) (v : Val) : Conv :=
  match v with
  | .nan => { code := f.nanCode }
  | .inf neg => overflowTo f neg false sat
  | .fin neg m e =>
    let c := roundMag f m e false
    if f.maxCode < c then overflowTo f neg true sat else { code := signed f neg c }

/-- Conversion of an inexact magnitude (m + d) × 2^e, 0 < d < 1. -/
def convertSticky (f : Fp) (sat neg : Bool) (m : Nat) (e : Int) : Conv :=
  let c := roundMag f m e true
  if f.maxCode < c then overflowTo f neg true sat else { code := signed f neg c }

/-! ### Exact arithmetic on finite values -/

/-- The signed integer of a finite value at exponent lo, where lo is at most its exponent. -/
def atExp (neg : Bool) (m : Nat) (e lo : Int) : Int :=
  let a : Int := ((m * 2 ^ (e - lo).toNat : Nat) : Int)
  if neg then -a else a

/-- The value of an integer times 2^e; zero is +0. -/
def ofInt (i : Int) (e : Int) : Val := .fin (decide (i < 0)) i.natAbs e

/-- Exact sum; equal opposites give +0, two zeros of one sign keep it (IEEE 754, round to nearest). -/
def addVal (a b : Val) : Val :=
  match a, b with
  | .nan, _ => .nan
  | _, .nan => .nan
  | .inf x, .inf y => if x = y then .inf x else .nan
  | .inf x, .fin _ _ _ => .inf x
  | .fin _ _ _, .inf y => .inf y
  | .fin n1 m1 e1, .fin n2 m2 e2 =>
    if m1 = 0 ∧ m2 = 0 then .fin (n1 && n2) 0 0
    else
      let lo := min e1 e2
      ofInt (atExp n1 m1 e1 lo + atExp n2 m2 e2 lo) lo

/-- Exact product. -/
def mulVal (a b : Val) : Val :=
  match a, b with
  | .nan, _ => .nan
  | _, .nan => .nan
  | .inf x, .inf y => .inf (x != y)
  | .inf x, .fin y m _ => if m = 0 then .nan else .inf (x != y)
  | .fin y m _, .inf x => if m = 0 then .nan else .inf (x != y)
  | .fin n1 m1 e1, .fin n2 m2 e2 => .fin (n1 != n2) (m1 * m2) (e1 + e2)

/-- The value is zero. -/
def Val.isZero : Val → Bool
  | .fin _ m _ => decide (m = 0)
  | _ => false

/-- The value is NaN. -/
def Val.isNan : Val → Bool
  | .nan => true
  | _ => false

/-- Strictly less in the real order, infinities at the ends, zeros equal; false with a NaN. -/
def ltVal (a b : Val) : Bool :=
  match a, b with
  | .nan, _ => false
  | _, .nan => false
  | .inf x, .inf y => x && !y
  | .inf x, .fin _ _ _ => x
  | .fin _ _ _, .inf y => !y
  | .fin n1 m1 e1, .fin n2 m2 e2 =>
    let lo := min e1 e2
    decide (atExp n1 m1 e1 lo < atExp n2 m2 e2 lo)

/-- binary32 code of a value rounded to nearest even. -/
def toF32 (v : Val) : Nat := (convert fpF32 false v).code
/-- Value of a binary32 code. -/
def ofF32 (c : Nat) : Val := decodeFp fpF32 c
/-- binary32 sum of two codes (R21). -/
def addF32 (a b : Nat) : Nat := toF32 (addVal (ofF32 a) (ofF32 b))
/-- binary32 product of two codes (R21). -/
def mulF32 (a b : Nat) : Nat := toF32 (mulVal (ofF32 a) (ofF32 b))

/-- The order of R248: −0 below +0. -/
def ltF32 (a b : Nat) : Bool :=
  let x := ofF32 a
  let y := ofF32 b
  ltVal x y || (x.isZero && y.isZero && bit a 31 && !(bit b 31))

/-! ### Writing Microscaling blocks (R48, R49) -/

/-- emax of R48. -/
def mxEmax (fmt : Nat) : Int :=
  match fmt with
  | 0x05 => 8 | 0x06 => 15 | 0x07 => 2 | 0x08 => 4 | 0x09 => 2
  | _ => 0

/-- The largest finite binary32 value with a sign. -/
def f32Max (neg : Bool) : Val := .fin neg (2 ^ 24 - 1) 104

/-- round_elem of R48: the code of a quotient and whether it was clamped. -/
def roundElem (fmt : Nat) (v : Val) : Nat × Bool :=
  match v with
  | .fin neg m e =>
    match fpOf fmt with
    | some f =>
      let c := roundMag f m e false
      if f.maxCode < c then (signed f neg f.maxCode, true) else (signed f neg c, false)
    | none =>
      -- MXINT8: the quotient times 64, to the nearest integer, ties to even, clamped to 127
      let k := e + 6
      let n : Nat := if 0 ≤ k then m * 2 ^ k.toNat else
        let sh := (-k).toNat
        let lo := m % 2 ^ sh
        let hi := m / 2 ^ sh
        if lo > 2 ^ (sh - 1) || (lo == 2 ^ (sh - 1) && hi % 2 == 1) then hi + 1 else hi
      let r := min n 127
      (if neg && r != 0 then 256 - r else r, decide (127 < n))
  | _ => (0, false)

/-- ⌊log2⌋ of a nonzero finite value's magnitude; none for zero. -/
def valLog : Val → Option Int
  | .fin _ m e => if m = 0 then none else some ((Nat.log2 m : Int) + e)
  | _ => none

/-- A block of values written into an MX format: scale byte, element codes, clamped elements (R48). -/
def mxBlock (fmt : Nat) (sat : Bool) (v : List Val) : Nat × List Nat × Nat :=
  let bad := v.any (fun x => match x with | .nan => true | .inf _ => !sat | _ => false)
  if bad then (0xFF, v.map (fun _ => 0), 0) else
  let w := v.map (fun x => match x with | .inf n => f32Max n | y => y)
  let e : Int := match (w.filterMap valLog).foldl (fun (a : Option Int) x => match a with | none => some x | some y => some (max x y)) none with
    | none => -127
    | some t => max (-127) (min 127 (t - mxEmax fmt))
  let el := w.map (fun x => roundElem fmt (scaleVal (-e) x))
  ((e + 127).toNat, el.map Prod.fst, (el.filter Prod.snd).length)

/-! ### Status of format handling (R71) -/

/-- What a command's conversions and accesses report: clamps, saturations, overflow into NaN or infinity, NaN blocks. -/
structure Fx where
  clamp : Nat := 0
  sat : Nat := 0
  ovf : Bool := false
  mxNan : Bool := false
deriving DecidableEq, Repr

/-- Both reports. -/
def Fx.add (a b : Fx) : Fx :=
  { clamp := a.clamp + b.clamp, sat := a.sat + b.sat, ovf := a.ovf || b.ovf, mxNan := a.mxNan || b.mxNan }

/-- The report of one conversion (R46). -/
def Conv.fx (c : Conv) : Fx := { sat := b2n c.sat, ovf := c.ovf }

/-- Add n to the 48-bit clamp counter (R57, R19). -/
def bumpClamp (n : Nat) (s : State) : State :=
  let v := min (reg s Reg.COMB_CLAMP_CNT_LO + reg s Reg.COMB_CLAMP_CNT_HI % 2 ^ 16 * 2 ^ 32 + n) (2 ^ 48 - 1)
  setReg Reg.COMB_CLAMP_CNT_HI (v / 2 ^ 32) (setReg Reg.COMB_CLAMP_CNT_LO (v % 2 ^ 32) s)

/-- Count a report and set its status bits (R46, R49, R57, R71). -/
def applyFx (x : Fx) (s : State) : State :=
  let s := bump Reg.COMB_SAT_CNT x.sat (bumpClamp x.clamp s)
  raiseIf x.mxNan Reg.COMB_FMT_STAT 3 (raiseIf x.ovf Reg.COMB_FMT_STAT 2
    (raiseIf (decide (0 < x.sat)) Reg.COMB_FMT_STAT 1 (raiseIf (decide (0 < x.clamp)) Reg.COMB_FMT_STAT 0 s)))

end Sys2Proof.Machine
end

