-- ==== Sys2Proof/Machine/Operands.lean ====
section
/-! DEFINITION. Operands: tensor descriptors, their elements, spans and windows (spec/02 R50 to R60, R437; spec/12 R355), and the
writes a command makes. -/

namespace Sys2Proof.Machine

/-- A write of some bits of one byte (R58): the bits of the mask take the value's. -/
structure Wr where
  a : Addr
  mask : Nat
  v : Nat
deriving DecidableEq, Repr

/-- Whole bytes as writes. -/
def wrBytes (a : Addr) (l : List Byte) : List Wr := (withIdx 0 l).map (fun p => { a := a + p.1, mask := 0xFF, v := p.2.toNat })

/-- Make one write. -/
def putWr (w : Wr) (s : State) : State :=
  let old := (rd8 s w.a).toNat
  wr8 w.a (BitVec.ofNat 8 (Nat.lor (Nat.land old (255 - w.mask)) (Nat.land w.v w.mask))) s

/-- Make writes in order; words wholly written lose their poison (R58, R378). -/
def putAll (l : List Wr) (s : State) : State := l.foldl (fun s w => putWr w s) (healAll (l.map Wr.a) s)

/-- An access of n bytes reaches beyond its window's mapping: counted once, whoever makes it (R324). -/
def aperMiss (a : Addr) (n : Nat) (s : State) : State :=
  if decide (Config.apertureBase < a + n) && (List.range n).any (fun j => (phys s (a + j)).isNone) then
    raiseBit Reg.COMB_POOL_STAT 7 (bump Reg.COMB_APER_MISS_CNT 1 s)
  else s

/-! ### The descriptor (R53) -/

structure Desc where
  base : Addr
  fmt : Nat
  ndim : Nat
  size : List Nat
  stride : List Int
  scaleBase : Addr
  sstride : Int
  idxBase : Addr
  idxDim : Nat
  idxMode : Nat
  idxFmt : Nat
  idxStride : Int
  idxBound : Nat
  rsv : Bool
deriving DecidableEq, Repr

/-- Field of a descriptor's bytes: bits [hi:lo] of the eight bytes at i. -/
def dw (l : List Byte) (i hi lo : Nat) : Nat := bits (leAt l i 8) hi lo

/-- The descriptor 128 bytes spell (R53). -/
def parseDesc (l : List Byte) : Desc :=
  { base := dw l 0 47 0, fmt := dw l 0 55 48, ndim := dw l 0 58 56,
    size := (List.range 5).map (fun d => dw l (8 + 8 * d) 23 0),
    stride := (List.range 5).map (fun d => sext 40 (dw l (8 + 8 * d) 63 24)),
    scaleBase := dw l 48 47 0, sstride := sext 40 (dw l 56 39 0),
    idxBase := dw l 64 47 0, idxDim := dw l 64 50 48, idxMode := dw l 64 52 51, idxFmt := dw l 64 54 53,
    idxStride := sext 40 (dw l 72 39 0), idxBound := dw l 72 63 40,
    rsv := decide (dw l 0 63 59 = 0) && decide (dw l 48 63 48 = 0) && decide (dw l 56 63 40 = 0) && decide (dw l 64 63 55 = 0)
      && (l.drop 80).all (fun b => b == 0) }

/-- The 128 bytes of a descriptor without index or scales (R53). -/
def descBytes (base : Addr) (fmt : Nat) (dims : List (Nat × Nat)) : List Byte :=
  let d (i : Nat) : Nat := match dims[i]? with | some x => x.1 + x.2 * 2 ^ 24 | none => 1
  leBytes 8 (base + fmt * 2 ^ 48 + dims.length * 2 ^ 56) ++ (List.range 5).flatMap (fun i => leBytes 8 (d i)) ++ List.replicate 80 0

/-- The descriptor at an address. -/
def descAt (s : State) (a : Addr) : Desc := parseDesc (rdN s a 128)

/-- SIZE_d. -/
def Desc.sz (d : Desc) (i : Nat) : Nat := (d.size[i]?).getD 1
/-- STRIDE_d. -/
def Desc.st (d : Desc) (i : Nat) : Int := (d.stride[i]?).getD 0
/-- Number of elements. -/
def Desc.count (d : Desc) : Nat := d.sz 0 * d.sz 1 * d.sz 2 * d.sz 3 * d.sz 4
/-- Rows over dimensions 1 to 4. -/
def Desc.rows (d : Desc) : Nat := d.sz 1 * d.sz 2 * d.sz 3 * d.sz 4
/-- Element width in bits. -/
def Desc.wd (d : Desc) : Nat := fmtBits d.fmt

/-- Every rule a descriptor must meet whatever the opcode (R40, R52 to R55, R437); its address is a multiple of 128 (R53). -/
def descOk (a : Addr) (d : Desc) : Bool :=
  decide (a % 128 = 0) && d.rsv && fmtKnown d.fmt && decide (1 ≤ d.ndim) && decide (d.ndim ≤ 5)
  && (List.range 5).all (fun i => decide (i < d.ndim) || (d.sz i == 1 && d.st i == 0))
  && (fmtMx d.fmt || (d.scaleBase == 0 && d.sstride == 0))
  && (if d.idxMode = 0 then d.idxBase == 0 && d.idxDim == 0 && d.idxFmt == 0 && d.idxStride == 0 && d.idxBound == 0
      else decide (d.idxMode ≤ 2) && decide (d.idxDim < d.ndim) && decide (d.idxFmt ≤ 1) && decide (1 ≤ d.idxBound))
  && (decide (d.wd < 8) || d.base % (d.wd / 8) == 0)
  && (!fmtMx d.fmt || (d.st 0 == 1 && d.sz 0 % 32 == 0 && (d.idxMode == 0 || d.idxDim != 0)))

/-! ### Elements (R51, R54, R55, R57) -/

/-- The coordinates of the n-th element in ascending row-major order, i0 fastest (R58). -/
def Desc.coord (d : Desc) (n : Nat) : List Nat :=
  let go := (List.range 5).foldl (fun (p : Nat × List Nat) i => (p.1 / (max 1 (d.sz i)), p.2 ++ [p.1 % (max 1 (d.sz i))])) (n, [])
  go.2

/-- The byte address and width of index element j (R54). -/
def Desc.idxAddr (d : Desc) (j : Nat) : Addr :=
  let w := if d.idxFmt = 0 then 2 else 4
  ((d.idxBase : Int) + (j : Int) * d.idxStride * (w : Int)).toNat

/-- Index element j: UINT16 or INT32 (R54). -/
def idxRead (s : State) (d : Desc) (j : Nat) : Int :=
  if d.idxFmt = 0 then (rdLe s (d.idxAddr j) 2 : Nat) else sext 32 (rdLe s (d.idxAddr j) 4)

/-- A coordinate replaced by the nearest in-bounds value, and whether it was (R57). -/
def clampTo (i : Int) (bound : Nat) : Nat × Bool :=
  if i < 0 then (0, true) else if (bound : Int) - 1 < i then (bound - 1, true) else (i.toNat, false)

/-- A size is 0: the descriptor has no elements and nothing is read or written through it (R437). -/
def Desc.empty (d : Desc) : Bool := (List.range d.ndim).any (fun i => d.sz i == 0)

/-- The coordinates c_d after clamping to the sizes and indexing, and whether any was clamped (R54, R57). -/
def effCoord (s : State) (d : Desc) (i : List Nat) : List Nat × Bool :=
  (List.range 5).foldl (fun (p : List Nat × Bool) k =>
    let want := (i[k]?).getD 0
    let c1 := clampTo (want : Nat) (max 1 (d.sz k))
    if d.idxMode ≠ 0 ∧ k = d.idxDim then
      let c2 := clampTo (idxRead s d c1.1) d.idxBound
      (p.1 ++ [c2.1], p.2 || c1.2 || c2.2)
    else (p.1 ++ [c1.1], p.2 || c1.2)) ([], false)

/-- Element offset o of R54. -/
def Desc.offset (d : Desc) (c : List Nat) : Int :=
  (List.range 5).foldl (fun a k => a + (c.getD k 0 : Nat) * d.st k) 0

/-- Byte position relative to the base of element offset o, bit position in it, bytes touched (R51). -/
def elemPos (wd : Nat) (o : Int) : Int × Nat × Nat :=
  if wd = 4 then (o / 2, (o % 2).toNat * 4, 1)
  else if wd = 6 then
    let p := (o % 4).toNat
    let b := 6 * p
    (3 * (o / 4) + ((b / 8 : Nat) : Int), b % 8, (b + 5) / 8 - b / 8 + 1)
  else (o * ((wd / 8 : Nat) : Int), 0, wd / 8)

/-- Address, bit and bytes of the element at effective coordinates. -/
def Desc.place (d : Desc) (c : List Nat) : Addr × Nat × Nat :=
  let p := elemPos d.wd (d.offset c)
  (((d.base : Int) + p.1).toNat, p.2.1, p.2.2)

/-- Address of the scale byte of the element at coordinates whose effective ones are c (R55). -/
def Desc.scaleAt (d : Desc) (c : List Nat) : Addr :=
  let g (k : Nat) : Nat := c.getD k 0
  let r := g 1 + g 2 * d.sz 1 + g 3 * d.sz 1 * d.sz 2 + g 4 * d.sz 1 * d.sz 2 * d.sz 3
  ((d.scaleBase : Int) + ((g 0 / 32 : Nat) : Int) + (r : Int) * d.sstride).toNat

/-- The stored bits of the element at logical coordinates, its scale byte, and whether it was clamped. -/
def readRaw (s : State) (d : Desc) (i : List Nat) : Nat × Nat × Bool :=
  let e := effCoord s d i
  let p := d.place e.1
  ((rdLe s p.1 p.2.2 / 2 ^ p.2.1) % 2 ^ d.wd, if fmtMx d.fmt then (rdN s (d.scaleAt e.1) 1).headD 0 |>.toNat else 0, e.2)

/-- The exact value of the element at logical coordinates (R47), and whether it was clamped. -/
def readVal (s : State) (d : Desc) (i : List Nat) : Val × Bool :=
  let r := readRaw s d i
  (if fmtMx d.fmt then decodeMx d.fmt r.2.1 r.1 else decodeScalar d.fmt r.1, r.2.2)

/-- The writes of one element's code at effective coordinates. -/
def Desc.putCode (d : Desc) (c : List Nat) (code : Nat) : List Wr :=
  let p := d.place c
  let v := code % 2 ^ d.wd * 2 ^ p.2.1
  let m := (2 ^ d.wd - 1) * 2 ^ p.2.1
  (List.range p.2.2).map (fun j => { a := p.1 + j, mask := bits m (8 * j + 7) (8 * j), v := bits v (8 * j + 7) (8 * j) })

/-- The writes of a tensor given by its stored codes, in the order of R58. -/
def writeCodes (s : State) (d : Desc) (f : List Nat → Nat) : List Wr × Fx :=
  (List.range d.count).foldl (fun (p : List Wr × Fx) n =>
    let i := d.coord n
    let e := effCoord s d i
    (p.1 ++ d.putCode e.1 (f i), p.2.add { clamp := b2n e.2 })) ([], {})

/-- The writes of an MX tensor given by exact values: whole blocks of 32 along dimension 0 (R48, R67). -/
def writeBlocks (s : State) (d : Desc) (sat : Bool) (f : List Nat → Val) : List Wr × Fx :=
  (List.range (d.count / 32)).foldl (fun (p : List Wr × Fx) b =>
    let is := (List.range 32).map (fun j => d.coord (b * 32 + j))
    let es := is.map (effCoord s d)
    let blk := mxBlock d.fmt sat (is.map f)
    let ws := (es.zip blk.2.1).flatMap (fun q => d.putCode q.1.1 q.2)
    let sc := match es.head? with
      | some e => [{ a := d.scaleAt e.1, mask := 0xFF, v := blk.1 : Wr }]
      | none => []
    (p.1 ++ ws ++ sc, p.2.add { clamp := (es.filter Prod.snd).length, sat := blk.2.2, mxNan := decide (blk.1 = 0xFF) })) ([], {})

/-- The writes of a tensor given by exact values, converted by R44 to R49. -/
def writeVals (s : State) (d : Desc) (sat : Bool) (f : List Nat → Val) : List Wr × Fx :=
  if fmtMx d.fmt then writeBlocks s d sat f
  else match fpOf d.fmt with
    | none => ([], {})
    | some fp =>
      (List.range d.count).foldl (fun (p : List Wr × Fx) n =>
        let i := d.coord n
        let e := effCoord s d i
        let c := convert fp sat (f i)
        (p.1 ++ d.putCode e.1 c.code, p.2.add (c.fx.add { clamp := b2n e.2 }))) ([], {})

/-- The index element an access at logical coordinates reads, clamped to the index array's size (R54, R57). -/
def idxTouch (d : Desc) (i : List Nat) : List (Addr × Nat) :=
  if d.idxMode = 0 then [] else
  [(d.idxAddr (clampTo (i.getD d.idxDim 0 : Nat) (max 1 (d.sz d.idxDim))).1, if d.idxFmt = 0 then 2 else 4)]

/-- Every byte range a read of the element at logical coordinates touches: value, scale, index element. -/
def elemTouches (s : State) (d : Desc) (i : List Nat) : List (Addr × Nat) :=
  let e := effCoord s d i
  let p := d.place e.1
  [(p.1, p.2.2)] ++ (if fmtMx d.fmt then [(d.scaleAt e.1, 1)] else []) ++ idxTouch d i

/-- Every byte range a read of the whole tensor touches: values, scales, index elements. -/
def touches (s : State) (d : Desc) : List (Addr × Nat) := (List.range d.count).flatMap (fun n => elemTouches s d (d.coord n))

/-- A free binary32 code, the i-th of its kind (R20; log entry 2). -/
def freeF32 (s : State) (i : Nat) : Nat := leNat ((List.range 4).map (fun j => Config.freeByte s.free (4 * i + j)))

/-! ### Spans and windows (R59, R355, R437) -/

/-- Least and greatest of the sum over dimensions of coordinate times stride, coordinates from 0 to the given bounds. -/
def extent (b : List (Nat × Int)) : Int × Int :=
  b.foldl (fun p x => let t := ((x.1 : Nat) : Int) * x.2; (p.1 + min 0 t, p.2 + max 0 t)) (0, 0)

/-- The range of n bytes from a computed lowest byte on. One that reaches below address 0 lies in no window: it is given as a range past the
last address (R59, R355). -/
def spanRange (lo : Int) (n : Nat) : Addr × Nat := if lo < 0 then (Config.addrTop, n) else (lo.toNat, n)

/-- The byte ranges that a descriptor's values, index array and scales can reach; none when it is empty (R57, R437). -/
def spans (d : Desc) : List (Addr × Nat) :=
  if d.empty then [] else
  let top (k : Nat) : Nat := if d.idxMode ≠ 0 ∧ k = d.idxDim then d.idxBound - 1 else d.sz k - 1
  let x := extent ((List.range 5).map (fun k => (top k, d.st k)))
  let lo := elemPos d.wd x.1
  let hi := elemPos d.wd x.2
  let v := spanRange ((d.base : Int) + lo.1) (hi.1 + (hi.2.2 : Int) - lo.1).toNat
  let iw : Int := if d.idxFmt = 0 then 2 else 4
  let ix := extent [(d.sz d.idxDim - 1, d.idxStride * iw)]
  let sx := extent [(top 1 + top 2 * d.sz 1 + top 3 * d.sz 1 * d.sz 2 + top 4 * d.sz 1 * d.sz 2 * d.sz 3, d.sstride), (d.sz 0 / 32 - 1, 1)]
  [v] ++ (if d.idxMode = 0 then [] else [spanRange ((d.idxBase : Int) + ix.1) (ix.2 - ix.1 + iw).toNat])
    ++ (if fmtMx d.fmt then [spanRange ((d.scaleBase : Int) + sx.1) (sx.2 - sx.1 + 1).toNat] else [])

/-- One range lies inside another. -/
def inside (a n base size : Nat) : Bool := decide (base ≤ a) && decide (a + n ≤ base + size)

/-- Two ranges overlap. -/
def overlap (a n b m : Nat) : Bool := decide (0 < n) && decide (0 < m) && decide (a < b + m) && decide (b < a + n)

/-- Header of the active model (R351). -/
def modelHdr (s : State) (m : Nat) : Option (BitVec 1024) :=
  (s.models.find? (fun x => x.id == m && (x.resident || x.leaving))).map Model.hdr

/-- Bits [8i+8n-1 : 8i] of a model header. -/
def hdrAt (h : BitVec 1024) (i n : Nat) : Nat := (h.toNat / 2 ^ (8 * i)) % 2 ^ (8 * n)

/-- A region lies in one valid window of the partition, with `w` a writable one (R338). -/
def inWindow (s : State) (w : Bool) (a n : Nat) : Bool :=
  decide (n = 0) || s.part.wins.any (fun e => bit e 96 && (!w || bit e 97) && inside a n (bits e 47 0) (bits e 95 64 * 4096))

/-- A region the partition may read, or with `w` write (R355). -/
def mayReach (s : State) (w : Bool) (a n : Nat) : Bool :=
  decide (n = 0) || decide (a + n ≤ Config.addrTop) && (
  inWindow s w a n
  || inside a n (Config.stagingBase + Config.poolRegionOff) (Config.stagingSize - Config.poolRegionOff)
  || s.windows.any (fun x => inside a n (Config.apertureBase + x.id * Config.apertureWindow) (x.bufs.length * x.size))
  || (!w && (match activeModel s with
      | none => false
      | some m => match modelHdr s m with
        | none => false
        | some h => inside a n (hdrAt h 24 6) (hdrAt h 16 4))))

/-- The one range from the lowest to the highest byte of some ranges. -/
def hull : List (Addr × Nat) → Addr × Nat
  | [] => (0, 0)
  | r :: t =>
    let lo := t.foldl (fun m q => min m q.1) r.1
    (lo, t.foldl (fun m q => max m (q.1 + q.2)) (r.1 + r.2) - lo)

/-- A descriptor's span: one range over its elements, index array and scales (R59). -/
def span (d : Desc) : Addr × Nat := hull (spans d)

/-- The span lies wholly in a region that may be reached (R59, R355). -/
def spanOk (s : State) (w : Bool) (d : Desc) : Bool := mayReach s w (span d).1 (span d).2

end Sys2Proof.Machine
end

