-- ==== Sys2Proof/Machine/Wire.lean ====
section
/-! DEFINITION. Fabric packets and beacon frames as the slice builds, routes, sends, receives and checks them, and beacon barriers
(spec/07 R185 to R200, spec/09 R258 to R271, spec/12 R344, spec/14 R386, R387). -/

namespace Sys2Proof.Machine

/-! ### Packet fields (R185, R188) -/

def pTyp (p : Packet) : Nat := bits p.w0.toNat 3 0
def pEpoch (p : Packet) : Bool := bit p.w0.toNat 4
def pBe (p : Packet) : Bool := bit p.w0.toNat 5
def pMcast (p : Packet) : Nat := bits p.w0.toNat 7 6
def pMmask (p : Packet) : Nat := bits p.w0.toNat 15 8
def pDst (p : Packet) : Nat := bits p.w0.toNat 35 16
def pSrc (p : Packet) : Nat := bits p.w0.toNat 55 36
def pHops (p : Packet) : Nat := bits p.w0.toNat 61 56
def pPart (p : Packet) : Nat := bits p.w1.toNat 9 0
def pKgen (p : Packet) : Nat := bits p.w1.toNat 13 10
def pLayer (p : Packet) : Nat := bits p.w1.toNat 21 14
def pHalf (p : Packet) : Bool := bit p.w1.toNat 22
def pModel (p : Packet) : Nat := bits p.w1.toNat 26 23
def pLen (p : Packet) : Nat := bits p.w1.toNat 44 32
/-- Bits [hi:lo] of the type-specific bytes from header byte b on. -/
def pTs (p : Packet) (b hi lo : Nat) : Nat := bits (p.ts.toNat / 2 ^ (8 * (b - 16))) hi lo

/-- The type-specific bits a type defines (R188, R247); every other one is reserved. -/
def tsMask (typ sub : Nat) : Nat :=
  let at' (b hi lo : Nat) : Nat := (2 ^ (hi + 1 - lo) - 1) * 2 ^ (lo + 8 * (b - 16))
  match typ with
  | 0x1 => at' 16 63 0 + at' 24 15 0 + at' 26 7 0 + at' 28 19 0 + at' 32 31 0
  | 0x9 => at' 16 63 0 + at' 24 15 0 + at' 26 2 0
  | 0x3 => at' 16 15 0 + at' 18 3 0 + (if sub = 0 then 0 else at' 19 4 0 + at' 20 31 0 + at' 24 31 0 + at' 28 7 0)
  | 0x2 => at' 24 15 0 + at' 26 7 0 + at' 28 23 0
  | 0xA => at' 24 15 0 + at' 26 7 0 + at' 28 23 0 + at' 32 23 0
  | 0xB => at' 16 31 0 + at' 20 3 0
  | 0x5 => at' 16 28 0 + at' 20 0 0
  | 0xC => at' 16 28 0 + at' 20 1 0
  | 0x6 => at' 16 28 0
  | 0x4 => at' 16 31 0
  | _ => 0

/-- Some reserved header bit is set (R189). -/
def pReserved (p : Packet) : Bool :=
  decide (bits p.w0.toNat 63 62 ≠ 0) || decide (bits p.w1.toNat 31 27 ≠ 0) || decide (bits p.w1.toNat 63 45 ≠ 0) || decide (p.w7 ≠ 0)
  || decide (p.ts.toNat ≠ Nat.land p.ts.toNat (tsMask (pTyp p) (pTs p 18 3 0)))

/-- The bytes the CRC covers: HOPS and CRC read as zero (R186). -/
def pCrcBytes (p : Packet) : List Byte :=
  leBytes 8 (setBits p.w0.toNat 61 56 0) ++ leBytes 8 p.w1.toNat ++ leBytes 40 p.ts.toNat ++ leBytes 4 p.w7.toNat ++ leBytes 4 0 ++ p.payload

/-- The CRC matches (R186, R189). -/
def pCrcOk (p : Packet) : Bool := p.crc == crc32c (pCrcBytes p)

/-- What a new packet says of itself; the rest comes from the state. -/
structure Hd where
  typ : Nat
  dst : Nat
  be : Bool
  epoch : Bool
  layer : Nat
  half : Bool
  model : Nat
  kgen : Nat
  ts : Nat := 0
  mcast : Nat := 0
  mmask : Nat := 0
deriving DecidableEq, Repr

/-- A packet the slice builds: SRC its own DA, PART its partition, HOPS 0, its CRC (R185, R186, R200). -/
def mkPacket (s : State) (h : Hd) (payload : List Byte) : Packet :=
  let w0 := h.typ + b2n h.epoch * 2 ^ 4 + b2n h.be * 2 ^ 5 + h.mcast * 2 ^ 6 + h.mmask * 2 ^ 8 + h.dst * 2 ^ 16 + ownDa s * 2 ^ 36
  let w1 := partId s + h.kgen * 2 ^ 10 + h.layer * 2 ^ 14 + b2n h.half * 2 ^ 22 + h.model * 2 ^ 23 + payload.length * 2 ^ 32
  let p : Packet := { w0 := BitVec.ofNat 64 w0, w1 := BitVec.ofNat 64 w1, ts := BitVec.ofNat 320 h.ts, w7 := 0, crc := 0, payload := payload }
  { p with crc := crc32c (pCrcBytes p) }

/-- A type-specific field value at header byte b. -/
def tsAt (b v : Nat) : Nat := v * 2 ^ (8 * (b - 16))

/-! ### Routing (R191, R192, R387) -/

/-- The version that an EPOCH bit names. -/
def verOf (s : State) (e : Bool) : Version := if e then s.verB else s.verA

/-- An entry of a version's routing table; the alternate table follows at entry 544 (R192, R387). -/
def rtEntry (v : Version) (i : Nat) : Nat := cellGet (fun _ => 0) v.rt i

/-- Die i of the own package is a hole (R386). -/
def hole (s : State) (i : Nat) : Bool := bit (reg s Reg.REL_HOLE_LO + reg s Reg.REL_HOLE_HI * 2 ^ 32) i

/-- The dies entered from x towards a target x on row y (after the first). -/
def walkX (y : Nat) : Nat → Nat → Nat → List Nat
  | 0, _, _ => []
  | n + 1, x, tx => if x = tx then [] else
      let x' := if x < tx then x + 1 else x - 1
      (y * 8 + x') :: walkX y n x' tx

/-- The dies entered from y towards a target y on column x. -/
def walkY (x : Nat) : Nat → Nat → Nat → List Nat
  | 0, _, _ => []
  | n + 1, y, ty => if y = ty then [] else
      let y' := if y < ty then y + 1 else y - 1
      (y' * 8 + x) :: walkY x n y' ty

/-- The mesh port from the own die towards a die of the package, around holes; none where both orders enter one (R191, R387). -/
def meshPort (s : State) (t : Nat) : Option Nat :=
  let o := ownDa s % 64
  let x := o % 8
  let y := o / 8
  let tx := t % 8
  let ty := t / 8
  if o = t then some 6 else
  let xy := walkX y 8 x tx ++ walkY tx 8 y ty
  let yx := walkY x 8 y ty ++ walkX ty 8 x tx
  let px := if x < tx then 0 else 1
  let py := if y < ty then 2 else 3
  if !(xy.any (hole s)) then some (if x ≠ tx then px else py)
  else if !(yx.any (hole s)) then some (if y ≠ ty then py else px)
  else none

/-- The port a packet leaves by, under the table of its own EPOCH; none where it has no route (R191, R192, R213, R387). -/
def route (s : State) (p : Packet) : Option Nat :=
  let d := pDst p
  let o := ownDa s
  if d / 64 = o / 64 then meshPort s (d % 64) else
  let i := if bits d 16 15 = bits o 16 15 then bits d 14 11 * 32 + bits d 10 6 else 512 + bits d 16 15
  let v := verOf s (pEpoch p)
  let e0 := rtEntry v i
  if !(bit e0 7) then none else
  let alt := hole s (bits e0 5 0)
  let e := if alt then rtEntry v (544 + i) else e0
  if alt && (!(bit e 7) || hole s (bits e 5 0)) then none
  else if bits e 5 0 = o % 64 then some (if bit e 6 then 5 else 4)
  else meshPort s (bits e 5 0)

/-! ### Injection (R36, R199, R344, R345) -/

/-- The types a bucket admits at once and charges: FETCH_RD, CTRL, LL_REQ, LL_WB, ACK, LL_GRANT (R344). -/
def bucketExempt (typ : Nat) : Bool := typ == 2 || typ == 4 || typ == 5 || typ == 6 || typ == 11 || typ == 12

/-- Multicast is allowed on a type: FETCH_CPL, COUNT with SUB ≠ 0, CTRL (R199). -/
def mcastAllowed (p : Packet) : Bool := pTyp p == 10 || (pTyp p == 3 && pTs p 18 3 0 != 0) || pTyp p == 4

/-- RATE of a regulator (R344). -/
def bucketRate (s : State) (r : Nat) : Nat := fld s r 15 0

/-- A packet takes its KGEN, and the CRC over it, as it is built in the CORE to FAB queue (R186, R200). -/
def fabBuild (s : State) (p : Packet) : Packet :=
  if pPart p ≠ partId s || pKgen p = kgen s then p else
  let q : Packet := { p with w1 := BitVec.ofNat 64 (setBits p.w1.toNat 13 10 (kgen s)) }
  { q with crc := crc32c (pCrcBytes q) }

/-- Packets that wait for room are built in the CORE to FAB queue of a network while it holds fewer than two; n bounds them (R36, R200). -/
def fabPull (rsp : Bool) : Nat → State → State
  | 0, s => s
  | n + 1, s =>
    if 2 ≤ (s.fabQ.filter (fun q => q.1 == rsp)).length then s else
    match s.injQ.find? (fun q => q.1 == rsp) with
    | none => s
    | some q => fabPull rsp n { s with injQ := dropFirst (fun x => x == q) s.injQ, fabQ := s.fabQ ++ [(rsp, fabBuild s q.2)] }

/-- Admit a packet: charge it and put it into the CORE to FAB queue, or behind those that wait for room there (R36, R344). -/
def admitPkt (p : Packet) (s : State) : State :=
  let charge : Int := if bucketRate s Reg.PART_REG_FAB = 0 then 0 else 16 * ((64 + pLen p : Nat) : Int)
  let rsp := bit (pTyp p) 3
  fabPull rsp 1 { s with fab := { s.fab with tk := s.fab.tk - charge }, injQ := s.injQ ++ [(rsp, p)] }

/-- Inject a packet of the slice's own: refused without a route, waiting where the bucket meters it (R192, R344, R385). -/
def inject (p : Packet) (s : State) : State :=
  if fenced s then s else
  match route s p with
  | none => raiseBit Reg.XCHG_FAB_STAT 7 (bump Reg.XCHG_FAB_DROP_CNT 1 s)
  | some _ =>
    if bucketRate s Reg.PART_REG_FAB = 0 || bucketExempt (pTyp p) then admitPkt p s
    else if bit (pTyp p) 3 then { s with fab := { s.fab with rsp := s.fab.rsp ++ [p] } }
    else { s with fab := { s.fab with req := s.fab.req ++ [p] } }

/-- Inject packets in order. -/
def injectAll (l : List Packet) (s : State) : State := l.foldl (fun s p => inject p s) s

/-- The first LC item of a list, or its first item (R344: the head is chosen LC first). -/
def lcFirst (l : List Packet) : Option Packet :=
  match l.find? (fun p => !pBe p) with
  | some p => some p
  | none => l.head?

/-- A queued packet leaves by its port, counted as injected (R222). -/
def fabSend (q : Bool × Packet) (s : State) : State :=
  let s := bump64 Reg.XCHG_TX_PKT_LO 1 s
  match route s q.2 with
  | some port => emit (.packet q.1 port q.2) s
  | none => raiseBit Reg.XCHG_FAB_STAT 7 (bump Reg.XCHG_FAB_DROP_CNT 1 s)

/-- The next packet of one network wins arbitration, LC first. The queue is one input of the fabric, so that its packets are no rivals of each other
(R194, R362). -/
def fabDrain (rsp : Bool) (s : State) : State :=
  match lcFirst ((s.fabQ.filter (fun q => q.1 == rsp)).map Prod.snd) with
  | none => s
  | some p =>
    fabPull rsp 1 (fabSend (rsp, p) { s with fabQ := dropFirst (fun q => q.1 == rsp && q.2 == p) s.fabQ })

/-- LC packets of the slice's own that wait for an output leave before a BE packet passes through it; n bounds them (R194, R341). -/
def lcAhead (rsp : Bool) (port : Nat) : Nat → State → State
  | 0, s => s
  | n + 1, s =>
    match s.fabQ.find? (fun q => q.1 == rsp && !(pBe q.2) && route s q.2 == some port) with
    | none => s
    | some q => lcAhead rsp port n (fabPull rsp 1 (fabSend q { s with fabQ := dropFirst (fun x => x == q) s.fabQ }))

/-- Withdraw every packet of the CORE to FAB queues that is not kept, counted. Those that wait for admission or for room there are not built yet: what
`wait` does not keep of them goes uncounted (R200, R344, R386). -/
def withdraw (keep wait : Packet → Bool) (s : State) : State :=
  let n := (s.fabQ.filter (fun q => !keep q.2)).length
  let s := { s with fabQ := s.fabQ.filter (fun q => keep q.2), injQ := s.injQ.filter (fun q => wait q.2),
                    fab := { s.fab with req := s.fab.req.filter wait, rsp := s.fab.rsp.filter wait } }
  let s := fabPull true 2 (fabPull false 2 s)
  raiseIf (decide (0 < n)) Reg.XCHG_FAB_STAT 9 (bump Reg.XCHG_FAB_WDRAW_CNT n s)

/-! ### Ejection (R189, R354, R386) -/

/-- A DA in the fence list, or fenced while the list was full (R386). -/
def isFenced (s : State) (d : Nat) : Bool :=
  s.fencedMore.contains d || (List.range 16).any (fun i => let r := reg s (Reg.REL_FENCE i); bit r 31 && bits r 19 0 == d)

/-- A member of the partition by the member map (R337). -/
def isMember (s : State) (d : Nat) : Bool := s.part.members.contains d

/-- The slice holds the version (R215). -/
def verHeld (s : State) (e : Bool) : Bool := e == curEpoch s || ((dual s || prep s) && (verOf s e).held)

/-- One discard at ejection. -/
def discard (ctr stat b : Nat) (s : State) : State := raiseBit stat b (bump ctr 1 s)

/-- An output's arbitration between a packet that came in for it and the slice's own: own LC packets that wait for it go before a BE one, and an own
packet that waits there makes it a choice (R194, R341, R362). -/
def outputTurn (rsp : Bool) (port : Nat) (q : Packet) (contended : Bool) (s : State) : State :=
  let s := if contended || s.fabQ.any (fun x => x.1 == rsp && route s x.2 == some port) then tdc 1 s else s
  if pBe q then lcAhead rsp port 2 s else s

/-- A packet that came in leaves by a mesh or package port. -/
def passOn (port : Nat) (q : Packet) (contended : Bool) (s : State) : State :=
  let rsp := bit (pTyp q) 3
  emit (.packet rsp port q) (outputTurn rsp port q contended s)

/-- The die beyond a mesh port is a hole (R387). -/
def holeBeyond (s : State) (port : Nat) : Bool :=
  let o := ownDa s % 64
  hole s (match port with | 0 => o + 1 | 1 => o - 1 | 2 => o + 8 | _ => o - 8)

/-- A multicast copy leaves along its row or column; into a hole it is discarded where it is: a copy has one path only (R198, R387). -/
def passCopy (port : Nat) (q : Packet) (contended : Bool) (s : State) : State :=
  if holeBeyond s port then discard Reg.XCHG_FAB_DROP_CNT Reg.XCHG_FAB_STAT 7 (if contended then tdc 1 s else s) else passOn port q contended s

/-- What a packet delivered at a marked die, or at its anchor, sends on along the row or the column (R198); at the hop limit it goes no further
(R191). -/
def mcastCopies (p : Packet) (s : State) : State :=
  let o := ownDa s
  let a := pDst p
  let row := pMcast p == 1
  let posOf (d : Nat) : Nat := if row then d % 8 else d / 8 % 8
  let me := posOf o
  let an := posOf a
  let up := (List.range 8).any (fun i => decide (me < i) && bit (pMmask p) i)
  let dn := (List.range 8).any (fun i => decide (i < me) && bit (pMmask p) i)
  let q : Packet := { p with w0 := BitVec.ofNat 64 (setBits p.w0.toNat 61 56 (pHops p + 1)) }
  let copy (yes : Bool) (port : Nat) (s : State) : State :=
    if !yes then s else if pHops p = 63 then discard Reg.XCHG_FAB_DROP_CNT Reg.XCHG_FAB_STAT 3 s else passCopy port q false s
  copy (dn && decide (me ≤ an)) (if row then 1 else 3) (copy (up && decide (an ≤ me)) (if row then 0 else 2) s)

/-- A packet at the head of its ejection queue: the fence discard, the six checks in order, the member check, then its type's handling. -/
def atHead (rsp : Bool) (p : Packet) (k : State → State) (s : State) : State :=
  let tagged := pTyp p == 1 || pTyp p == 9
  if isFenced s (pSrc p) || (tagged && isFenced s (pTs p 16 19 0)) then bump Reg.REL_FENCE_DROP_CNT 1 s
  else if !(pCrcOk p) then discard Reg.XCHG_FAB_CRC_CNT Reg.XCHG_FAB_STAT 0 s
  else if !([1, 2, 3, 4, 5, 6, 9, 10, 11, 12].contains (pTyp p)) || bit (pTyp p) 3 != rsp then
    discard Reg.XCHG_FAB_DROP_CNT Reg.XCHG_FAB_STAT 2 s
  else if pMcast p == 3 || (pMcast p != 0 && (!(mcastAllowed p) ||
      !(bit (pMmask p) (if pMcast p = 1 then pDst p % 8 else pDst p / 8 % 8)))) then
    discard Reg.XCHG_FAB_DROP_CNT Reg.XCHG_FAB_STAT 8 s
  else if !(assigned s) || pPart p != partId s then discard Reg.XCHG_FAB_DROP_CNT Reg.XCHG_FAB_STAT 4 s
  else if !(verHeld s (pEpoch p)) then discard Reg.XCHG_FAB_DROP_CNT Reg.XCHG_FAB_STAT 5 s
  else if pKgen p != kgen s then
    let s := discard Reg.XCHG_FAB_STALE_CNT Reg.XCHG_FAB_STAT 6 s
    if pTyp p == 3 && pTs p 18 3 0 == 0 then raiseBit Reg.SORT_CNT_STAT 0 (bump Reg.SORT_CNT_DISCARD (pTs p 16 15 0) s) else s
  else
    let s := raiseIf (pReserved p) Reg.XCHG_FAB_STAT 1 s
    if (pTyp p == 4 || pTyp p == 5 || pTyp p == 6 || pTyp p == 3 || pTyp p == 2) && !(isMember s (pSrc p)) then
      discard Reg.PART_ISO_DROP_CNT Reg.PART_STAT 2 s
    else k s

/-- The multicast copies of a packet that came in are sent on (R198). -/
def copied (p : Packet) (s : State) : State := if pMcast p = 1 || pMcast p = 2 then mcastCopies p s else s

/-- The ejection queue of a network gives no credit: that of REQ when it holds two packets, when others wait before it, and while CRED_HOLD = 1 (R36,
R193, R369). -/
def noCredit (rsp : Bool) (s : State) : Bool :=
  !rsp && (flag s Reg.PART_CAP_STAT 3 || !s.inQ.isEmpty || decide (2 ≤ s.ejectQ.length))

/-- A packet wins the ejection port and is counted. -/
def won (rsp : Bool) (p : Packet) (s : State) : State := bump64 Reg.XCHG_RX_PKT_LO 1 (outputTurn rsp 6 p false s)

/-- A packet is ejected at this die: sent on where it is a multicast, counted, and taken at the head of its queue; a REQ packet waits behind one
that waits for room in the hold area, and at its input while the queue gives no credit (R36, R189, R198, R251, R369). The copies leave before the
packet meets its own checks, so that one which this die discards is copied on all the same: the spec does not order the two (DESIGN CHOICE, log
entry 39). -/
def eject (rsp : Bool) (p : Packet) (k : State → State) (s : State) : State :=
  if !(takesPackets s) then s else
  let s := copied p s
  if fenced s then s else
  if noCredit rsp s then { s with inQ := s.inQ ++ [p] } else
  let s := won rsp p s
  if !rsp && !s.ejectQ.isEmpty then { s with ejectQ := s.ejectQ ++ [p] } else atHead rsp p k s

/-- A tag agrees with its packet's header: bits [63:60] zero, KGEN, PART, LAYER and HALF equal (R190). -/
def tagAgrees (p : Packet) : Bool :=
  let t := pTs p 16 63 0
  bits t 63 60 == 0 && bits t 49 46 == pKgen p && bits t 59 50 == pPart p && bits t 44 37 == pLayer p && bit t 45 == pHalf p

/-! ### Acknowledgements (R196) -/

/-- Send the ACK of a pending count. -/
def sendAck (a : AckPend) (s : State) : State :=
  let h : Hd := { typ := 11, dst := a.src, be := a.be, epoch := a.epoch, layer := a.layer, half := a.half, model := 0,
                  kgen := a.kgen, ts := tsAt 16 a.n + tsAt 20 a.typ }
  inject (mkPacket s h []) s

/-- Count an accepted packet; an ACK leaves at 64, or at once for COUNT, CTRL and LL_WB. -/
def ackAccept (p : Packet) (s : State) : State :=
  let same (a : AckPend) : Bool := a.src == pSrc p && a.typ == pTyp p && a.layer == pLayer p && a.half == pHalf p
  let n := match s.acks.find? same with | some a => a.n + 1 | none => 1
  let a : AckPend := { src := pSrc p, typ := pTyp p, layer := pLayer p, half := pHalf p, n := n, kgen := pKgen p, be := pBe p, epoch := pEpoch p }
  let rest := s.acks.filter (fun x => !same x)
  if n = 64 || pTyp p != 1 then sendAck a { s with acks := rest } else { s with acks := rest ++ [a] }

/-! ### Beacon frames (R258 to R264) -/

def fCls (f : Frame) : Nat := bits f.head.toNat 1 0
def fPld (f : Frame) : Bool := bit f.head.toNat 2
def fSeq (f : Frame) : Bool := bit f.head.toNat 3
def fTyp (f : Frame) : Nat := bits f.head.toNat 9 4
def fDir (f : Frame) : Bool := bit f.head.toNat 10
def fGroup (f : Frame) : Nat := bits f.head.toNat 21 11
def fKgen (f : Frame) : Nat := bits f.head.toNat 25 22
def fArg (f : Frame) (hi lo : Nat) : Nat := bits (f.head.toNat / 2 ^ 26) hi lo
def fOp (f : Frame) : Nat := bits f.head.toNat 29 26
def fLanes (f : Frame) : Bool := bit f.head.toNat 30
def fCount (f : Frame) : Nat := bits f.head.toNat 49 32
def fTag (f : Frame) : Nat := bits f.head.toNat 63 50
/-- The payload word; zero without one. -/
def fPay (f : Frame) : W64 := if fPld f then f.pay else 0

/-- The bytes the beacon CRC covers (R259). -/
def fBytes (f : Frame) : List Byte := leBytes 8 f.head.toNat ++ (if fPld f then leBytes 8 f.pay.toNat else [])

/-- The head word of a frame that is no SYNC frame, its SEQ zero (R260). -/
def headOf (cls typ : Nat) (pld dir : Bool) (group kg arg : Nat) : Nat :=
  cls + b2n pld * 2 ^ 2 + typ * 2 ^ 4 + b2n dir * 2 ^ 10 + group * 2 ^ 11 + kg * 2 ^ 22 + arg * 2 ^ 26

/-- The link's state; as after reset where none is listed. -/
def linkAt (s : State) (l : Nat) : Link := match s.links.find? (fun e => e.1 == l) with | some e => e.2 | none => linkReset

/-- Replace a link's state. -/
def setLink (l : Nat) (x : Link) (s : State) : State := { s with links := insertBy (fun a b => decide (a.1 ≤ b.1)) (l, x) (s.links.filter (fun e => e.1 != l)) }

/-- The link is failed (R263). -/
def linkFailed (s : State) (l : Nat) : Bool := flag s Reg.XCHG_BCN_LINK (16 + l)
/-- A partner answers on the link (R277). -/
def linkUp (s : State) (l : Nat) : Bool := flag s Reg.XCHG_BCN_LINK l && !linkFailed s l

/-- The beacon transmitters run: clocked, from phase C on, not dark (R400, R406, R409). -/
def bcnTx (s : State) : Bool := s.powered && !s.power.clkStopped && decide (2 ≤ fld s Reg.REL_PWR_STAT 4 3) && decide (pwrState s ≠ 2)

/-- The DARK sideband the slice drives on every link: in phases A and B and in DARK (R258, R264, R400; log entry 59). -/
def darkOut (s : State) : Bool := s.powered && (decide (pwrState s = 2) || decide (fld s Reg.REL_PWR_STAT 4 3 < 2))

/-- A beat with a CODE: 0 IDLE, 1 START, 2 CONT, 3 END (R258). -/
def beatOf (s : State) (code data : Nat) : Beat := BitVec.ofNat 38 (data % 2 ^ 32 + code * 2 ^ 32 + b2n (darkOut s) * 2 ^ 34)

/-- The beats a frame is sent as: START and CONT with the head word, two CONT with the payload word, END with the CRC in bits [15:0] (R258). -/
def frameBeats (s : State) (f : Frame) : List Beat :=
  [beatOf s 1 f.head.toNat, beatOf s 2 (f.head.toNat / 2 ^ 32)]
    ++ (if fPld f then [beatOf s 2 f.pay.toNat, beatOf s 2 (f.pay.toNat / 2 ^ 32)] else []) ++ [beatOf s 3 f.crc.toNat]

/-- The reverse beat that acknowledges a frame of a class, shown as an IDLE one (R258, R263; log entry 109). -/
def ackBeat (s : State) (cls : Nat) : Beat := BitVec.ofNat 38 ((beatOf s 0 0).toNat + 2 ^ 35 + cls % 4 * 2 ^ 36)

/-- Send the next waiting frame of a class on a link when none of that class is unacknowledged and no DARK holds it (R262 to R264). -/
def pumpClass (l cls : Nat) (s : State) : State :=
  let k := linkAt s l
  if k.tx.any (fun t => t.cls == cls && t.sent) || linkFailed s l then s else
  match k.tx.find? (fun t => t.cls == cls) with
  | none => s
  | some t =>
    if k.dark && cls != 0 && cls != 2 then raiseBit Reg.XCHG_BCN_STAT 9 s else
    let was := k.seqTx.contains cls
    let h := setBits t.frame.head.toNat 3 3 (b2n (!was))
    let f : Frame := { t.frame with head := BitVec.ofNat 64 h }
    let f : Frame := { f with crc := crc16 (fBytes f) }
    let tx := modFirst (fun t => t.cls == cls) (fun t => { t with frame := f, sent := true }) k.tx
    emit (.frame l (frameBeats s f)) (setLink l { k with tx := tx, seqTx := if was then k.seqTx.filter (· != cls) else cls :: k.seqTx } s)

/-- Queue a frame for a link and send what may go (R262, R263). -/
def sendFrame (l cls head : Nat) (pay : Option W64) (s : State) : State :=
  if !(bcnTx s) then s else
  let f : Frame := { head := BitVec.ofNat 64 head, pay := pay.getD 0, crc := 0, whole := true }
  let k := linkAt s l
  pumpClass l cls (setLink l { k with tx := k.tx ++ [{ cls := cls, frame := f, sent := false, resends := 0 }] } s)

/-- The register of the tree in use (R265, R277). -/
def treeReg (s : State) : Nat := reg s (Reg.XCHG_BCN_TREE (fld s Reg.XCHG_BCN_ELECT 1 0))
/-- The slice is the root seat of the tree in use. -/
def isTop (s : State) : Bool := bit (treeReg s) 9
/-- The link towards the parent: the spare once the parent link has failed; none at the root seat (R265). -/
def upLink (s : State) : Option Nat :=
  let t := treeReg s
  if bit t 9 then none
  else if linkFailed s (bits t 3 0) && bit t 8 then some (bits t 7 4) else some (bits t 3 0)
/-- The child links of the tree in use. -/
def childLinks (s : State) : List Nat := (List.range 16).filter (fun l => bit (treeReg s) (16 + l))

/-- Send a frame up (R268, R271). -/
def sendUp (cls head : Nat) (pay : Option W64) (s : State) : State :=
  match upLink s with
  | none => s
  | some l => sendFrame l cls head pay s
/-- Send a frame down every child link. -/
def sendDown (cls head : Nat) (pay : Option W64) (s : State) : State := (childLinks s).foldl (fun s l => sendFrame l cls head pay s) s
/-- Send a frame on every link that is up, but one. -/
def sendAll (but cls head : Nat) (pay : Option W64) (s : State) : State :=
  ((List.range 16).filter (fun l => linkUp s l && l != but)).foldl (fun s l => sendFrame l cls head pay s) s

/-- Send a frame on every link, but one (R275). -/
def sendEvery (but cls head : Nat) (pay : Option W64) (s : State) : State :=
  ((List.range 16).filter (fun l => l != but)).foldl (fun s l => sendFrame l cls head pay s) s

/-- Discard a frame as stale (R261, R268, R271). -/
def staleFrame (s : State) : State := raiseBit Reg.XCHG_BCN_STAT 6 (bump Reg.XCHG_BCN_STALE_CNT 1 s)

/-- Acknowledge a frame of a class (R263). -/
def ackFrame (l cls : Nat) (s : State) : State := emit (.linkAck l (ackBeat s cls)) (setFld Reg.XCHG_BCN_LINK l l 1 s)

/-- A frame arrives on a link: truncation, CRC, alternating bit, acknowledgement, then its handling; `early` frames are handled before the
slice is ready, every other one is stale then; in DARK only WAKE and FOGHORN are received (R259, R262 to R264, R400).
A frame is received as one event, with the outcome of its beats (R258; log entry 109). -/
def recvFrame (l : Nat) (f : Frame) (early : Bool) (k : State → State) (s : State) : State :=
  let c := fCls f
  let wakes := c == 0 || c == 2
  if !s.powered || s.power.clkStopped then s
  else if (decide (pwrState s = 2) || decide (fld s Reg.REL_PWR_STAT 4 3 < 2)) && !wakes then s
  else if !f.whole then raiseBit Reg.XCHG_BCN_STAT 1 (bump Reg.XCHG_BCN_TRUNC_CNT 1 s)
  else if f.crc != crc16 (fBytes f) then raiseBit Reg.XCHG_BCN_STAT 0 (bump Reg.XCHG_BCN_CRC_CNT 1 s)
  else
    let x := linkAt s l
    let q := b2n (fSeq f)
    let s := ackFrame l c s
    if x.seqRx.any (fun e => e.1 == c && e.2 == q) then s else
    let s := setLink l { x with up := true, seqRx := (c, q) :: x.seqRx.filter (fun e => e.1 != c) } s
    if !(ready s) && !early then staleFrame s else sameCycle k s

/-! ### Barriers and beacon reductions (R267 to R271) -/

/-- One lane of two values combined by an OP of R248. -/
def combineOp (op a b : Nat) : Nat :=
  match op with
  | 0 => (a + b) % 2 ^ 32
  | 1 => if sext 32 b < sext 32 a then b else a
  | 2 => if sext 32 a < sext 32 b then b else a
  | 3 => Nat.land a b
  | 4 => Nat.lor a b
  | 5 => addF32 a b
  | 6 => if (ofF32 a).isNan || (ofF32 b).isNan then fpF32.nanCode else if ltF32 b a then b else a
  | 7 => if (ofF32 a).isNan || (ofF32 b).isNan then fpF32.nanCode else if ltF32 a b then b else a
  | _ => 0

/-- A value of an OP of R248 as it is written: a NaN is the canonical one (R42, R248). -/
def canonCode (op a : Nat) : Nat := if (op = 5 ∨ op = 6 ∨ op = 7) ∧ (ofF32 a).isNan then fpF32.nanCode else a

/-- The lanes of a lone contribution. -/
def canonLanes (op : Nat) (v : W64) : W64 :=
  BitVec.ofNat 64 (canonCode op (v.toNat % 2 ^ 32) + canonCode op (v.toNat / 2 ^ 32) * 2 ^ 32)

/-- Two lanes combined; the second only with LANES. -/
def combineLanes (op : Nat) (lanes : Bool) (a b : W64) : W64 :=
  let lo := combineOp op (a.toNat % 2 ^ 32) (b.toNat % 2 ^ 32)
  let hi := if lanes then combineOp op (a.toNat / 2 ^ 32) (b.toNat / 2 ^ 32) else 0
  BitVec.ofNat 64 (lo + hi * 2 ^ 32)

/-- The combined OP, LANES and value of an instance: own value first, then children in ascending DA; OP 14 and zero lanes on a mismatch (R269). -/
def combineIns (ins : List Contrib) : Nat × Bool × W64 :=
  let l := sortBy (fun (a b : Contrib) => if a.link == 16 then true else if b.link == 16 then false else decide (a.da ≤ b.da)) ins
  match l with
  | [] => (15, false, 0)
  | c :: t =>
    if (c :: t).any (fun x => x.op == 14 || x.op != c.op || x.lanes != c.lanes) then (14, false, 0)
    else if c.op = 15 then (15, c.lanes, 0)
    else (c.op, c.lanes, t.foldl (fun v x => combineLanes c.op c.lanes v x.pay) (canonLanes c.op c.pay))

/-- The head word of a SYNC frame (R260). -/
def syncHead (typ : Nat) (dir : Bool) (id : BarId) (op : Nat) (lanes : Bool) (count : Nat) : Nat :=
  1 + b2n (op != 15) * 2 ^ 2 + typ * 2 ^ 4 + b2n dir * 2 ^ 10 + id.group * 2 ^ 11 + id.kgen * 2 ^ 22 + op * 2 ^ 26 + b2n lanes * 2 ^ 30
    + count * 2 ^ 32 + id.tag * 2 ^ 50

/-- The group-table entry (R268); a group not listed has SUBTREE 0. -/
def groupAt (s : State) (g : Nat) : Group :=
  match s.groups.find? (fun x => x.id == g) with
  | some x => x
  | none => { id := g, subtree := 0, apex := false, member := false, kgen := 0 }

/-- Payload word of a frame of an OP. -/
def syncPay (op : Nat) (v : W64) : Option W64 := if op = 15 then none else some v

/-- The step and the half that a capture record of a frame names: those of a RELEASE of a step's barrier by its tag (R267), else the newest accepted step
(R365; log entry 25). -/
def beaconStep (head : Nat) (s : State) : Nat × Bool :=
  let tag := bits head 63 50
  let isIt (x : Step) : Bool := x.phase != .accepted && x.seq.toNat % 4 == bits tag 13 12 && x.layer == bits tag 11 4
  let newest := (s.nextSeq - 1).toNat
  if bits head 1 0 = 1 ∧ bits head 9 4 = 2 ∧ bits head 21 11 = partId s ∧ 1 ≤ tag % 8 ∧ tag % 8 ≤ 3 then
    match s.steps.find? isIt with
    | some x => (x.seq.toNat, bit tag 3)
    | none => (newest, false)
  else (newest, false)

/-- The BEACON record of a frame (R366), or its comparison in replay for a RELEASE delivered locally (R372). -/
def capBeacon (head : Nat) (pay : W64) (s : State) : State :=
  let b := leBytes 8 head ++ leBytes 8 pay.toNat
  let q := beaconStep head s
  if capMode s = 1 then capWrite 9 0 q.2 q.1 b s
  else if capMode s = 2 && bits head 1 0 = 1 then repCompare { typ := 9, payload := b, n := 16, value := 0 } s
  else s

/-- A RELEASE that represents `cnt` members goes down the links the JOINs came from, and to the member itself, which records its copy (R268,
R366). -/
def releaseInst (rel : BarId → Nat → W64 → State → State) (i : Inst) (op : Nat) (lanes : Bool) (cnt : Nat) (v : W64) (s : State) : State :=
  let s := { s with insts := s.insts.filter (fun x => x.id != i.id) }
  let down := (i.ins.filter (fun c => c.link != 16)).map Contrib.link
  let s := down.foldl (fun s l => sendFrame l 1 (syncHead 2 true i.id op lanes cnt) (syncPay op v) s) s
  if (groupAt s i.id.group).member then sameCycle (fun s => rel i.id op v (capBeacon (syncHead 2 true i.id op lanes cnt) v s)) s else s

/-- Judge an instance: at SUBTREE the apex releases it, any other slice sends one JOIN up (R268). -/
def judgeInst (rel : BarId → Nat → W64 → State → State) (id : BarId) (s : State) : State :=
  match s.insts.find? (fun x => x.id == id) with
  | none => s
  | some i =>
    let g := groupAt s id.group
    if i.up || i.tally < g.subtree then s else
    let v := combineIns i.ins
    if g.apex then releaseInst rel i v.1 v.2.1 i.tally v.2.2 s
    else sendUp 1 (syncHead 1 false id v.1 v.2.1 g.subtree) (syncPay v.1 v.2.2)
      { s with insts := modFirst (fun x => x.id == id) (fun x => { x with up := true }) s.insts }

/-- Add a contribution to an instance, opening it if it is not open, and judge it (R268). -/
def joinInst (rel : BarId → Nat → W64 → State → State) (id : BarId) (c : Contrib) (s : State) : State :=
  let s := if s.insts.any (fun x => x.id == id) then s else { s with insts := s.insts ++ [{ id := id, tally := 0, ins := [], up := false }] }
  let s := { s with insts := modFirst (fun x => x.id == id) (fun x => { x with tally := x.tally + c.count, ins := x.ins ++ [c] }) s.insts }
  judgeInst rel id s

/-- The local join of a member (R268). -/
def joinLocal (rel : BarId → Nat → W64 → State → State) (id : BarId) (op : Nat) (lanes : Bool) (v : W64) (s : State) : State :=
  joinInst rel id { link := 16, da := ownDa s, op := op, lanes := lanes, count := 1, pay := v } s

/-- The Keeper writes the group table: its partition's entry from the member map, fenced members left out, the pod, the system, and the partitions
that only pass through the slice, which keep the generation they hold (R268, R271, R340, R386; log entry 8). -/
def writeGroups (s : State) : State :=
  let tree := fld s Reg.XCHG_BCN_ELECT 1 0
  let kids := !(childLinks s).isEmpty
  let nf := ((List.range 16).filter (fun i => flag s (Reg.REL_FENCE i) 31)).length
  let below (g : Nat) : Nat := if kids then Config.subtreeBelow tree g nf else 0
  let live := s.part.members.filter (fun d => !isFenced s d)
  let me := assigned s && live.contains (ownDa s)
  let own : Group := { id := partId s, subtree := b2n me + below (partId s), member := me, kgen := kgen s,
                       apex := if kids then Config.apexOf tree (partId s) else live.all (fun d => d == ownDa s) }
  let podG : Group := { id := 1024, subtree := 1 + below 1024, member := true, kgen := 0, apex := isTop s }
  let sysG : Group := { id := 1025, subtree := 1 + below 1025, member := true, kgen := 0, apex := isTop s && (if kids then Config.apexOf tree 1025 else true) }
  let keep := s.groups.filter (fun g => g.id != 1024 && g.id != 1025 && !(assigned s && g.id == partId s))
  let others : List Group := if kids then
      ((Config.transitGroups tree nf).filter (fun e => decide (e.1 < 1024) && !(assigned s && e.1 == partId s))).map (fun e =>
        { id := e.1, subtree := e.2.1, apex := e.2.2.1, member := false, kgen := match s.groups.find? (fun g => g.id == e.1) with
                                                                                | some g => g.kgen
                                                                                | none => e.2.2.2 % 16 })
    else []
  { s with groups := (if assigned s then [own] else []) ++ [podG, sysG] ++ others ++ keep.filter (fun g => !(others.any (fun o => o.id == g.id))) }

end Sys2Proof.Machine
end

