-- ==== Sys2Proof/Machine/Port.lean ====
section
/-! DEFINITION. The die memory port: its metering, the tags of its reads, and the accesses that the Keeper makes through it (spec/11 R324; spec/12
R344; spec/14 R381, R382). -/

namespace Sys2Proof.Machine

/-! ### Metering (R344) -/

/-- Charge n bytes of die-memory requests to the MEM bucket, where it meters (R344). -/
def chargeMem (n : Nat) (s : State) : State :=
  if bucketRate s Reg.PART_REG_MEM = 0 then s else { s with memb := { s.memb with tk := s.memb.tk - 16 * (n : Int) } }

/-- The bytes of die memory among addresses. -/
def dieCells (s : State) (l : List Addr) : Nat := (((l.filterMap (phys s)).filter (fun p => !(inStaging p))).dedup).length

/-- The die-memory bytes of n bytes from an address on. -/
def dieRange (s : State) (a : Addr) (n : Nat) : Nat := dieCells s ((List.range n).map (a + ·))

/-- The die-memory bytes among ranges: bytes outside staging. -/
def dieBytes (s : State) (l : List (Addr × Nat)) : Nat :=
  (l.map (fun r => match phys s r.1 with
    | none => 0
    | some p => if inStaging p then 0 else r.2)).foldl (· + ·) 0

/-- Join ranges in rising order where they touch or overlap. -/
def joinRanges (l : List (Addr × Nat)) : List (Addr × Nat) :=
  l.foldr (fun r t => match t with
    | [] => [r]
    | q :: t => if q.1 ≤ r.1 + r.2 then (r.1, max (r.1 + r.2) (q.1 + q.2) - r.1) :: t else r :: q :: t) []

/-- The reads that ranges make through the die memory port: one for each unbroken run of die-memory bytes among them (R76, R382; log entry 81). -/
def dieReads (s : State) (l : List (Addr × Nat)) : List (Addr × Nat) :=
  joinRanges (sortBy (fun a b => decide (a.1 ≤ b.1))
    (l.filter (fun r => match phys s r.1 with | none => false | some p => !(inStaging p) && r.2 != 0)))

/-! ### Tags (R382) -/

/-- The run on an engine. -/
def runOn (s : State) (e : Nat) : Option Run := s.running.find? (fun r => r.eng == e)
/-- Change the run on an engine. -/
def modRun (e : Nat) (f : Run → Run) (s : State) : State := { s with running := s.running.map (fun r => if r.eng = e then f r else r) }

/-- The Keeper as the reader of a tag, by what waits for the data: the weights of promoted experts, a packet under check, a model switch, the tables of a
flip, nothing. -/
def keeperEng : Nat := 0xFF
def takeEng : Nat := 0xFE
def switchEng : Nat := 0xFD
def tableEng : Nat := 0xFC
def freeEng : Nat := 0xFB
/-- A reader that is the Keeper. -/
def byKeeper (e : Nat) : Bool := decide (freeEng ≤ e)

/-- A free tag slot: generation kept, not outstanding, not withheld after a timeout (R382). -/
def freeSlot (s : State) : Option Nat := (List.range 1024).find? (fun i => !(s.memTags.any (fun t => t.slot == i && (t.busy || decide (s.clock < t.freeAt)))))

/-- The generation of a slot. -/
def slotGen (s : State) (i : Nat) : Nat := match s.memTags.find? (fun t => t.slot == i) with | some t => t.gen | none => 0

/-- Issue a read of n bytes of the run on an engine, or of the Keeper's: its tag is the slot and the slot's generation (R382). -/
def issueRead (e : Nat) (be : Bool) (a : Addr) (n : Nat) (s : State) : State :=
  match freeSlot s with
  | none => s
  | some i =>
    let t : MemTag := { slot := i, gen := slotGen s i, busy := true, freeAt := 0, eng := e, addr := a, n := n, be := be }
    emit (.memRead (i + t.gen * 2 ^ 10) a n)
      (modRun e (fun r => { r with memSlots := i :: r.memSlots }) { s with memTags := t :: s.memTags.filter (fun x => x.slot != i) })

/-- A request of n bytes to die memory passes the MEM bucket, or waits at it; it waits there too while every tag slot is taken or withheld
(R344, R382). -/
def memRequest (e : Nat) (be : Bool) (a : Addr) (n : Nat) (s : State) : State :=
  if (bucketRate s Reg.PART_REG_MEM = 0 || decide (0 ≤ s.memb.tk)) && s.memb.mem.isEmpty && (freeSlot s).isSome then issueRead e be a n (chargeMem n s)
  else { s with memb := { s.memb with mem := s.memb.mem ++ [{ be := be, write := false, eng := e, n := n, addr := a }] } }

/-- The requests of a reader's reads from die memory, each with its own tag (R344, R382). -/
def memRequests (e : Nat) (be : Bool) (l : List (Addr × Nat)) (s : State) : State := l.foldl (fun s r => memRequest e be r.1 r.2 s) s

/-- Reads of a reader are outstanding, or wait to be issued. -/
def readsOut (s : State) (e : Nat) : Bool := s.memTags.any (fun t => t.busy && t.eng == e) || s.memb.mem.any (fun m => !m.write && m.eng == e)

/-- No reader waits any longer for a reader's reads: those outstanding run out alone, those not yet issued go. -/
def dropReads (e : Nat) (s : State) : State :=
  { s with memTags := s.memTags.map (fun t => if t.busy ∧ t.eng = e then { t with eng := freeEng } else t)
           memb := { s.memb with mem := s.memb.mem.filter (fun m => m.write || m.eng != e) } }

/-! ### The Keeper's accesses (R324, R344, R382) -/

/-- Writes that reach beyond a window's mapping count together once (R324; log entry 76). -/
def missWrites (ws : List Wr) (s : State) : State :=
  match ws.find? (fun w => (phys s w.a).isNone) with
  | some w => aperMiss w.a 1 s
  | none => s

/-- A write of the Keeper's, or of the ingress interface: charged where it goes to die memory, counted where it goes beyond a mapping (R324, R344; log entry 78). -/
def keeperWrite (ws : List Wr) (s : State) : State := chargeMem (dieCells s (ws.map Wr.a)) (missWrites ws (putAll ws s))

/-- A read of the Keeper's whose data it uses as it stands in memory: a tagged read for each run of die memory, a miss counted for each range beyond a
window's mapping (R324, R344, R382; log entry 81). -/
def keeperRead (l : List (Addr × Nat)) (s : State) : State :=
  memRequests freeEng false (dieReads s l) (l.foldl (fun s r => aperMiss r.1 r.2 s) s)

/-- The first range of which the packet under check cannot have the data: the code, POISON for an uncorrectable word of staging or a poisoned completion,
TIMEOUT for a late one, with the poisoned staging word (R303, R378). -/
def readBad (s : State) (r : Addr × Nat) : Option (Nat × Option Addr) :=
  match poisonIn s r.1 r.2 with
  | some a => some (9, some a)
  | none => (s.taking.bind (fun k => k.bad.find? (fun b => overlap b.1 b.2.1 r.1 r.2))).map (fun b => (if b.2.2 then 0xA else 9, none))

end Sys2Proof.Machine
end

