-- ==== Sys2Proof/Machine/Steps.lean ====
section
/-! DEFINITION. Buffers, credits, steps, their end, kills and the loss of the slice (spec/11 R312 to R323; spec/10 R285 to R299; spec/12 R348,
R349; spec/14 R385). -/

namespace Sys2Proof.Machine

/-! ### Buffer pools (R312 to R323) -/

/-- Requests are served from the uniform pool (R316, R317). -/
def uniform (s : State) : Bool := flag s Reg.COMB_POOL_STAT 0

/-- The pool that serves a class (R318). -/
def poolId (s : State) (cls : Nat) : Nat := if uniform s then 5 else cls

/-- The pool with a number; empty where none is configured. -/
def poolAt (s : State) (id : Nat) : Pool :=
  match s.pools.find? (fun p => p.id == id) with
  | some p => p
  | none => { id := id, head := 0, free := [], owned := [] }

/-- Replace a pool. -/
def setPool (p : Pool) (s : State) : State := { s with pools := insertBy (fun a b => decide (a.id ≤ b.id)) p (s.pools.filter (fun q => q.id != p.id)) }

/-- Translation entries in use (R324). -/
def xlateUsed (s : State) : Nat := (s.windows.map (fun w => w.bufs.length)).foldl (· + ·) 0

/-- A failed request (R318). -/
def noBuf (s : State) : State := raiseBit Reg.COMB_POOL_STAT 4 (bump Reg.COMB_POOL_NOBUF_CNT 1 s)

/-- Positions of a pool's ring (R314). -/
def ringCount (s : State) (id : Nat) : Nat := max 1 (fld s (Reg.COMB_POOL_CNT id) 16 0)

/-- The address of a ring position. -/
def ringAddr (s : State) (id pos : Nat) : Addr := addrReg s (Reg.COMB_POOL_RING_LO id) + 8 * pos

/-- Write a free buffer's entry at a ring position: its address and the class code (R314). -/
def putRing (id pos : Nat) (b : Addr) (s : State) : State :=
  keeperWrite (wrBytes (ringAddr s id pos) (leBytes 8 (b + id * 2 ^ 48))) s

/-- The next entries of a ring that a read of 32 brings into the cache: those whose words hold an uncorrectable error, by index (R321, R322). -/
def badEntries (s : State) (p : Pool) : List Nat :=
  (List.range (min 32 (p.free.length - p.cached))).filter (fun i => poisonedAt s (ringAddr s p.id ((p.head + i) % ringCount s p.id)))

/-- Where n entries of a ring from position `pos` on stand: they go on at its start. -/
def ringSpans (s : State) (id pos n : Nat) : List (Addr × Nat) :=
  let k := min n (ringCount s id - pos)
  (if k = 0 then [] else [(ringAddr s id pos, 8 * k)]) ++ (if n ≤ k then [] else [(ringAddr s id 0, 8 * (n - k))])

/-- One read of 32 entries into the cache; an entry with an uncorrectable error is detected and discarded, its buffer leaves the pool, each one with its
own record (R321, R322, R378); a ring in die memory is read by its port (R344). -/
def readRing (id : Nat) (s : State) : State :=
  let p := poolAt s id
  let n := min 32 (p.free.length - p.cached)
  let bad := badEntries s p
  let free := ((withIdx 0 p.free).filter (fun e => decide (e.1 < p.cached) || !(bad.contains (e.1 - p.cached)))).map Prod.snd
  bad.foldl (fun s i =>
      let a := ringAddr s id ((p.head + i) % ringCount s id)
      faultRec 0x07 16 (ownDa s) id a noStep (raiseBit Reg.COMB_POOL_STAT 6 (bump Reg.COMB_POOL_LEAK_CNT 1 (ueDetect a 0 noStep s))))
    (keeperRead (ringSpans s id p.head n) <| setPool { p with free := free, cached := p.cached + n - bad.length, head := (p.head + n) % ringCount s id } s)

/-- Read until the cache holds 16 entries more than `n`, or the ring has no more; k bounds the reads (R321). -/
def fillCache (id n : Nat) : Nat → State → State
  | 0, s => s
  | k + 1, s =>
    let p := poolAt s id
    if p.cached < n + 16 ∧ p.cached < p.free.length then fillCache id n k (readRing id s) else s

/-- Allocate n buffers of a class, mapped into a window when one is named: a code of R302, the buffers, the state (R318, R319). Where entries read for it
are discarded and too few are left, the request is refused and the others stay read, at the head in their order (R321, R322; log entry 111). -/
def allocBufs (cls n : Nat) (win : Option Nat) (s : State) : Nat × List Addr × State :=
  if uniform s && decide (2 < cls) then (0x05, [], s) else
  let id := poolId s cls
  if (poolAt s id).free.length < n || (win.isSome && decide (8192 < xlateUsed s + n)) then (0x07, [], noBuf s) else
  let s := fillCache id n ((poolAt s id).free.length / 32 + 1) s
  let p := poolAt s id
  if p.free.length < n then (0x07, [], noBuf s)
  else
    let out := p.free.take n
    let s := setPool { p with free := p.free.drop n, owned := p.owned ++ out, cached := p.cached - n } s
    let s := match win with
      | none => s
      | some w => { s with windows := s.windows ++ [{ id := w, size := classSize p.id, bufs := out }] }
    (0x00, out, s)

/-- Return buffers in ascending order to the tails of their rings; a buffer not allocated is skipped and counted; a retired one is withheld
(R320, R380). -/
def freeBufs (l : List Addr) (s : State) : State :=
  (sortBy (fun a b => decide (a ≤ b)) l).foldl (fun s b =>
    match s.pools.find? (fun p => p.owned.contains b) with
    | none => raiseBit Reg.COMB_POOL_STAT 5 (bump Reg.COMB_POOL_BADFREE_CNT 1 s)
    | some p =>
      let owned := p.owned.filter (· != b)
      if s.retired.contains b then setPool { p with owned := owned } s
      else fillCache p.id 0 1 (putRing p.id ((p.head + (p.free.length - p.cached)) % ringCount s p.id) b
        (setPool { p with owned := owned, free := p.free ++ [b] } s))) s

/-- Give back what later requests of a set took that failed as a whole: the buffers are free as before it, at the head in their order; what the
reading of the rings found stays (R318, R322; log entry 111). -/
def untake (s t : State) : State :=
  { t with windows := s.windows
           pools := t.pools.map (fun p =>
             let own := (poolAt s p.id).owned
             let k := p.owned.drop own.length
             { p with free := k ++ p.free, cached := k.length + p.cached, owned := own }) }

/-- Unmap a window (R323). -/
def unmap (w : Nat) (s : State) : State := { s with windows := s.windows.filter (fun x => x.id != w) }

/-- The lowest of the Keeper's own windows that holds no mapping (R323). -/
def keeperWindow (s : State) : Option Nat :=
  ((List.range 16) ++ (List.range 192).map (· + 64)).find? (fun w => !(s.windows.any (fun x => x.id == w)))

/-- Allocate room for B bytes: one buffer of the smallest class that holds it, or buffers bound to a window of the Keeper's (R318, R323):
the code, the address the room is seen at, the buffers, the state. -/
def allocRoom (bytes : Nat) (s : State) : Nat × Addr × List Addr × State :=
  let top := if uniform s then 2 else 4
  match (List.range (top + 1)).find? (fun c => decide (bytes ≤ (if uniform s then 0x10000 else classSize c))) with
  | some c =>
    let r := allocBufs c 1 none s
    (r.1, r.2.1.headD 0, r.2.1, r.2.2)
  | none =>
    match keeperWindow s with
    | none => (0x07, 0, [], noBuf s)
    | some w =>
      let r := allocBufs top (ceilDiv bytes (if uniform s then 0x10000 else classSize top)) (some w) s
      (r.1, Config.apertureBase + w * Config.apertureWindow, r.2.1, r.2.2)

/-! ### Credit pools (R285) -/

/-- The credit pool with a number. -/
def cpoolAt (s : State) (n : Nat) : Option CPool := s.cpools.find? (fun p => p.id == n)

/-- Change the credits of a pool. -/
def setCredits (n c : Nat) (s : State) : State := { s with cpools := s.cpools.map (fun p => if p.id = n then { p with credits := c } else p) }

/-! ### The command record (R283) -/

def rOp (r : Record) : Nat := bits r.toNat 7 0
def rBe (r : Record) : Bool := bit r.toNat 8
def rSat (r : Record) : Bool := bit r.toNat 9
def rRel (r : Record) : Bool := bit r.toNat 10
def rPd (r : Record) : Bool := bit r.toNat 11
def rChain (r : Record) : Bool := bit r.toNat 12
def rWait (r : Record) : Nat := bits r.toNat 25 16
def rSig (r : Record) : Nat := bits r.toNat 35 26
def rCpool (r : Record) : Nat := bits r.toNat 41 36
def rCred (r : Record) : Nat := bits r.toNat 53 42
def rTarget (r : Record) : W32 := BitVec.ofNat 32 (bits r.toNat 95 64)
def rParam (r : Record) : Nat := bits r.toNat 191 128
/-- PTR1 to PTR4. -/
def rPtr (r : Record) (i : Nat) : Addr := bits (r.toNat / 2 ^ (192 + 64 * (i - 1))) 47 0
def rPdBase (r : Record) : Addr := bits (r.toNat / 2 ^ 448) 47 0
/-- Bits [hi:lo] of the PARAM word. -/
def rPar (r : Record) (hi lo : Nat) : Nat := bits (rParam r) hi lo
/-- The record with another TARGET. -/
def rSetTarget (r : Record) (t : W32) : Record := BitVec.ofNat 512 (setBits r.toNat 95 64 t.toNat)

/-- The fields of a record the Keeper builds. -/
structure RecSpec where
  op : Nat
  be : Bool
  sat : Bool := false
  wait : Nat
  sig : Nat
  target : Nat
  param : Nat
  ptrs : List Addr
  pd : Option (Addr × Bool) := none
  pool : Nat := 0
  cred : Nat := 0
  rel : Bool := false
deriving DecidableEq, Repr

/-- A record the Keeper builds (R283). -/
def mkRecord (r : RecSpec) : Record :=
  let p (i : Nat) : Nat := (r.ptrs.getD i 0) * 2 ^ (192 + 64 * i)
  let pd := match r.pd with | some b => 2 ^ 11 + b2n b.2 * 2 ^ 12 + b.1 * 2 ^ 448 | none => 0
  BitVec.ofNat 512 (r.op + b2n r.be * 2 ^ 8 + b2n r.sat * 2 ^ 9 + b2n r.rel * 2 ^ 10 + pd + r.wait * 2 ^ 16 + r.sig * 2 ^ 26
    + r.pool * 2 ^ 36 + r.cred * 2 ^ 42 + r.target * 2 ^ 64 + r.param * 2 ^ 128 + p 0 + p 1 + p 2 + p 3)

/-- The engine of a record opcode: the index of R281 (R284). -/
def engineOf (op : Nat) : Option Nat :=
  match op with
  | 0x01 => some 0 | 0x02 => some 0 | 0x08 => some 1 | 0x10 => some 2 | 0x18 => some 3 | 0x20 => some 4
  | 0x28 => some 5 | 0x29 => some 5 | 0x2A => some 5 | 0x30 => some 6 | 0x38 => some 7 | 0x39 => some 7
  | 0x40 => some 8 | 0x48 => some 9 | 0x49 => some 9
  | _ => none

/-! ### Steps (R289, R290) -/

/-- The accepted step with a number. -/
def stepAt (s : State) (q : W32) : Option Step := s.steps.find? (fun x => x.seq == q)
/-- Change a step. -/
def modStep (q : W32) (f : Step → Step) (s : State) : State := { s with steps := s.steps.map (fun x => if x.seq = q then f x else x) }
/-- Enqueued and not committed: the steps a kill ends (R294). -/
def Step.live (x : Step) : Bool := x.phase == .enqueued || x.phase == .joined
/-- A step has been enqueued and has not finished. -/
def Step.started (x : Step) : Bool := x.phase != .accepted

/-- The registers bound to a step; the live ones without it (R425). -/
def boundOf (s : State) (q : W32) : RegMap := match stepAt s q with | some x => x.bound | none => s.live

/-- The COMMIT record of a step, if its list has one (R301). -/
def Step.commitRec (x : Step) : Option Record := x.recs.find? (fun r => rOp r == 0xF0)

/-! ### The end of a step (R291, R296, R299, R326, R348, R366) -/

/-- The commit tag of R292 as 16 bytes. -/
def commitTag (s : State) (x : Step) (mask : Nat) : List Byte :=
  leBytes 4 x.seq.toNat ++ leBytes 2 (partId s + x.kgen.toNat * 2 ^ 10) ++ leBytes 1 x.layer ++ leBytes 1 x.model ++ leBytes 8 mask

/-- Add to a saturating little-endian count of n bytes. -/
def satAdd (n a b : Nat) : Nat := min (a + b) (2 ^ (8 * n) - 1)

/-- Charge a step to its client; the cycles it waited are a free value (R348). The record is read and written through the die memory port (R344; log
entry 81). -/
def account (x : Step) (s : State) : State :=
  if s.part.acctBase = 0 then s else
  let a := s.part.acctBase + 32 * x.client
  let w := (fresh s).toNat
  let b := leBytes 8 (satAdd 8 (rdLe s a 8) w) ++ leBytes 4 (satAdd 4 (rdLe s (a + 8) 4) 1) ++ leBytes 4 (satAdd 4 (rdLe s (a + 12) 4) x.preempts)
    ++ leBytes 4 (satAdd 4 (rdLe s (a + 16) 4) x.faultKills) ++ leBytes 4 (max (rdLe s (a + 20) 4) (min (w / 1024) 0xFFFFFFFF))
    ++ leBytes 4 (satAdd 4 (rdLe s (a + 24) 4) (b2n (!x.be))) ++ leBytes 4 0
  keeperWrite (wrBytes a b) (keeperRead [(a, 32)] (tick s))

/-- The COMMIT capture record, and the comparison of the tag in replay (R366, R372). -/
def capCommit (x : Step) (mask code : Nat) (s : State) : State :=
  let now : List Int := (List.range 6).map (fun i => (reg s (Reg.PART_TDC_SRC i) : Int))
  let d := (List.range 6).map (fun i => ((now[i]?).getD 0 - (s.cap.tdcAt[i]?).getD 0).toNat)
  let b := commitTag s x mask ++ leBytes 4 code ++ d.flatMap (leBytes 4)
  let s := capEvent 11 0 false x.seq.toNat b 16 0 s
  { s with cap := { s.cap with tdcAt := now } }

/-- The STEP packet and the final reply of a step, its accounting, and its place among the finished ones (R299, R301, R326, R348). -/
def endStep (x : Step) (code : Nat) (s : State) : State :=
  let cyc := (fresh s).toNat
  let s := tick s
  let s := logEnter 0x01 0 [x.seq.toNat, x.stepId.toNat,
    x.kgen.toNat + x.layer * 2 ^ 4 + x.model * 2 ^ 12 + (min x.kills 255) * 2 ^ 16 + code * 2 ^ 24,
    cyc % 2 ^ 32, cyc / 2 ^ 32, x.hostSeq.toNat + x.client * 2 ^ 16] s
  let r : Reply := { status := code, final := true, uncommitted := decide (x.opcode = 0x80) && x.commitRec.isNone,
                     seq := x.hostSeq, part := BitVec.ofNat 10 (partId s), opcode := x.opcode, r0 := x.seq, r1 := x.stepId,
                     r2 := BitVec.ofNat 32 x.kills, r3 := BitVec.ofNat 32 (cyc % 2 ^ 32), r4 := BitVec.ofNat 32 (cyc / 2 ^ 32), r5 := 0 }
  let s := account x (queueReply r s)
  { s with steps := s.steps.filter (fun y => y.seq != x.seq),
           halves := s.halves.filter (fun h => h.step != x.seq), work := s.work.filter (fun w => w.step != x.seq || w.rowsLeft != 0), colls := s.colls.filter (fun c => c.step != x.seq),
           finished := { seq := x.seq, committed := decide (code = 0), kills := x.kills, code := code }
             :: s.finished.filter (fun f => decide ((s.nextSeq - 1 - f.seq).toNat ≤ 64)) }

/-- Unmap the windows whose buffers are all among those returned, and return the buffers (R291, R323). -/
def giveBack (l : List Addr) (s : State) : State :=
  freeBufs l { s with windows := s.windows.filter (fun w => !(w.bufs.all (fun b => l.contains b)) || (decide (16 ≤ w.id) && decide (w.id < 64))) }

/-! ### Kill (R271, R293 to R296) -/

/-- Whether a kill cause is rerun, and else its final code (R296). -/
def causeCode (c : KillCause) : Option Nat :=
  match c with
  | .collMismatch => some 0x06
  | .widthBad => some 0x05
  | .badIngress => some 0x04
  | .ingressTimeout => some 0x0A
  | .killDrop => some 0x0B
  | .noLine => some 0x0D
  | .flagPoison => some 0x09
  | .areaSmall => some 0x0D
  | .switchPoison => some 0x09
  | .switchTimeout => some 0x0A
  | _ => none

/-- Close every open instance of a group whose KGEN differs from the new one (R271 step 3). -/
def closeInsts (g kg : Nat) (s : State) : State := { s with insts := s.insts.filter (fun i => i.id.group != g || i.id.kgen == kg) }

/-- The KILL_DONE barrier of a generation (R267). -/
def killDoneId (s : State) : BarId := { group := partId s, tag := 6 + kgen s * 2 ^ 3, kgen := kgen s }

/-- KILL_DONE releases (R295). -/
def relKillDone (_ : BarId) (_ : Nat) (_ : W64) (s : State) : State :=
  let s := { s with killDone := true }
  if s.recov.active then tick (setReg (Reg.REL_RECOV_T 0) ((fresh s).toNat % 2 ^ 32) s) else s

/-- KILL_DONE of this generation has been joined already, or has released. -/
def killJoined (s : State) : Bool := s.killDone || s.insts.any (fun i => i.id == killDoneId s && i.ins.any (fun c => c.link == 16))

/-- Join KILL_DONE, once for a kill, when no STEP_ABORT awaits its acknowledgement (R295, R296). -/
def joinKillDone (s : State) : State :=
  if s.abortAcks.isEmpty && !(killJoined s) then joinLocal relKillDone (killDoneId s) 15 false 0 s else s

/-- Counters of a step's range go to zero, but SIG_CNT and SH_SIG (R290, R294). -/
def zeroRange (x : Step) (s : State) : State :=
  let keep := [bFld x.bound Reg.SCORE_ING_CTL 19 10, bFld x.bound Reg.COMB_SH_SIG 9 0]
  { s with cnt := s.cnt.filter (fun e => decide (e.1 < x.cntFirst) || decide (x.cntFirst + x.cntNum ≤ e.1) || keep.contains e.1) }

/-- What a kill does to one killed step (R294, R295, R349). -/
def killStepRec (byHost : Bool) (rerunMax : Nat) (code : Option Nat) (x : Step) : Step :=
  let last := if x.reruns ≥ rerunMax then some 0x0B else none
  { x with phase := .killed, kills := x.kills + 1, preempts := x.preempts + b2n byHost, faultKills := x.faultKills + b2n (!byHost), lastHost := byHost,
           held := [], resolved := [], fetches := [], hits := [], claims := [], claimHits := [], streams := [], plansDone := [], loopVector := none,
           buffers := x.buffers.filter (fun b => b.1 == 0), rooms := [], endCode := match x.endCode with | some c => some c | none => match code with | some c => some c | none => last }

/-- A line key: EXPERT, LAYER, MODEL, KIND (R188). -/
def llKey (kind model layer x : Nat) : Nat := x + layer * 2 ^ 16 + model * 2 ^ 24 + kind * 2 ^ 28

/-- Bits [hi:lo] of the eight bytes at byte b of a line. -/
def lBits (l : BitVec 256) (b hi lo : Nat) : Nat := bits (l.toNat / 2 ^ (8 * b)) hi lo

def lineKey (l : BitVec 256) : Nat := lBits l 0 28 0
def lineValid (l : BitVec 256) : Bool := lBits l 0 29 29 == 1
def lineHome (l : BitVec 256) : Nat := lBits l 0 51 32

/-- The placement lines of a model's image, as the recovery flip has rewritten them there (R389). -/
def imageLinesOf (s : State) (img : Addr) (model : Nat) : List (BitVec 256) :=
  (Config.imageLines img model).map (fun l => match s.imgFix.find? (fun e => e.1 == img && lineKey e.2 == lineKey l) with | some e => e.2 | none => l)

/-- An entry of the home map in an image: the HOME of the expert's placement line (R155). -/
def imageHome (img : Addr) (model layer x : Nat) : Nat :=
  match (Config.imageLines img model).find? (fun l => lineKey l == llKey 0 model layer x) with
  | some l => lineHome l
  | none => Config.homeOf img layer x % 2 ^ 20

/-- The slice that is a placement line's directory, by the home map of the epoch's version (R155). -/
def homeDir (s : State) (ep : Bool) (model layer x : Nat) : Nat :=
  match s.homes.find? (fun h => h.model == model && h.epoch == ep) with
  | none => Config.homeOf 0 layer x % 2 ^ 20
  | some h => match h.fixed.find? (fun e => e.1 == llKey 0 model layer x) with
    | some e => e.2
    | none => imageHome h.img model layer x

/-- The directory of a line by its key. -/
def keyDir (s : State) (ep : Bool) (key : Nat) : Nat := homeDir s ep (bits key 27 24) (bits key 23 16) (bits key 15 0)

/-- An LL_REQ packet (R158, R188). -/
def llRequest (s : State) (dst key : Nat) (own be ep : Bool) : Packet :=
  mkPacket s { typ := 5, dst := dst, be := be, epoch := ep, layer := bits key 23 16, half := false, model := bits key 27 24,
               kgen := kgen s, ts := tsAt 16 key + tsAt 20 (b2n own) } []

/-- Line requests under way when the generation changes get no answer (R189, R200): those of killed commands are made again by their rerun,
those of the Keeper at once (log entry 45). -/
def renewReqs (s : State) : State :=
  let keep := s.llReqs.filter (fun r => r.pin || r.own)
  (keep.filter (fun r => !r.own)).foldl
    (fun s r => if r.queued then s else inject (llRequest s (keyDir s r.epoch r.key) r.key false false r.epoch) s)
    { s with llReqs := keep }

/-- The candidate parameters G and GSIZE of a SCORE record (R89). -/
def scoreCand (r : Record) : Option (Nat × Nat) := if bit (rParam r) 5 then some (rPar r 9 6, rPar r 25 10 + 1) else none

/-- The MACs a whole command performs (R101): one per element and pair scored. Idle cells count none whatever GATE_EN holds, and a group listed
twice by a token counts twice: the spec leaves both open (DESIGN CHOICE, log entry 55). -/
def scoreMacs (s : State) (r : RingRec) : Nat :=
  let da := descAt s (rPtr r.raw 1)
  let dw := descAt s (rPtr r.raw 2)
  da.sz 0 * da.sz 1 * (match scoreCand r.raw with | none => dw.sz 1 | some (g, gs) => g * gs)

/-- A command that stops before its end has performed some of its MACs: the spec gives no number (R99, R101; log entry 4). -/
def macsCut (n : Nat) (s : State) : State := tick (bump64 Reg.SCORE_MAC_LO (min (Config.freeCycles s.free) n) s)

/-- The BUSY counter of an engine; MOVE has none. -/
def busyReg (e : Nat) : Option Nat :=
  match e with
  | 0 => some Reg.SCORE_BUSY_LO | 1 => some Reg.SCORE_SFU_BUSY_LO | 2 => some Reg.SCORE_SEL_BUSY_LO | 3 => some Reg.SORT_BUSY_LO
  | 4 => some Reg.SORT_PLAN_BUSY_LO | 5 => some Reg.XCHG_BUSY_LO | 6 => some Reg.XCHG_FETCH_BUSY_LO | 7 => some Reg.COMB_BUSY_LO
  | 9 => some Reg.XCHG_COLL_BUSY_LO
  | _ => none

/-- The cycles a command had run when it ends without completing: its engine's BUSY counter counts them, and COLL's for a SCORE_COUNT in its
exchange; so do the MACs of a SCORE or SCORE_COUNT that ends while it scores (R101); the spec gives no numbers (log entry 4). -/
def busyCut (u : Run) (s : State) : State :=
  let s := match busyReg u.eng with | some lo => busyFree lo s | none => s
  let s := if u.eng = 0 ∧ u.ackType ≠ 3 then macsCut (scoreMacs s u.cmd) s else s
  if u.eng = 0 ∧ u.ackType = 3 then busyFree Reg.XCHG_COLL_BUSY_LO s else s

/-- A packet that waits to be built and outlives a kill: those of the Keeper, and the acknowledgements of such. It is built with the new generation
(R200); the packets of the killed commands end with them. -/
def outlivesKill (p : Packet) : Bool :=
  pTyp p == 4 || pTyp p == 6 || pTyp p == 12 || (pTyp p == 11 && (pTs p 20 3 0 == 4 || pTs p 20 3 0 == 6))

/-- A packet of a type to a destination waits to be built. -/
def unbuilt (s : State) (typ dst : Nat) : Bool :=
  (s.injQ.map Prod.snd ++ s.fab.req ++ s.fab.rsp).any (fun p => pTyp p == typ && pDst p == dst)

/-- The local part of a kill under a new generation: every started, uncommitted step ends; `code` says which step ends without rerun and how
(R294 steps 1 to 6). -/
def applyKill (kg : Nat) (byHost : Bool) (code : W32 → Option Nat) (s : State) : State :=
  let dead := s.steps.filter Step.live
  let isDead (q : W32) : Bool := dead.any (fun x => x.seq == q)
  let s := setFld Reg.KEEP_KGEN 3 0 kg (capKilled (fun n => dead.any (fun x => x.seq.toNat == n)) (flushCap s))
  let s := withdraw (fun p => pKgen p == kg || pPart p != partId s) (fun p => outlivesKill p || pPart p != partId s) s
  let s := dead.foldl (fun s x => giveBack ((x.buffers.filter (fun b => b.1 != 0)).map Prod.snd) s) s
  let s := dead.foldr (fun x s => x.poolSnap.foldl (fun s e => setCredits e.1 e.2 s) s) s
  let s := dead.foldl (fun s x => zeroRange x s) s
  let s := renewReqs (bump Reg.KEEP_KILL_CNT 1 s)
  let s := (s.running.filter (fun r => isDead r.cmd.step)).foldl (fun s u => busyCut u s) s
  let runs := s.running.filter (fun r => !isDead r.cmd.step)
  { s with
    steps := s.steps.map (fun x => if x.live then killStepRec byHost (bFld x.bound Reg.KEEP_CFG 3 0) (code x.seq) x else x)
    ringq := s.ringq.filter (fun r => !isDead r.step)
    running := runs
    memb := { s.memb with mem := s.memb.mem.filter (fun e => byKeeper e.eng || runs.any (fun u => u.eng == e.eng)) }
    halves := s.halves.filter (fun h => !isDead h.step)
    work := s.work.filter (fun w => !isDead w.step)
    acks := s.acks.filter (fun a => a.kgen == kg)
    ownAcks := s.ownAcks.filter (fun a => unbuilt s a.1 a.2.1)
    hold := s.hold.filter (fun p => pKgen p == kg)
    rdHeld := s.rdHeld.filter (fun p => pKgen p == kg)
    colls := s.colls.filter (fun c => !isDead c.step)
    groups := s.groups.map (fun g => if g.id = partId s then { g with kgen := kg } else g)
    killDone := false }

/-- Send INFO KILL toward the apex; the apex sends it down itself and closes the stale instances (R271). -/
def sendKill (kg : Nat) (s : State) : State :=
  if (groupAt s (partId s)).apex then sendDown 3 (headOf 3 0x08 false true (partId s) kg 0) none (closeInsts (partId s) kg s)
  else sendUp 3 (headOf 3 0x08 false false (partId s) kg 0) none s

/-- A CTRL packet of the slice's own (R188, R301). -/
def mkCtrl (s : State) (dst op : Nat) (payload : List Byte) : Packet :=
  let h : Hd := { typ := 4, dst := dst, be := false, epoch := curEpoch s, layer := 0, half := false, model := 0, kgen := kgen s, ts := tsAt 16 op }
  mkPacket s h payload

/-- Send STEP_ABORT for a step to every other member (R296, R301). -/
def sendAborts (q : W32) (code : Nat) (s : State) : State :=
  (s.part.members.filter (fun d => d != ownDa s && !isFenced s d)).foldl (fun s d =>
    inject (mkCtrl s d 0x10 (leBytes 4 q.toNat ++ leBytes 1 code))
      { s with abortAcks := s.abortAcks ++ [d], ctrlWait := s.ctrlWait ++ [(0x10, d)] }) s

/-- The steps a cause ends without rerun: every live one for KILL_STEP with DROP = 1, else the step concerned (R296). -/
def endsOf (c : KillCause) (st : Option W32) (q : W32) : Option Nat :=
  match causeCode c with
  | none => none
  | some code => if c = .killDrop then some code else if st = some q then some code else none

/-- A kill begun by this Keeper (R293, R294, R296): held while a step is joined to COMMIT_READY; nothing when no step is started. -/
def raiseKill (c : KillCause) (st : Option W32) (s : State) : State :=
  let dead := s.steps.filter Step.live
  if dead.isEmpty then s
  else if dead.any (fun x => x.phase == .joined) then { s with heldKill := s.heldKill ++ [(c, st)] }
  else
    let kg := (kgen s + 1) % 16
    let s := sendKill kg (applyKill kg (c == .killStep || c == .killDrop) (endsOf c st) s)
    let s := dead.foldl (fun s x => match endsOf c st x.seq with
      | none => s
      | some code => sendAborts x.seq code s) s
    joinKillDone s

/-- Whether the kill that arrived is a pre-emption: a STEP_ABORT with KILLED says that a KILL_STEP was its cause; else the frame does not say, and
it is a free value (R349; log entry 72). -/
def preempted (s : State) : Bool := s.aborts.any (fun a => a.2 == 0x0B) || bit (fresh s).toNat 0

/-- A kill a member applies on the arrival of KILL (R271, R294). -/
def memberKill (kg : Nat) (s : State) : State :=
  joinKillDone (applyKill kg (preempted s) (fun q => (s.aborts.find? (fun a => a.1 == q)).map Prod.snd) (tick { s with heldKill := [] }))

/-! ### The loss of the slice (R273, R385) -/

/-- The fenced state: engines stop, rings empty, nothing of its own is injected (R385). -/
def enterFenced (s : State) : State :=
  { raiseBit Reg.REL_STAT 9 s with taking := none, switchRun := none, ringq := [], running := [], fabQ := [], injQ := [], fab := { s.fab with req := [], rsp := [] }, hold := [], ejectQ := [], inQ := [], rdHeld := [], colls := [] }

/-- A slice that detects its own loss: FAULT_FATAL, FOGHORN with the code, the alarm output, the fenced state (R273, R385). -/
def loseSlice (code unit detail : Nat) (addr : Addr) (s : State) : State :=
  let s := faultRec code unit (ownDa s) detail addr noStep s
  let s := sendAll 16 0 (headOf 0 0x01 false false 0 0 (ownDa s + code * 2 ^ 20)) none s
  enterFenced { s with alarm := true }

/-- A slice meets a cause of its loss: lost as by R385, also where a FENCE has fenced it. Nothing more comes of it in a slice that is lost already, before
readiness, where the alarm output stays as R402 leaves it and no FOGHORN is sent, and once a clock is lost (R385, R400, R402, R409). -/
def ownLoss (code unit detail : Nat) (addr : Addr) (s : State) : State :=
  if !(ready s) || s.power.clkStopped || (fenced s && s.alarm) then s else loseSlice code unit detail addr s

/-- A poisoned read or access of a command (R378, R381): the detection and the kill of its step. -/
def poisonKill (a : Addr) (detail : Nat) (step : W32) (s : State) : State :=
  raiseKill .poisonedRead (some step) (ueDetect a detail step.toNat s)

end Sys2Proof.Machine
end

