-- ==== Sys2Proof/Machine/Engine.lean ====
section
/-! DEFINITION. How a record starts, reads die memory, completes and signals (spec/01 R30 to R34; spec/10 R281 to R285; spec/13 R367; spec/14
R381, R382, R435). -/

namespace Sys2Proof.Machine

/-! ### Starting (R31, R32) -/

/-- The record at the head of a ring. -/
def ringHead (s : State) (ring : Nat) : Option RingRec := s.ringq.find? (fun r => r.ring == ring)

/-- The engine runs a command. -/
def engBusy (s : State) (e : Nat) : Bool := s.running.any (fun r => r.eng == e)

/-- Started commands run: Keeper up, in RUN, no self-test (R404, R415). -/
def commandsRun (s : State) : Bool :=
  keeperUp s && decide (pwrState s = 0) && (match s.longOp with | .selfTest _ _ => false | _ => true)

/-- Engines take records: and no hold by capture (R368). -/
def enginesRun (s : State) : Bool := commandsRun s && !capHold s

/-- The record's credit pool holds its demand (R31, R285). -/
def creditsOk (s : State) (r : Record) : Bool :=
  rCred r == 0 || rRel r || (match cpoolAt s (rCpool r) with | some p => decide (rCred r ≤ p.credits) | none => false)

/-- Credits of the record's pool, for TRACE. -/
def poolCredits (s : State) (r : Record) : Nat := match cpoolAt s (rCpool r) with | some p => p.credits | none => 0

/-- The head of an engine's ring of one class can start (R31). -/
def headCanStart (s : State) (e : Nat) (be : Bool) : Bool :=
  enginesRun s && !engBusy s e && (match ringHead s (2 * e + b2n be) with
    | none => false
    | some r => reached s (rWait r.raw) (rTarget r.raw) && creditsOk s r.raw)

/-- The record that starts on an engine in a class: a BE record only when the LC head cannot start (R32). -/
def startable (s : State) (e : Nat) (be : Bool) : Option RingRec :=
  if headCanStart s e be && !(be && headCanStart s e false) then ringHead s (2 * e + b2n be) else none

/-- A run that waits for nothing yet. -/
def newRun (s : State) (e : Nat) (r : RingRec) : Run :=
  { eng := e, cmd := r, acks := [], ackType := 0, waiting := [], serves := [], stage := 0, phase := 0,
    value := [], bar := none, memSlots := [], shWait := false, waitVal := cnt s (rWait r.raw), credits := poolCredits s r.raw }

/-- A command starts: it takes its credits and occupies its engine (R31, R34). -/
def startRun (e : Nat) (r : RingRec) (s : State) : State :=
  let u := newRun s e r
  let s := if rCred r.raw = 0 || rRel r.raw then s else setCredits (rCpool r.raw) (poolCredits s r.raw - rCred r.raw) s
  { s with running := s.running ++ [u] }

/-! ### Completing (R33, R285, R299, R326) -/

/-- Return the credits of a record with REL = 1 (R285). -/
def releaseCredits (r : Record) (s : State) : State :=
  if rCred r = 0 || !rRel r then s else
  match cpoolAt s (rCpool r) with
  | none => s
  | some p =>
    let c := p.credits + rCred r
    raiseIf (decide (p.size < c)) Reg.KEEP_STAT 2 (setCredits p.id (min c p.size) s)

/-- A list without COMMIT ends when every record has signalled (R299). -/
def listDone (q : W32) (s : State) : State :=
  match stepAt s q with
  | none => s
  | some x =>
    if decide (x.opcode = 0x80) && x.commitRec.isNone && decide (x.completed = x.recs.length) then
      capCommit x 0 0 (endStep x 0 (giveBack (x.buffers.map Prod.snd) s))
    else s

/-- A command signals and is gone: credits, signal, its slot, TRACE (R33, R282, R285, R326). -/
def retire (u : Run) (s : State) : State :=
  let r := u.cmd
  let s := signal (rSig r.raw) (releaseCredits r.raw s)
  let s := { s with running := s.running.filter (fun x => x.eng != u.eng),
                    ringq := dropFirst (fun x => x.ring == r.ring && x.step == r.step && x.idx == r.idx) s.ringq
                    colls := s.colls.filter (fun c => !(c.ring == r.ring && c.step == r.step && c.idx == r.idx)) }
  logTrace r.ring (rOp r.raw) r.step (rTarget r.raw) u.waitVal u.credits s

/-- A command completes, and with the last one a list without COMMIT ends (R33, R299). -/
def complete (u : Run) (s : State) : State :=
  let r := u.cmd
  let s := retire u s
  listDone r.step (modStep r.step (fun x => { x with completed := x.completed + 1 }) s)

/-! ### Digests (R367) -/

/-- The stored bytes of a tensor in row-major order; each row's scale bytes follow it. -/
def tensorBytes (s : State) (d : Desc) : List Byte :=
  let row (j : Nat) : List Byte :=
    (List.range (d.sz 0)).flatMap (fun i => leBytes (ceilDiv d.wd 8) (readRaw s d (d.coord (j * d.sz 0 + i))).1)
      ++ (if fmtMx d.fmt then (List.range (d.sz 0 / 32)).flatMap (fun b => leBytes 1 (readRaw s d (d.coord (j * d.sz 0 + 32 * b))).2.1) else [])
  (List.range d.rows).flatMap row

/-- HALF of a record's parameters, of the opcodes that have it (R146, R180, R217, R236, R254). -/
def halfOf (r : Record) : Option Bool :=
  match rOp r with
  | 0x10 => some (bit (rParam r) 6)
  | 0x18 => some (bit (rParam r) 1)
  | 0x20 => some (bit (rParam r) 0) | 0x28 => some (bit (rParam r) 0) | 0x29 => some (bit (rParam r) 0) | 0x2A => some (bit (rParam r) 0)
  | 0x30 => some (bit (rParam r) 0) | 0x38 => some (bit (rParam r) 0) | 0x39 => some (bit (rParam r) 0) | 0x48 => some (bit (rParam r) 0)
  | _ => none

/-- The half a record works for: its own HALF, else that of the next record of its list that has one (R365; DEDUCED, log entry 105). -/
def recHalf (s : State) (r : RingRec) : Bool :=
  match halfOf r.raw, stepAt s r.step with
  | some h, _ => h
  | none, some x => ((x.recs.drop r.idx).findSome? halfOf).getD false
  | none, none => false

/-- Write, or in replay compare, one DIGEST record per output when digests are on. -/
def digests (r : RingRec) (outs : List Addr) (s : State) : State :=
  let half := recHalf s r
  if !s.cap.digest || (capMode s != 1 && capMode s != 2) then s else
  (withIdx 0 outs).foldl (fun s o =>
    let b := tensorBytes s (descAt s o.2)
    let c := (crc32c b).toNat
    capEvent 10 0 half r.step.toNat
      (leBytes 1 r.ring ++ leBytes 1 (rOp r.raw) ++ leBytes 2 o.1 ++ leBytes 4 c ++ leBytes 4 b.length) 12 c s) s

/-! ### What a record does once its operands can be read -/

/-- A record's work: the registers its start sets, the ranges it reads, the bits it writes, its format report and what else its results show in
status and counters, what else it changes, its bound and BUSY counter, the outputs digested, what it changes instead where it reads too early (R25), a
kill it meets, and whether the command goes on waiting after it. -/
structure Job where
  start : State → State := id
  reads : List (Addr × Nat)
  writes : List Wr := []
  fx : Fx := {}
  rep : State → State := id
  after : State → State := id
  busyLo : Nat := 0
  bound : Nat := 0
  outs : List Addr := []
  early : Option (State → State) := none
  kill : Option KillCause := none
  wait : Bool := false

/-- An uncorrectable word under a partial write aborts it (R379). -/
def abortWrite (a : Addr) (step : W32) (s : State) : State := poisonKill a 1 step (partialAbort s)

/-- The values a packet carries are free where the command that sends it has read too early (R20, R25). -/
def freePacket (s : State) (i : Nat) (p : Packet) : Packet :=
  let w (j : Nat) : Nat := (Config.freeWord (s.free + 8 * i + j)).toNat * 2 ^ (64 * j)
  let q : Packet := { p with ts := BitVec.ofNat 320 (w 0 + w 1 + w 2 + w 3 + w 4),
                             payload := (withIdx 0 p.payload).map (fun e => Config.freeByte (s.free + i) e.1) }
  { q with crc := crc32c (pCrcBytes q) }

/-- The packets with their values free. -/
def freePackets (s : State) (l : List Packet) : List Packet := (withIdx 0 l).map (fun e => freePacket s e.1 e.2)

/-- The pointers of a record that name descriptors, and those of them it writes through. -/
def descPtrs (r : Record) : List Nat × List Nat :=
  match rOp r with
  | 0x01 => ([1, 2, 3] ++ (if bit (rParam r) 4 || bit (rParam r) 5 then [4] else []), [3])
  | 0x02 => ([1, 2, 3], [3])
  | 0x08 => ([1, 2] ++ (if rPar r 3 0 = 5 || (bit (rParam r) 7 && (rPar r 3 0 == 2 || rPar r 3 0 == 3)) then [3] else []), [2])
  | 0x10 => ([1, 2] ++ (if bit (rParam r) 2 then [3] else []), [2])
  | 0x18 => ([1, 2, 3], [2, 3])
  | 0x20 => ([1, 2, 3, 4], [2, 3])
  | 0x28 => ([1, 2, 3], [])
  | 0x29 => ([1, 2, 3], [2, 3])
  | 0x2A => ([1, 2, 3], [])
  | 0x30 => ([1], [])
  | 0x38 => ([1, 2], [1])
  | 0x39 => ([1, 2], [1])
  | 0x40 => ([1, 2], [2])
  | 0x48 => ([1, 2], [2])
  | 0x49 => ([1, 2], [2])
  | _ => ([], [])

/-- The arrays a SELECT writes beside its rows: gates, counts, shared masks, load counts (R139, R148). -/
def selSpans (s : State) (r : Record) : List (Addr × Nat) :=
  let b := rPtr r 4
  let t := rPar r 20 7
  let n := (descAt s (rPtr r 1)).sz 1
  if bit (rParam r) 3 then [] else
  [(rdLe s (b + 8) 6 + 32 * t, 32 * n), (rdLe s (b + 16) 6 + t, n), (rdLe s (b + 32) 6, 4 * (rdLe s (b + 56) 2 + 1))]
    ++ (if rdLe s (b + 76) 1 % 8 = 0 then [] else [(rdLe s (b + 24) 6 + t, n)])

/-- The tag area that SEND and RECV write, and the arrival records of a half (R218). -/
def xchgSpans (s : State) (r : Record) : List (Addr × Nat) :=
  let b := rPtr r 4
  (rdLe s (b + 24) 6, 8 * rdLe s (b + 56) 4) :: (if rOp r = 0x28 then [(rdLe s b 6, 16 * rdLe s (b + 48) 4)] else [])

/-- The bytes a record writes: through its descriptors, and in the arrays its block names. -/
def outSpans (s : State) (r : Record) : List (Addr × Nat) :=
  (descPtrs r).2.flatMap (fun i => spans (descAt s (rPtr r i)))
    ++ (if rOp r = 0x10 then selSpans s r else if rOp r = 0x28 ∨ rOp r = 0x29 then xchgSpans s r else [])

/-- The place of a record's stage in the pipeline of a half (R25, R27). -/
def stageRank (r : Record) : Option Nat :=
  match rOp r with
  | 0x01 => some 0 | 0x02 => some 0 | 0x08 => some 1 | 0x10 => some 2 | 0x18 => if bit (rParam r) 0 then some 8 else some 3 | 0x48 => some 4 | 0x20 => some 5
  | 0x28 => some 6 | 0x30 => some 6 | 0x29 => some 7 | 0x2A => some 9 | 0x38 => some 10 | 0x39 => some 10
  | _ => none

/-- Record o writes for record r: it stands before it in the list, or its stage comes before it in the half. -/
def writesFor (s : State) (o r : RingRec) : Bool :=
  decide (o.idx < r.idx) || (recHalf s o == recHalf s r && (match stageRank o.raw, stageRank r.raw with | some a, some b => decide (a < b) | _, _ => false))

/-- The token rows, scales and flags of a step's tile whose half has not signalled (R61, R64). -/
def tileSpans (s : State) (q : W32) : List (Addr × Nat) :=
  (s.ing.filter (fun i => i.step == q)).flatMap (fun i =>
    let b := i.bound
    let n := bFld b Reg.SCORE_ING_SHAPE 14 0
    let d := bFld b Reg.SCORE_ING_SHAPE 31 16
    let f := bFld b Reg.SCORE_ING_CTL 9 2
    let rb := roundUp (ceilDiv (d * fmtBits f) 8) 64
    let sb := if fmtMx f then roundUp (d / 32) 64 else 0
    let base := bAddr b Reg.SCORE_ING_BASE_LO
    let part (lo hi : Nat) : List (Addr × Nat) :=
      [(base + lo * rb, (hi - lo) * rb), (base + n * rb + lo * sb, (hi - lo) * sb), (bAddr b Reg.SCORE_ING_FLAG_LO + lo, hi - lo)]
    (if i.sigA then [] else part 0 (ceilDiv n 2)) ++ (if i.sigB then [] else part (ceilDiv n 2) n))

/-- The record reads a buffer that an earlier stage of its software-built list, or the ingress interface, writes and has not signalled (R25; log
entry 60). -/
def readsEarly (s : State) (r : RingRec) (reads : List (Addr × Nat)) : Bool :=
  match stepAt s r.step with
  | none => false
  | some x =>
    let hit (w : Addr × Nat) : Bool := reads.any (fun a => overlap w.1 w.2 a.1 a.2)
    x.opcode == 0x80 && (((s.ringq ++ x.held).filter (fun o => o.step == r.step && o.idx != r.idx && writesFor s o r)).any (fun o =>
      (outSpans s o.raw).any hit) || (tileSpans s r.step).any hit)

/-- A job as it is done: where it reads too early, the values it writes, and those it sends, are free, and no register shows anything of them; how many
it sends, and where to, follow what stands in memory (R20, R25; log entry 60). -/
def Job.doneAs (j : Job) (s : State) (r : RingRec) : Job :=
  if readsEarly s r j.reads then
    { j with writes := j.writes.map (fun w => { w with v := (Config.freeByte s.free w.a).toNat }), fx := {}, rep := id, after := fun t => (j.early.getD j.after) (tick t) }
  else j

/-- The accesses of a job beyond a window's mapping: each range it reads, and its writes together, count once (R324; log entry 76). -/
def seeMisses (j : Job) (s : State) : State := missWrites j.writes (j.reads.foldl (fun s r => aperMiss r.1 r.2 s) s)

/-- What a job leaves before it signals: its writes, its reports, its other changes (R33). -/
def jobWork (j : Job) (s : State) : State := j.after (j.rep (seeMisses j (applyFx j.fx (putAll j.writes s))))

/-- The work is done, and the command signals unless it goes on waiting. -/
def jobLast (u : Run) (j : Job) (s : State) : State :=
  let s := jobWork j s
  if j.wait then s else complete u (digests u.cmd j.outs (if j.busyLo = 0 then s else busy j.busyLo j.bound s))

/-- The bytes a job writes to die memory, where the MEM bucket meters them (R344). -/
def metered (j : Job) (s : State) : Nat := if bucketRate s Reg.PART_REG_MEM = 0 then 0 else dieCells s (j.writes.map Wr.a)

/-- Do a record's work and signal: nothing of a poisoned read, its own record's in the ring included, of a kill or of an aborted write is written, and the
command does not signal (R33, R310, R379, R381). With `pass` its writes to die memory pass the MEM bucket first, or wait at it (R344). -/
def jobGo (pass : Bool) (u : Run) (j : Job) (s : State) : State :=
  match poisonAny s (cmdSpan u.cmd :: j.reads) with
  | some a => poisonKill a 0 u.cmd.step s
  | none =>
    match j.kill with
    | some c => raiseKill c (some u.cmd.step) (j.after s)
    | none =>
      let j := j.doneAs s u.cmd
      match partialPoison s (j.writes.map Wr.a) with
      | some a => abortWrite a u.cmd.step s
      | none =>
        let n := metered j s
        if !pass || n == 0 then jobLast u j s
        else if 0 ≤ s.memb.tk && s.memb.mem.isEmpty then jobLast u j (chargeMem n s)
        else
          let q : MemReq := { be := rBe u.cmd.raw, write := true, eng := u.eng, n := n, addr := ((j.writes.map Wr.a).headD 0) }
          { s with memb := { s.memb with mem := s.memb.mem ++ [q] } }

/-- A record's work. -/
def doJob (u : Run) (j : Job) (s : State) : State := jobGo true u j s

/-- Writes made as events arrive for a step: an uncorrectable word under a partial one aborts it (R379), else they are made and `k` goes on. The MEM
bucket is charged for those to die memory; they do not wait on it (R344; log entry 78). -/
def engWrite (ws : List Wr) (step : W32) (k : State → State) (s : State) : State :=
  match partialPoison s (ws.map Wr.a) with
  | some a => abortWrite a step s
  | none => k (chargeMem (dieCells s (ws.map Wr.a)) (missWrites ws (putAll ws s)))

/-! ### Die memory reads (R344, R382) -/

/-- Once no read of the Keeper's is outstanding, the clusters that wait for it are asked to load the promoted experts (R390). -/
def askWarm (s : State) : State :=
  if !(keeperUp s) || readsOut s keeperEng || s.recov.asks.isEmpty then s
  else s.recov.asks.foldl (fun s a => emit (.warm a.1 a.2) s) { s with recov := { s.recov with asks := [] } }

/-- Every read of the run has returned: none is outstanding or waits to be issued. -/
def readsBack (u : Run) (s : State) : Bool := u.memSlots.isEmpty && !(s.memb.mem.any (fun m => !m.write && m.eng == u.eng))

/-- Do a job at once, or read what it reads from die memory first (R344, R382). -/
def readThen (u : Run) (j : Job) (s : State) : State :=
  if dieBytes s j.reads = 0 then doJob u j s else memRequests u.eng (rBe u.cmd.raw) (dieReads s j.reads) s

/-- Start the record of a class on an engine that `p` picks: it works at once on staging operands, and after its completion on die memory. -/
def runJob (e : Nat) (be : Bool) (p : Record → Bool) (mk : State → RingRec → Job) (s : State) : State :=
  match startable s e be with
  | none => s
  | some r =>
    if !p r.raw then s else
    let j := mk s r
    let u := newRun s e r
    let s1 := j.start (startRun e r s)
    if dieBytes s j.reads = 0 then doJob u j s1 else memRequests e be (dieReads s j.reads) s1

end Sys2Proof.Machine
end

