-- ==== Sys2Proof/Machine/Score.lean ====
section
/-! DEFINITION. SCORE: the exact accumulator, the binary32 tree, candidate mode, shapes and times, and tile failures (spec/03). -/

namespace Sys2Proof.Machine

/-! ### The exact accumulator (R78 to R84) -/

/-- An accumulator: A in units of 2^-96 and its five flags (R78). -/
structure Acc where
  a : Int := 0
  nan : Bool := false
  pinf : Bool := false
  ninf : Bool := false
  rhi : Bool := false
  rlo : Bool := false
deriving DecidableEq, Repr

/-- The range limit in units of 2^-96 (R79). -/
def accMax : Int := 2 ^ 175 - 1

/-- Round m / 2^k to the nearest integer, ties to even. -/
def halfEven (m k : Nat) : Nat :=
  let lo := m % 2 ^ k
  let hi := m / 2 ^ k
  if k = 0 then m else if lo > 2 ^ (k - 1) || (lo == 2 ^ (k - 1) && hi % 2 == 1) then hi + 1 else hi

/-- Add one product to an accumulator (R79, R80). -/
def accTerm (c : Acc) (p : Val) : Acc :=
  match p with
  | .nan => { c with nan := true }
  | .inf n => if n then { c with ninf := true } else { c with pinf := true }
  | .fin neg m e =>
    let k := e + 96
    if 0 ≤ k then
      let q : Int := ((m * 2 ^ k.toNat : Nat) : Int)
      if accMax < q then { c with a := c.a + (if neg then -accMax else accMax), rhi := true }
      else { c with a := c.a + (if neg then -q else q) }
    else
      let sh := (-k).toNat
      if ((2 ^ 175 - 1) * 2 ^ sh : Nat) < m then { c with a := c.a + (if neg then -accMax else accMax), rhi := true }
      else
        let q : Int := (halfEven m sh : Nat)
        { c with a := c.a + (if neg then -q else q), rlo := c.rlo || decide (m % 2 ^ sh ≠ 0) }

/-- Sum of two accumulators: A added, flags ORed (R83, R95). -/
def accAdd (x y : Acc) : Acc :=
  { a := x.a + y.a, nan := x.nan || y.nan, pinf := x.pinf || y.pinf, ninf := x.ninf || y.ninf, rhi := x.rhi || y.rhi, rlo := x.rlo || y.rlo }

/-- The 32-byte partial record as a number (R83). -/
def accCode (c : Acc) : Nat :=
  wrapInt 192 c.a + (b2n c.nan + b2n c.pinf * 2 + b2n c.ninf * 4 + b2n c.rhi * 8 + b2n c.rlo * 16) * 2 ^ 192

/-- The accumulator of a partial record. -/
def accOf (v : Nat) : Acc :=
  { a := sext 192 v, nan := bit v 192, pinf := bit v 193, ninf := bit v 194, rhi := bit v 195, rlo := bit v 196 }

/-- finish of R81: the binary32 code, and whether it saturated. -/
def accFinish (c : Acc) : Nat × Bool :=
  if c.nan || (c.pinf && c.ninf) then (0x7FC00000, false)
  else if c.pinf then (0x7F800000, false)
  else if c.ninf then (0xFF800000, false)
  else
    let a := max (-accMax) (min accMax c.a)
    (if a = 0 then 0 else toF32 (ofInt a (-96)), decide (a ≠ c.a))

/-! ### The binary32 tree (R85) -/

/-- Sums of adjacent pairs. -/
def pairSums : List Nat → List Nat
  | a :: b :: t => addF32 a b :: pairSums t
  | [a] => [a]
  | [] => []

/-- Pairwise levels until one value remains; an odd last value passes up. -/
def pairTree : Nat → List Nat → Nat
  | 0, l => l.headD 0
  | n + 1, l => match l with
    | [a] => a
    | [] => 0
    | l => pairTree n (pairSums l)

/-- dot_tree of R85 over the products' codes, padded with +0 to chunks of 32. -/
def dotTree (v : List Nat) : Nat :=
  let m := ceilDiv v.length 32
  let pad := v ++ List.replicate (m * 32 - v.length) 0
  pairTree 16 ((chunksOf 32 m pad).map (fun c => pairTree 6 c))

/-! ### A command's operands (R75, R87, R89, R90) -/

/-- Operand formats of the exact set (R77). -/
def fmtExact (f : Nat) : Bool := decide (3 ≤ f) && decide (f ≤ 0x0A)
/-- BF16 or FP16. -/
def fmtHalf (f : Nat) : Bool := f == 1 || f == 2

/-- The product of element i of token t and of weight row x. -/
def scoreProd (s : State) (da dw : Desc) (t x i : Nat) : Val :=
  mulVal (readVal s da [i, t, 0, 0, 0]).1 (readVal s dw [i, x, 0, 0, 0]).1

/-- The accumulator of one (token, weight row) pair (R79, R80). -/
def scoreAcc (s : State) (da dw : Desc) (t x : Nat) : Acc :=
  (List.range (da.sz 0)).foldl (fun c i => accTerm c (scoreProd s da dw t x i)) {}

/-- The tree logit of one pair, and whether a finite product overflowed in its rounding by R44 (R46, R85; log entry 54). -/
def scoreTree (s : State) (da dw : Desc) (t x : Nat) : Nat × Bool :=
  let ps := (List.range (da.sz 0)).map (fun i => convert fpF32 false (scoreProd s da dw t x i))
  (dotTree (ps.map Conv.code), ps.any Conv.ovf)

/-- One logit and what it reports: code, RANGE, RANGE_LOW, counts in RANGE_CNT, an overflow of R46; `free`: its code is undefined (R84). -/
structure Logit where
  code : Nat
  range : Bool := false
  low : Bool := false
  counted : Bool := false
  ovf : Bool := false
  free : Bool := false
deriving DecidableEq, Repr

/-- The logit of a finished accumulator `c` (R81). RANGE and RANGE_LOW are set by the command's own terms, those of `own`, and by the final
saturation (R79). -/
def logitOf (own c : Acc) : Logit :=
  let f := accFinish c
  { code := f.1, range := own.rhi || own.rlo || f.2, low := own.rlo, counted := c.rhi || c.rlo || f.2 }

/-- The fewest products that can stand behind a partial record whose writer is not known (R79, R83). -/
def accFewest (c : Acc) : Nat :=
  max (ceilDiv c.a.natAbs (2 ^ 175 - 1)) (b2n (c.nan || c.pinf || c.ninf || c.rhi || c.rlo))

/-- The products folded into the partial record at an address that holds `v`: what its writer noted, else the fewest its value shows (R84; log entry
61). -/
def foldedAt (s : State) (a v : Nat) : Nat :=
  match s.folded.find? (fun e => e.1 == (phys s a).getD a && e.2.1 == v) with
  | some e => e.2.2
  | none => accFewest (accOf v)

/-- Note the products folded into partial records as they are written: address, value, products (R84). -/
def noteFolded (l : List (Addr × Nat × Nat)) (s : State) : State :=
  let l := l.map (fun e => ((phys s e.1).getD e.1, e.2))
  { s with folded := l ++ s.folded.filter (fun e => !(l.any (fun x => x.1 == e.1))) }

/-- More products than R84 allows were folded together: the logit is undefined (R20). -/
def pastLimit (k other : Nat) : Bool := decide (32768 < k + other)

/-- The logit as it is written: where R84 leaves it undefined a free code, of which nothing else is reported than the own terms' events (R20, R79). -/
def Logit.orFree (l : Logit) (own : Acc) (past : Bool) (s : State) (i : Nat) : Logit :=
  if past then { code := freeF32 s i, range := own.rhi || own.rlo, low := own.rlo, counted := own.rhi || own.rlo, free := true } else l

/-- The logit of a pair in the arithmetic its formats choose (R77). -/
def scoreLogit (s : State) (da dw : Desc) (t x : Nat) : Logit :=
  if fmtHalf da.fmt then { code := (scoreTree s da dw t x).1, ovf := (scoreTree s da dw t x).2 }
  else logitOf (scoreAcc s da dw t x) (scoreAcc s da dw t x)

/-- Group j of token t's list, clamped to NG − 1, and whether it was (R88). -/
def groupOf (s : State) (dg : Desc) (ng t j : Nat) : Nat × Bool :=
  let g := (readRaw s dg [j, t, 0, 0, 0]).1
  if g < ng then (g, false) else (ng - 1, true)

/-- RANGE and RANGE_LOW for a command's own terms (R79). -/
def accStatus (l : List Acc) (s : State) : State :=
  raiseIf (l.any Acc.rlo) Reg.SCORE_STAT 1 (raiseIf (l.any (fun a => a.rhi || a.rlo)) Reg.SCORE_STAT 0 s)

/-- Set SCORE's status for logits that are written (R79, R81); an undefined one reaches no register (R20). -/
def scoreStatus (l : List Logit) (s : State) : State :=
  let v (p : Val → Bool) : Bool := l.any (fun x => !x.free && p (ofF32 x.code))
  let s := bump Reg.SCORE_RANGE_CNT (l.filter Logit.counted).length s
  raiseIf (v (fun x => match x with | .inf _ => true | _ => false)) Reg.SCORE_STAT 3
    (raiseIf (v Val.isNan) Reg.SCORE_STAT 2
      (raiseIf (l.any Logit.low) Reg.SCORE_STAT 1 (raiseIf (l.any Logit.range) Reg.SCORE_STAT 0 s)))

/-! ### Shapes and times (R72 to R76, R92 to R96) -/

/-- R and C of a shape code; the degraded state halves one side (R73). -/
def shapeRC (degraded : Bool) (sh : Nat) : Nat × Nat :=
  match sh with
  | 2 => if degraded then (128, 32) else (256, 32)
  | 3 => if degraded then (8, 512) else (8, 1024)
  | 4 => if degraded then (2, 2048) else (2, 4096)
  | _ => if degraded then (32, 128) else (32, 256)

/-- Element cycles per element step, as numerator and denominator (R72). -/
def scoreRate (fa fw : Nat) : Nat × Nat := if fa = 9 ∧ fw = 9 then (1, 2) else if fmtHalf fa then (2, 1) else (1, 1)

/-- The split s of R74. -/
def scoreSplit (half : Bool) (c eb k : Nat) : Nat :=
  if half then 1 else 2 ^ Nat.log2 (max 1 (min (c / max 1 eb) (ceilDiv k 32)))

/-- Bytes of a weight row, scales included (R93). -/
def rowBytes (k fw : Nat) : Nat := k * fmtBits fw / 8 + (if fmtMx fw then k / 32 else 0)

/-- max(tc, tw) + 24 of a pass with eb columns used. -/
def passTime (fa fw c eb k w : Nat) : Nat :=
  let sp := scoreSplit (fmtHalf fa) c eb k
  let l := roundUp (ceilDiv k sp) 32
  let f := scoreRate fa fw
  max (ceilDiv (l * f.1) f.2) (ceilDiv (eb * rowBytes k fw) w) + 24

/-- Sum over expert blocks of width c. -/
def blockSum (fa fw c k w : Nat) : Nat → Nat → Nat
  | 0, _ => 0
  | n + 1, e => if e = 0 then 0 else passTime fa fw c (min c e) k w + blockSum fa fw c k w n (e - min c e)

/-- The weight channel's rate (R76). -/
def weightRate (d : Desc) : Nat := if Config.dieSram (span d).1 (span d).2 then 1024 else 192

/-- score_cycles of R93; with a candidate group size the pass sum is that of R94. -/
def scoreCycles (degraded : Bool) (sh n e k fa fw w : Nat) (outAcc accIn : Bool) (cand : Option (Nat × Nat)) : Nat :=
  let rc := shapeRC degraded sh
  let body := match cand with
    | none => ceilDiv n rc.1 * blockSum fa fw rc.2 k w (e + 1) e
    | some (g, gs) =>
      ceilDiv gs rc.2 * (min (e / max 1 gs) (n * g) + n * g / rc.1) * passTime fa fw rc.2 (min rc.2 gs) k w
  64 + body + ceilDiv (n * e * (if outAcc then 32 else 4)) 64 + (if accIn then ceilDiv (n * e * 32) 512 else 0)

/-- Bound of a record under a shape. -/
def scoreTime (degraded : Bool) (r : Record) (da dw : Desc) (sh : Nat) : Nat :=
  scoreCycles degraded sh (da.sz 1) (dw.sz 1) (da.sz 0) da.fmt dw.fmt (weightRate dw) (bit (rParam r) 3) (bit (rParam r) 4) (scoreCand r)

/-- The shape a start uses (R92): the least time, ties in the order default, flat, very flat, tall. -/
def scoreShape (degraded auto : Bool) (r : Record) (da dw : Desc) : Nat :=
  let want := rPar r 2 0
  if want ≠ 0 then want else if !auto then 1 else
  [3, 4, 2].foldl (fun b sh => if scoreTime degraded r da dw sh < scoreTime degraded r da dw b then sh else b) 1

/-- The array is degraded (R100). -/
def scoreDegraded (s : State) : Bool := flag s Reg.SCORE_TILE_MAP 13

/-- LAST_SHAPE of the command's start (R92). -/
def scoreStart (s0 : State) (r : RingRec) (s : State) : State :=
  let da := descAt s0 (rPtr r.raw 1)
  let dw := descAt s0 (rPtr r.raw 2)
  setFld Reg.SCORE_STAT 8 6 (scoreShape (scoreDegraded s0) (bit (bReg (boundOf s0 r.step) Reg.SCORE_CFG) 0) r.raw da dw) s

/-! ### The work of a SCORE record -/

/-- The partial record of the fourth operand for a pair, and the products behind it; empty without ACC_IN_EN (R83, R84). -/
def scoreIn (s : State) (r : Record) (t x : Nat) : Acc × Nat :=
  if bit (rParam r) 4 then
    let a := ((descAt s (rPtr r 4)).place [32 * x, t, 0, 0, 0]).1
    let v := rdLe s a 32
    (accOf v, foldedAt s a v)
  else ({}, 0)

/-- The logits of an ordinary or a candidate SCORE with their output coordinates, and the clamped list entries. -/
def scoreOuts (s : State) (r : Record) (da dw : Desc) : List (List Nat × Logit) × Nat :=
  match scoreCand r with
  | none =>
    ((List.range (da.sz 1)).flatMap (fun t => (List.range (dw.sz 1)).map (fun x =>
      ([x, t, 0, 0, 0],
        if bit (rParam r) 4 then
          let own := scoreAcc s da dw t x
          let more := scoreIn s r t x
          (logitOf own (accAdd own more.1)).orFree own (pastLimit (da.sz 0) more.2) s (t * dw.sz 1 + x)
        else scoreLogit s da dw t x))), 0)
  | some (g, gs) =>
    let dg := descAt s (rPtr r 4)
    let ng := dw.sz 1 / gs
    let l := (List.range (da.sz 1)).flatMap (fun t => (List.range g).map (fun j => (t, j, groupOf s dg ng t j)))
    (l.flatMap (fun q => (List.range gs).map (fun i => ([q.2.1 * gs + i, q.1, 0, 0, 0], scoreLogit s da dw q.1 (q.2.2.1 * gs + i)))),
     (l.filter (fun q => q.2.2.2)).length)

/-- The weight rows a SCORE streams: all, or in candidate mode those of the groups some token lists, in ascending order of their index (R87). -/
def scoreRowsRead (s : State) (r : Record) (da dw : Desc) : List Nat :=
  match scoreCand r with
  | none => List.range (dw.sz 1)
  | some (g, gs) =>
    let dg := descAt s (rPtr r 4)
    let ls := sortBy (fun a b => decide (a ≤ b)) ((List.range (da.sz 1)).flatMap (fun t => (List.range g).map (fun j => (groupOf s dg (dw.sz 1 / gs) t j).1))).dedup
    ls.flatMap (fun l => (List.range gs).map (fun i => l * gs + i))

/-- What a SCORE reads: the tokens, the weight rows it streams, its fourth operand. -/
def scoreReads (s : State) (r : Record) (da dw : Desc) : List (Addr × Nat) :=
  touches s da ++ (scoreRowsRead s r da dw).flatMap (fun x => (List.range (dw.sz 0)).flatMap (fun i => elemTouches s dw [i, x, 0, 0, 0]))
    ++ (if rPtr r 4 = 0 then [] else touches s (descAt s (rPtr r 4)))

/-- The record's work (R75 to R94). An empty operand, no token or k = 0, leaves nothing to do (R437). -/
def scoreJob (s : State) (r : RingRec) : Job :=
  let da := descAt s (rPtr r.raw 1)
  let dw := descAt s (rPtr r.raw 2)
  let dd := descAt s (rPtr r.raw 3)
  let sh := scoreShape (scoreDegraded s) (bit (bReg (boundOf s r.step) Reg.SCORE_CFG) 0) r.raw da dw
  let base : Job := { start := scoreStart s r, reads := [], busyLo := Reg.SCORE_BUSY_LO,
                      bound := scoreTime (scoreDegraded s) r.raw da dw sh, outs := [rPtr r.raw 3] }
  if da.empty || dw.empty then base else
  let base := { base with reads := scoreReads s r.raw da dw }
  let macs (s1 : State) : State := bump64 Reg.SCORE_MAC_LO (scoreMacs s r) s1
  if bit (rParam r.raw) 3 then
    let own := (List.range (da.sz 1)).flatMap (fun t => (List.range (dw.sz 1)).map (fun x => (t, x, scoreAcc s da dw t x)))
    let code (q : Nat × Nat × Acc) : Nat := accCode (accAdd q.2.2 (scoreIn s r.raw q.1 q.2.1).1)
    { base with
      writes := own.flatMap (fun q => (withIdx 0 (leBytes 32 (code q))).flatMap (fun b => dd.putCode [32 * q.2.1 + b.1, q.1, 0, 0, 0] b.2.toNat)),
      rep := accStatus (own.map (fun q => q.2.2)),
      after := fun t => noteFolded (own.map (fun q => ((dd.place [32 * q.2.1, q.1, 0, 0, 0]).1, code q, da.sz 0 + (scoreIn s r.raw q.1 q.2.1).2))) (macs t) }
  else
    let o := scoreOuts s r.raw da dw
    { base with
      writes := o.1.flatMap (fun q => dd.putCode q.1 q.2.code), fx := { clamp := o.2, ovf := o.1.any (fun q => q.2.ovf) },
      rep := scoreStatus (o.1.map Prod.snd), after := fun s => macs (if bit (rParam r.raw) 4 then tick s else s) }

/-! ### Tile failures (R98, R99) -/

/-- A failed check on tile t: its FAILED bit, the last tile and the count; TILE_FAULT when it was active (R99 names it for an active tile, R102
for any failed check: that the lightship's sets none is a DESIGN CHOICE, log entry 94). -/
def tileFailed (t : Nat) (s : State) : State :=
  let act := flag s Reg.SCORE_TILE_MAP t
  let e := reg s Reg.SCORE_TILE_ERR
  let s := setReg Reg.SCORE_TILE_ERR (t % 16 + min (e / 2 ^ 16 + 1) 0xFFFF * 2 ^ 16) s
  raiseIf act Reg.SCORE_STAT 4 (raiseBit Reg.SCORE_TILE_FAIL t s)

/-- Run a SCORE-engine record under an observed failed check: an active tile's kills the step, the lightship's does not (R99). -/
def withTile (be : Bool) (fail : Option Nat) (p : Record → Bool) (run : State → State) (s : State) : State :=
  match fail with
  | none => run s
  | some t =>
    if 9 ≤ t || flag s Reg.SCORE_TILE_FAIL t then run s
    else match startable s 0 be with
      | none => s
      | some r =>
        if !p r.raw then s
        else if flag s Reg.SCORE_TILE_MAP t then
          raiseKill .unitFailure (some r.step) (tileFailed t (scoreStart s r (startRun 0 r s)))
        else if fld s Reg.SCORE_TILE_MAP 12 9 = t then run (setFld Reg.SCORE_TILE_MAP 12 9 0xF (tileFailed t s))
        else run s

/-- SCORE starts (R72 to R94). -/
def startScore (be : Bool) (fail : Option Nat) (s : State) : State :=
  withTile be fail (fun r => rOp r == 0x01) (runJob 0 be (fun r => rOp r == 0x01) scoreJob) s

/-- SCORE (R93). -/
def execScore (be : Bool) (fail : Option Nat) (s : State) : Host.Outcome State Fault Refusal := finish (startScore be fail s)

end Sys2Proof.Machine
end

