-- ==== Sys2Proof/Machine/LightList.lean ====
section
/-! DEFINITION. The light list: lines, lookups, requests, directory service, ownership and replica lines (spec/06 R153 to R159, R168, R177). -/

namespace Sys2Proof.Machine

/-! ### Lines (R153) -/

def lineHomeCl (l : BitVec 256) : Nat := lBits l 0 53 52
def lineWbase (l : BitVec 256) : Addr := lBits l 8 47 0
def lineWb4k (l : BitVec 256) : Nat := lBits l 16 23 0
/-- Placement n of a line, 1 to 3: DA, cluster, kind. -/
def linePlace (l : BitVec 256) (n : Nat) : Nat × Nat × Nat :=
  match n with
  | 1 => (lBits l 16 43 24, lBits l 16 45 44, lBits l 16 47 46)
  | 2 => (lBits l 24 19 0, lBits l 24 21 20, lBits l 24 23 22)
  | _ => (lBits l 24 43 24, lBits l 24 45 44, lBits l 24 47 46)
/-- Replica fields: slot, age, live bank. -/
def lineSlot (l : BitVec 256) : Nat := lBits l 16 31 24
def lineAge (l : BitVec 256) : Nat := lBits l 16 47 32
def lineBank (l : BitVec 256) : Nat := lBits l 8 48 48

/-- Replace bits [hi:lo] of the eight bytes at byte b of a line. -/
def lSet (l : BitVec 256) (b hi lo v : Nat) : BitVec 256 := BitVec.ofNat 256 (setBits l.toNat (8 * b + hi) (8 * b + lo) v)

/-- DA and cluster of a placement ordinal, home where it is not ACTIVE, and whether that edge case arose (R154). -/
def lineFinal (l : BitVec 256) (place : Nat) : Nat × Nat × Bool :=
  if place = 0 then (lineHome l, lineHomeCl l, false)
  else
    let p := linePlace l place
    if p.2.2 = 1 then (p.1, p.2.1, false) else (lineHome l, lineHomeCl l, true)

/-- Every rule of R154 on an installed line; `members` are the partition's dies. -/
def lineOk (members : List Nat) (l : BitVec 256) : Bool :=
  let ps := [linePlace l 1, linePlace l 2, linePlace l 3]
  let kinds := ps.map (fun p => p.2.2)
  let used := lineHome l :: (ps.filter (fun p => p.2.2 != 0)).map Prod.fst
  let order (k : Nat) : Nat := match k with | 1 => 0 | 2 => 1 | 0 => 2 | _ => 3
  let w := kinds.map order
  let at' (i : Nat) : Nat := w.getD i 3
  lineValid l && decide (at' 0 ≤ at' 1) && decide (at' 1 ≤ at' 2) && decide (at' 2 < 3) && kinds.contains 2
    && used.Nodup && used.all (fun d => members.contains d) && used.all (fun d => bits d 16 15 == bits (lineHome l) 16 15)
    && lBits l 0 31 30 == 0 && lBits l 0 55 54 == 0 && lBits l 8 63 48 == 0 && lBits l 16 63 48 == 0 && lBits l 24 63 48 == 0
    && lBits l 0 28 28 == 0

/-! ### Gateways (R161) -/

/-- The same rack of the same pod (R6). -/
def sameRack (a b : Nat) : Bool := bits a 16 11 == bits b 16 11

/-- The gateway for FINAL, if a row serves it (R161): the HOP, and whether NGW was 0. -/
def gatewayFor (s : State) (v : Version) (final : Nat) : Option Nat :=
  let o := ownDa s
  let row := if bits final 16 15 = bits o 16 15 then bits final 14 11 else 16 + bits final 16 15
  let a := v.gwBase + 32 * row
  let ngw := rdLe s a 1
  if ngw = 0 then none else some (rdLe s (a + 4 + 4 * (o % 64 % ngw)) 4 % 2 ^ 20)

/-- Every die of a line's placements lies in the own rack or is served by a row of a version's gateway table (R161). -/
def lineServed (s : State) (v : Version) (l : BitVec 256) : Bool :=
  (lineHome l :: ([1, 2, 3].map (linePlace l)).filterMap (fun p => if p.2.2 = 0 then none else some p.1)).all (fun d =>
    sameRack d (ownDa s) || (gatewayFor s v d).isSome)

/-! ### The cache and the directory (R155 to R158) -/

/-- The published copy of a key in an epoch. -/
def llGet (s : State) (ep : Bool) (key : Nat) : Option LLine := s.ll.find? (fun x => x.epoch == ep && !x.next && lineKey x.data == key)

/-- The copy that the next flip publishes. -/
def llNext (s : State) (key : Nat) : Option LLine := s.ll.find? (fun x => x.next && lineKey x.data == key)

/-- The epoch whose lines a next copy will join. -/
def nextEpoch (s : State) : Bool := !(curEpoch s)

/-- Put a next copy of a line this slice is the directory of. -/
def putNext (data : BitVec 256) (s : State) : State :=
  { s with ll := s.ll.filter (fun x => !(x.next && lineKey x.data == lineKey data))
      ++ [{ epoch := nextEpoch s, data := data, pinned := false, dir := true, next := true }] }

/-- A line that stands in the cache, not in the directory and not with a command that waits (R5, R156; log entry 19). -/
def LLine.cached (x : LLine) : Bool := !x.dir && !x.aside

/-- Lines in the cache, of both versions together (R5, R156; log entry 19). -/
def llCached (s : State) : Nat := (s.ll.filter LLine.cached).length

/-- Pinned lines of a version (R157). -/
def llPinned (s : State) (ep : Bool) : Nat :=
  ((s.ll.filter (fun x => x.pinned && !x.next && x.epoch == ep)).map (fun x => lineKey x.data)).dedup.length

/-- PIN_LIMIT of a version: of the one being prepared the value taken in stage 1 of its flip (R213). -/
def pinLimit (s : State) (ep : Bool) : Nat :=
  match (if prep s && ep == s.flip.target then s.flip.taken.find? (fun e => e.1 == Reg.SORT_LL_PIN) else none) with
  | some e => bits e.2.toNat 30 16
  | none => fld s Reg.SORT_LL_PIN 30 16

/-- A pin of one more line of a version is beyond its PIN_LIMIT, or the cache holds pinned lines only (R5, R157; log entry 19). -/
def pinFull (s : State) (ep : Bool) : Bool :=
  decide (pinLimit s ep ≤ llPinned s ep) || decide (16384 ≤ (s.ll.filter (fun x => x.cached && x.pinned)).length)

/-- Keep a line answered by a directory. -/
def llKeep (ep : Bool) (data : BitVec 256) (pin : Bool) (s : State) : State :=
  let s := { s with ll := s.ll.filter (fun x => !(x.epoch == ep && !x.next && !x.dir && lineKey x.data == lineKey data)) }
  let full := pin && pinFull s ep
  raiseIf full Reg.SORT_LL_STAT 3 { s with ll := s.ll ++ [{ epoch := ep, data := data, pinned := pin && !full, dir := false, next := false }] }

/-- Send waiting pin requests while fewer than 64 are outstanding; n bounds them (R353). -/
def sendPins : Nat → State → State
  | 0, s => s
  | n + 1, s =>
    if 64 ≤ (s.llReqs.filter (fun r => r.pin && !r.own && !r.queued)).length then s else
    match s.llReqs.find? (fun r => r.queued) with
    | none => s
    | some q => sendPins n (inject (llRequest s (keyDir s q.epoch q.key) q.key false false q.epoch)
        { s with llReqs := modFirst (fun r => r == q) (fun r => { r with queued := false }) s.llReqs })

/-- Pin one line of the working set in one version: a held one at once, another by LL_REQ READ; a replica line has no directory but its holder
(R155, R157, R353). -/
def pinIn (ep : Bool) (key : Nat) (s : State) : State :=
  if pinFull s ep then raiseBit Reg.SORT_LL_STAT 3 s
  else if (llGet s ep key).isSome then
    { s with ll := s.ll.map (fun x => if x.epoch = ep ∧ x.next = false ∧ lineKey x.data = key then { x with pinned := true } else x) }
  else if bit key 28 then s
  else if s.llReqs.any (fun r => r.key == key && r.epoch == ep && !r.own) then
    { s with llReqs := s.llReqs.map (fun r => if r.key = key ∧ r.epoch = ep ∧ r.own = false then { r with pin := true } else r) }
  else
    sendPins 1 { s with llReqs := s.llReqs ++ [{ key := key, own := false, retry := false, pin := true, epoch := ep, queued := true }] }

/-- What a lookup finds: a valid line, no valid line, or a miss (R156, R157, R438). -/
inductive Look where
  | line (l : BitVec 256)
  | invalid
  | miss
deriving DecidableEq, Repr

/-- Look a placement line up in an epoch; a line this slice is the directory of and does not hold is not valid (R438). -/
def llLook (s : State) (ep : Bool) (model layer x : Nat) : Look :=
  match llGet s ep (llKey 0 model layer x) with
  | some e => if lineValid e.data then .line e.data else .invalid
  | none => if homeDir s ep model layer x = ownDa s then .invalid else .miss

/-- The line, or all zero where a lookup gives none. -/
def llLine (s : State) (ep : Bool) (model layer x : Nat) : BitVec 256 :=
  match llLook s ep model layer x with
  | .line l => l
  | _ => 0

/-- The experts among a list whose lookup misses. -/
def llMissing (s : State) (ep : Bool) (model layer : Nat) (xs : List Nat) : List Nat :=
  xs.dedup.filter (fun x => llLook s ep model layer x == .miss)

/-- Ask the directories for missing lines, each once; every miss counts (R157). -/
def llAsk (ep : Bool) (be pin : Bool) (model layer : Nat) (xs : List Nat) (s : State) : State :=
  xs.foldl (fun s x =>
    let key := llKey 0 model layer x
    let s := raiseBit Reg.SORT_LL_STAT 2 (bump Reg.SORT_LL_MISS_CNT 1 s)
    if s.llReqs.any (fun r => r.key == key && r.epoch == ep && !r.own) then s
    else inject (llRequest s (homeDir s ep model layer x) key false be ep)
      { s with llReqs := s.llReqs ++ [{ key := key, own := false, retry := false, pin := pin, epoch := ep, queued := false }] }) s

/-! ### Replica slots (R168, R169, R177, R210) -/

/-- Version of an epoch (R213). -/
def verFor (s : State) (ep : Bool) : Version := verOf s ep

/-- slot(x, ℓ) of R168. -/
def slotOf (rs x layer : Nat) : Nat := (x + 257 * layer) % (max 1 rs)

/-- Own replica lines as they now stand: the next copy where there is one, else the newest published one (R158). -/
def ownReplicas (s : State) : List (BitVec 256) :=
  let mine (x : LLine) : Bool := x.dir && lBits x.data 0 28 28 == 1
  let nx := s.ll.filter (fun x => mine x && x.next)
  let newest := if prep s then s.flip.target else curEpoch s
  let pub := s.ll.filter (fun x => mine x && !x.next && x.epoch == newest && !(nx.any (fun y => lineKey y.data == lineKey x.data)))
  ((nx ++ pub).map LLine.data).filter lineValid

/-- The resident replica in a slot. -/
def residentIn (s : State) (slot : Nat) : Option (BitVec 256) := (ownReplicas s).find? (fun l => lineSlot l == slot)

/-- The pending bank of a slot (R210). -/
def pendingBank (s : State) (slot : Nat) : Nat := match residentIn s slot with | some l => 1 - lineBank l | none => 0

/-- Address of a bank of a slot (R210). -/
def bankAddr (v : Version) (slot bank : Nat) : Addr := v.storeBase + (2 * slot + bank) * v.slot4k * 4096

/-- Write an own replica line, its VERSION one higher (R153, R177). -/
def putReplica (l : BitVec 256) (s : State) : State := putNext (lSet l 0 63 56 ((lBits l 0 63 56 + 1) % 256)) s

/-- The replica slots of two versions differ in number or size: every resident replica is dropped at the flip between them (R168). -/
def slotsDiffer (v w : Version) : Bool := v.rs != w.rs || v.slot4k != w.slot4k

/-- The replica updates of a COMMIT (R177); a step of a version whose slots are gone leaves none (R168). -/
def commitReplicas (x : Step) (s : State) : State :=
  if x.epoch != curEpoch s && slotsDiffer (verFor s x.epoch) (verFor s (curEpoch s)) then s else
  let hits := x.hits
  let old := ownReplicas s
  let evicted (l : BitVec 256) : Bool := x.fetches.any (fun n => n.slot == lineSlot l)
  let isHit (l : BitVec 256) : Bool := hits.any (fun n => llKey 1 n.model n.layer n.expert == lineKey l)
  let s := (old.filter evicted).foldl (fun s l =>
    raiseBit Reg.SORT_PLAN_STAT 1 (bump Reg.SORT_PLAN_EVICT_CNT 1 (putReplica (lSet l 0 29 29 0) s))) s
  let s := x.fetches.foldl (fun s n =>
    let line := llLine s x.epoch n.model n.layer n.expert
    let v := verFor s x.epoch
    let w := llKey 1 n.model n.layer n.expert + 2 ^ 29 + lineHome line * 2 ^ 32 + (n.slot % 4) * 2 ^ 52
      + (bankAddr v n.slot n.bank + n.bank * 2 ^ 48) * 2 ^ 64 + (n.total + n.slot * 2 ^ 24) * 2 ^ 128
    putReplica (BitVec.ofNat 256 w) s) s
  (old.filter (fun l => !(evicted l))).foldl (fun s l =>
    putReplica (lSet l 16 47 32 (if isHit l then 0 else min (lineAge l + 1) 65535)) s) s

/-! ### Placement counts (R137, R151, R154, R353) -/

/-- The placement line the Keeper counts an expert's placements from: the published one it holds, else its image's (log entry 63). -/
def countLine (s : State) (model layer e : Nat) : Option (BitVec 256) :=
  let key := llKey 0 model layer e
  match llGet s (curEpoch s) key with
  | some l => some l.data
  | none => match modelHdr s model with
    | some h => (imageLinesOf s (hdrAt h 8 6) model).find? (fun l => lineKey l == key)
    | none => none

/-- PCNT: 1 and the ACTIVE placements (R154). -/
def lineCount (l : BitVec 256) : Nat := 1 + ([1, 2, 3].filter (fun n => (linePlace l n).2.2 == 1)).length

/-- The PCNT vectors in the active model's streamed image are rewritten: at a switch, and when its published placements change (R151, R353, R389). -/
def rewritePcnt (s : State) : State :=
  match activeModel s with
  | none => s
  | some m => match modelHdr s m with
    | none => s
    | some h =>
      let l := (Config.pcntPlaces h).filter (fun e => decide (e.1 < hdrAt h 16 4))
      keeperWrite (l.flatMap (fun e => wrBytes (hdrAt h 24 6 + e.1)
        (leBytes 1 (match countLine s m e.2.1 e.2.2 with | some x => lineCount x | none => 1)))) s

/-! ### Directory service (R158, R159, R438) -/

/-- An LL_GRANT (R188): STATUS 0 DATA, 1 GRANT, 2 LL_RETRY. -/
def llGrant (p : Packet) (status : Nat) (payload : List Byte) (s : State) : State :=
  inject (mkPacket s { typ := 12, dst := pSrc p, be := pBe p, epoch := pEpoch p, layer := pLayer p, half := pHalf p, model := pModel p,
                       kgen := pKgen p, ts := tsAt 16 (pTs p 16 28 0) + tsAt 20 status } payload) s

/-- The line a directory answers a READ with; VALID = 0 where it holds none (R438). -/
def dirLine (s : State) (ep : Bool) (key : Nat) : BitVec 256 :=
  match s.ll.find? (fun x => x.dir && x.epoch == ep && !x.next && lineKey x.data == key) with
  | some e => e.data
  | none => BitVec.ofNat 256 key

/-- LL_REQ READ at the directory (R158). -/
def onLlRead (p : Packet) (s : State) : State :=
  if pTs p 20 0 0 ≠ 0 then s else llGrant p 0 (leBytes 32 (dirLine s (pEpoch p) (pTs p 16 28 0)).toNat) s

/-- LL_REQ OWN at the directory; rivals are the other requesters of the same cycle, one of which may have been granted before this one is looked at
(R159, R213, R362). -/
def onLlOwn (p : Packet) (rivals : List DA) (s : State) : State :=
  if pTs p 20 0 0 ≠ 1 then s else
  let key := pTs p 16 28 0
  match s.llOwners.find? (fun o => o.1 == key && o.2 != pSrc p) with
  | some o => let s := llGrant p 2 [] s; if rivals.any (fun d => d.toNat == o.2) then s else tdc 2 s
  | none =>
  if prep s || rivals.any (fun d => decide (d.toNat < pSrc p)) then llGrant p 2 [] s
  else
    let line := match llNext s key with | some e => e.data | none => dirLine s (curEpoch s) key
    llGrant p 1 (leBytes 32 line.toNat) { s with llOwners := (key, pSrc p) :: s.llOwners.filter (fun o => o.1 != key) }

/-- LL_WB at the directory (R158, R159): the next copy, its VERSION one higher; only its owner may write it back. A line that breaks R154, or
that no gateway serves (R161), is not installed, the light list stays as it is. -/
def onLlWb (p : Packet) (s : State) : State :=
  let key := pTs p 16 28 0
  let s := ackAccept p s
  if !(s.llOwners.any (fun o => o.1 == key && o.2 == pSrc p)) then s else
  let data := BitVec.ofNat 256 (leAt p.payload 0 32)
  let data := lSet data 0 63 56 ((lBits data 0 63 56 + 1) % 256)
  if lineKey data ≠ key ∨ lineOk s.part.members data = false ∨ lineServed s (verOf s (curEpoch s)) data = false then { s with llOwners := s.llOwners.filter (fun o => o.1 != key) } else
  bump Reg.SORT_LL_WB_CNT 1 (putNext data { s with llOwners := s.llOwners.filter (fun o => o.1 != key) })

end Sys2Proof.Machine
end

