-- ==== Sys2Proof/Machine/Sort.lean ====
section
/-! DEFINITION. SORT and PLAN: keys, the stable sort, runs, modes, out-list, in-list, lane groups (spec/06 R160 to R183). -/

namespace Sys2Proof.Machine

/-! ### Records that wait for light-list lines (R157) -/

/-- Start a record whose lookups `need` names by (epoch, model, layer, experts): it asks for missing lines first. -/
def runLines (e : Nat) (be : Bool) (p : Record → Bool) (need : State → RingRec → Bool × Nat × Nat × List Nat)
    (mk : State → RingRec → Job) (s : State) : State :=
  match startable s e be with
  | none => s
  | some r =>
    if !p r.raw then s else
    let q := need s r
    let miss := llMissing s q.1 q.2.1 q.2.2.1 q.2.2.2
    if miss.isEmpty then runJob e be p mk s
    else llAsk q.1 be false q.2.1 q.2.2.1 miss (modRun e (fun u => { u with stage := 1 }) (startRun e r s))

/-- A record that waited for lines goes on once none is missing. -/
def resumeLines (e : Nat) (need : State → RingRec → Bool × Nat × Nat × List Nat) (mk : State → RingRec → Job) (s : State) : State :=
  match runOn s e with
  | none => s
  | some u =>
    if u.stage ≠ 1 then s else
    let q := need s u.cmd
    if !(llMissing s q.1 q.2.1 q.2.2.1 q.2.2.2).isEmpty then s else
    let s := modRun e (fun u => { u with stage := 0 }) s
    let j := mk s u.cmd
    readThen u j s

/-- The epoch of the step a record belongs to (R156). -/
def epochOf (s : State) (q : W32) : Bool := match stepAt s q with | some x => x.epoch | none => curEpoch s

/-! ### Lane groups (R164) -/

/-- A failed check on lane group t; one of the lightship sets no LANE_FAULT (DESIGN CHOICE, log entry 94). -/
def laneFailed (t : Nat) (s : State) : State :=
  raiseIf (flag s Reg.SORT_LANE_MAP t) Reg.SORT_STAT 0 (raiseBit Reg.SORT_LANE_FAIL t s)

/-- Run a SORT under an observed failed check: an active group's kills the step, the lightship's does not (R99, R164). -/
def withLane (be : Bool) (fail : Option Nat) (p : Record → Bool) (run : State → State) (s : State) : State :=
  match fail with
  | none => run s
  | some t =>
    if 5 ≤ t || flag s Reg.SORT_LANE_FAIL t then run s
    else match startable s 3 be with
      | none => s
      | some r =>
        if !p r.raw then s
        else if flag s Reg.SORT_LANE_MAP t then raiseKill .unitFailure (some r.step) (laneFailed t (startRun 3 r s))
        else if fld s Reg.SORT_LANE_MAP 7 5 = t then run (setFld Reg.SORT_LANE_MAP 7 5 7 (laneFailed t s))
        else run s

/-! ### Keys and runs (R160 to R163) -/

/-- A sorted entry: its 16 bytes of slot record, FINAL, VIA_GW, HOP, EXPERT, PLACE; its key. -/
structure Entry where
  rec16 : List Byte
  final : Nat
  viaGw : Bool
  hop : Nat
  x : Nat
  place : Nat
deriving DecidableEq, Repr

/-- The key of R160. -/
def Entry.key (e : Entry) : Nat := e.place + e.x * 4 + e.hop % 2 ^ 17 * 2 ^ 18

/-- The 32 bytes of R163. -/
def Entry.bytes (e : Entry) : List Byte := e.rec16 ++ leBytes 4 (e.final + b2n e.viaGw * 2 ^ 20) ++ leBytes 4 e.hop ++ leBytes 8 0

/-- The order of R162: stable, by key. -/
def sortEntries (l : List Entry) : List Entry := sortBy (fun a b => decide (a.key ≤ b.key)) l

/-- A run: its first entry, the index of it, how many (R163). -/
structure Rn where
  e : Entry
  first : Nat
  count : Nat
deriving DecidableEq, Repr

/-- Maximal sequences of equal key and FINAL, in order; i counts the entries before. -/
def runsOf : Nat → List Entry → List Rn → List Rn
  | _, [], acc => acc.reverse
  | i, e :: t, [] => runsOf (i + 1) t [{ e := e, first := i, count := 1 }]
  | i, e :: t, r :: acc =>
    if e.key = r.e.key ∧ e.final = r.e.final then runsOf (i + 1) t ({ r with count := r.count + 1 } :: acc)
    else runsOf (i + 1) t ({ e := e, first := i, count := 1 } :: r :: acc)

/-- A run record (R163). -/
def Rn.bytes (r : Rn) : List Byte :=
  leBytes 4 (r.e.final + r.e.place * 2 ^ 20 + b2n r.e.viaGw * 2 ^ 22) ++ leBytes 2 r.e.x ++ leBytes 2 0 ++ leBytes 4 r.first ++ leBytes 4 r.count

/-- The run list with its header (R163). -/
def runListBytes (rs : List Rn) (nslot : Nat) : List Byte :=
  leBytes 4 rs.length ++ leBytes 4 nslot ++ leBytes 8 0 ++ rs.flatMap Rn.bytes

/-- Writes of a list of bytes into the rows of a w-byte-wide UINT8 tensor. -/
def rowsWr (d : Desc) (w : Nat) (l : List Byte) : List Wr :=
  (withIdx 0 l).flatMap (fun q => d.putCode [q.1 % w, q.1 / w, 0, 0, 0] q.2.toNat)

/-- Bytes of row j of a w-byte-wide UINT8 tensor. -/
def rowRd (s : State) (d : Desc) (w j : Nat) : List Byte := (List.range w).map (fun i => BitVec.ofNat 8 (readRaw s d [i, j, 0, 0, 0]).1)

/-! ### SORT (R160 to R163, R178, R179, R438) -/

def rsHalf (r : Record) : Bool := bit (rParam r) 1
def rsModel (r : Record) : Nat := rPar r 5 2
def rsLayer (r : Record) : Nat := rPar r 13 6

/-- The slot records of the table that count, in input order, and how many were null: NULL = 1, whatever VALID holds (R160; DESIGN CHOICE,
log entry 103). -/
def sortSlots (s : State) (r : Record) : List (List Byte) × Nat :=
  let d := descAt s (rPtr r 1)
  let all := (List.range (d.sz 1)).flatMap (fun j => let b := rowRd s d 128 j; (List.range 8).map (fun k => (b.drop (16 * k)).take 16))
  let valid := all.filter (fun b => bit (leAt b 10 1) 4)
  (valid.filter (fun b => !(bit (leAt b 10 1) 2)), (all.filter (fun b => bit (leAt b 10 1) 2)).length)

/-- The lines a SORT needs. -/
def sortNeed (s : State) (r : RingRec) : Bool × Nat × Nat × List Nat :=
  (epochOf s r.step, rsModel r.raw, rsLayer r.raw, if bit (rParam r.raw) 0 then [] else (sortSlots s r.raw).1.map (fun b => leAt b 8 2))

/-- The entry of a kept slot, with the two edge cases (R154, R161). -/
def sortEntry (s : State) (ep : Bool) (model layer : Nat) (b : List Byte) : Entry × Bool × Bool :=
  let x := leAt b 8 2
  let pl := leAt b 10 1 % 4
  let f := lineFinal (llLine s ep model layer x) pl
  let place := if f.2.2 then 0 else pl
  if sameRack f.1 (ownDa s) then ({ rec16 := b, final := f.1, viaGw := false, hop := f.1, x := x, place := place }, f.2.2, false)
  else match gatewayFor s (verFor s ep) f.1 with
    | some g => ({ rec16 := b, final := f.1, viaGw := true, hop := g, x := x, place := place }, f.2.2, false)
    | none => ({ rec16 := b, final := f.1, viaGw := false, hop := f.1, x := x, place := place }, f.2.2, true)

/-- sort_cycles of R182. -/
def sortCycles (gw degraded : Bool) (n m r : Nat) : Nat :=
  64 + 3 * 280 + 6 * ceilDiv m (if degraded then 12 else 16) + ceilDiv r 4
    + (if gw then ceilDiv m 16 else ceilDiv n 4 + ceilDiv m 8)

/-- The job that writes sorted entries and runs. -/
def sortWrites (s : State) (r : RingRec) (reads : List (Addr × Nat)) (es : List Entry) (gw : Bool) (n : Nat) (rep : State → State) : Job :=
  let sorted := sortEntries es
  let runs := runsOf 0 sorted []
  { reads := reads, busyLo := Reg.SORT_BUSY_LO, outs := [rPtr r.raw 2, rPtr r.raw 3],
    bound := sortCycles gw (flag s Reg.SORT_LANE_MAP 8) n es.length runs.length,
    writes := rowsWr (descAt s (rPtr r.raw 2)) 32 (sorted.flatMap Entry.bytes)
      ++ rowsWr (descAt s (rPtr r.raw 3)) 16 (runListBytes runs sorted.length),
    rep := rep }

/-- Source-mode SORT. One that NO_LINE stops counts no null slot (DESIGN CHOICE, log entry 117). -/
def sortJob (s : State) (r : RingRec) : Job :=
  let ep := epochOf s r.step
  let kept := sortSlots s r.raw
  let d := descAt s (rPtr r.raw 1)
  let v := verFor s ep
  let reads := touches s d ++ (if v.gwBase = 0 then [] else [(v.gwBase, 640)])
  if kept.1.any (fun b => llLook s ep (rsModel r.raw) (rsLayer r.raw) (leAt b 8 2) == .invalid) then
    { reads := reads, busyLo := Reg.SORT_BUSY_LO, bound := 0, kill := some .noLine, after := raiseBit Reg.SORT_STAT 4 }
  else
    let es := kept.1.map (sortEntry s ep (rsModel r.raw) (rsLayer r.raw))
    sortWrites s r reads (es.map Prod.fst) false (d.sz 1) (fun t =>
      raiseIf (es.any (fun q => q.2.1)) Reg.SORT_STAT 1 (raiseIf (es.any (fun q => q.2.2)) Reg.SORT_STAT 2 (bump Reg.SORT_NULL_CNT kept.2 t)))

/-- The half of a step that a record names. -/
def halfAt (s : State) (q : W32) (h : Bool) : Option Half := s.halves.find? (fun x => x.step == q && x.half == h)

/-- Chunks of a token row, RB bytes as carried (R201). -/
def rowChunks (b : RegMap) : Nat := ceilDiv (bFld b Reg.SORT_PLAN_ROW 23 0) 4096

/-- Bundle slots a half expects (R174). -/
def Half.bundleIn (h : Half) : Nat := ((h.inRecs.filter (fun i => i.mode == 2)).map InRec.count).foldl (· + ·) 0

/-- Every bundle of the half has arrived in full, each slot once (R179). -/
def Half.bundlesFull (h : Half) (chunks : Nat) : Bool :=
  (h.inRecs.filter (fun i => i.mode == 2)).all (fun i => i.got.length == i.count * chunks && decide i.got.Nodup)

/-- Gateway-mode SORT (R178, R179). -/
def sortGwJob (s : State) (r : RingRec) : Job :=
  let d := descAt s (rPtr r.raw 1)
  match halfAt s r.step (rsHalf r.raw) with
  | none => { reads := [], busyLo := Reg.SORT_BUSY_LO, bound := 0, kill := some .bundleShort, after := raiseBit Reg.SORT_STAT 3 }
  | some h =>
    if !(h.bundlesFull (rowChunks (boundOf s r.step))) then
      { reads := [], busyLo := Reg.SORT_BUSY_LO, bound := 0, kill := some .bundleShort, after := raiseBit Reg.SORT_STAT 3 }
    else
      let n := min h.bundleIn (d.sz 1)
      let es := (List.range n).map (fun j =>
        let b := rowRd s d 32 j
        let f := leAt b 16 4 % 2 ^ 20
        { rec16 := b.take 16, final := f, viaGw := false, hop := f, x := leAt b 8 2, place := leAt b 10 1 % 4 : Entry })
      sortWrites s r (touches s d) es true n id

/-! ### PLAN (R165, R169 to R176) -/

def rHalf (r : Record) : Bool := bit (rParam r) 0
def rModel (r : Record) : Nat := rPar r 4 1
def rLayer (r : Record) : Nat := rPar r 12 5

/-- A run as PLAN sees it (R163). -/
structure PRun where
  final : Nat
  place : Nat
  viaGw : Bool
  x : Nat
  first : Nat
  count : Nat
  hop : Nat
deriving DecidableEq, Repr

/-- The runs of a run list; HOP is found again from FINAL. -/
def readRuns (s : State) (ep : Bool) (d : Desc) : List PRun :=
  (List.range (leAt (rowRd s d 16 0) 0 4)).map (fun j =>
    let b := rowRd s d 16 (j + 1)
    let w := leAt b 0 4
    let f := bits w 19 0
    { final := f, place := bits w 21 20, viaGw := bit w 22, x := leAt b 4 2, first := leAt b 8 4, count := leAt b 12 4,
      hop := if bit w 22 then (gatewayFor s (verFor s ep) f).getD f else f })

/-- What planning decides about one run. -/
structure Planned where
  r : PRun
  mode : Nat
  slot : Nat
  cl : Nat
  claim : Bool
  lost : Bool
  big : Bool
  wb4k : Nat
deriving DecidableEq, Repr

/-- What planning reads beside the runs (R168 to R171): bound registers, version, notes of half A. -/
structure PlanCtx where
  ep : Bool
  model : Nat
  layer : Nat
  half : Bool
  fetchEn : Bool
  theta : Nat
  evictAge : Nat
  rb : Nat
  cpr : Nat
  rs : Nat
  slot4k : Nat
  fetchesA : List FetchNote
  hitsA : List FetchNote
  replicas : List (BitVec 256)
deriving DecidableEq, Repr

/-- The context of a record's half. -/
def planCtx (s : State) (q : W32) (half : Bool) (model layer : Nat) : PlanCtx :=
  let b := boundOf s q
  let ep := epochOf s q
  let v := verFor s ep
  let x := stepAt s q
  let notes (f : Step → List FetchNote) : List FetchNote := match x with | some x => (f x).filter (fun n => !n.half) | none => []
  { ep := ep, model := model, layer := layer, half := half, fetchEn := bit (bReg b Reg.SORT_PLAN_CFG) 0, theta := bFld b Reg.SORT_PLAN_CFG 16 1,
    evictAge := bFld b Reg.SORT_PLAN_CFG 24 17, rb := bFld b Reg.SORT_PLAN_ROW 23 0, cpr := bFld b Reg.SORT_PLAN_ROW 27 24, rs := v.rs,
    slot4k := v.slot4k, fetchesA := if half then notes Step.fetches ++ notes Step.claims else [],
    hitsA := if half then notes Step.hits ++ notes Step.claimHits else [],
    replicas := match x with | some x => x.replicas | none => ownReplicas s }

/-- The replica pending from half A in a slot (R169). -/
def PlanCtx.pending (c : PlanCtx) (slot : Nat) : Option FetchNote := c.fetchesA.find? (fun n => n.slot == slot)

/-- The replica that stood in a slot at the step's start (R169). -/
def PlanCtx.resident (c : PlanCtx) (slot : Nat) : Option (BitVec 256) := c.replicas.find? (fun l => lineSlot l == slot)

/-- Expert x is resident at this slice (R169). -/
def planResident (s : State) (c : PlanCtx) (x : Nat) : Bool :=
  if c.rs = 0 then false else
  let slot := slotOf c.rs x c.layer
  match c.pending slot with
  | some n => n.expert == x && n.layer == c.layer && n.model == c.model
  | none => match c.resident slot with
    | some l => lineKey l == llKey 1 c.model c.layer x
    | none => false

/-- The slot of x is free (R169). -/
def slotFree (s : State) (c : PlanCtx) (x : Nat) : Bool :=
  let slot := slotOf c.rs x c.layer
  match c.pending slot with
  | some _ => false
  | none => match c.resident slot with
    | none => true
    | some l => decide (c.evictAge ≤ lineAge l) && !(c.hitsA.any (fun n => llKey 1 n.model n.layer n.expert == lineKey l))

/-- The planner test of R170. -/
def planTest (c : PlanCtx) (count wb4k : Nat) : Bool := decide (c.theta * wb4k * 4096 < count * c.rb * 256)

/-- Not eligible only for its size, or eligible (R169): everything but WB4K. -/
def almostEligible (s : State) (c : PlanCtx) (x home : Nat) : Bool :=
  !(planResident s c x) && home != ownDa s && c.fetchEn && decide (0 < c.rs) && slotFree s c x

/-- Plan every run (R170 to R172). -/
def planRuns (s : State) (c : PlanCtx) (runs : List PRun) : List Planned :=
  let me := ownDa s
  let info := runs.map (fun r =>
    let l := llLine s c.ep c.model c.layer r.x
    let w := lineWb4k l
    let almost := r.place == 0 && almostEligible s c r.x (lineHome l)
    (r, l, w, almost, almost && decide (w ≤ c.slot4k)))
  let wins (r : PRun) : Bool :=
    !(info.any (fun o => o.1.place == 0 && o.2.2.2.2 && o.1.x != r.x && slotOf c.rs o.1.x c.layer == slotOf c.rs r.x c.layer
      && planTest c o.1.count o.2.2.1 && (decide (r.count < o.1.count) || (o.1.count == r.count && decide (o.1.x < r.x)))))
  info.map (fun q =>
    let r := q.1
    let pass := r.place == 0 && q.2.2.2.2 && planTest c r.count q.2.2.1
    let claim := pass && wins r
    let res := r.place == 0 && planResident s c r.x
    let slot := slotOf c.rs r.x c.layer
    let mode := if r.final = me then 3 else if res then 2 else if claim then 1 else 0
    { r := r, mode := mode, slot := if mode = 2 ∨ mode = 1 then slot else 0,
      cl := if mode = 2 ∨ mode = 1 then slot % 4 else (lineFinal q.2.1 r.place).2.1,
      claim := claim, lost := pass && !claim,
      big := r.final != me && r.place == 0 && q.2.2.2.1 && decide (c.slot4k < q.2.2.1), wb4k := q.2.2.1 })

/-- An out-record (R173). -/
def outRecord (p : Planned) : List Byte :=
  leBytes 4 (p.r.final + p.r.place * 2 ^ 20 + b2n p.r.viaGw * 2 ^ 22 + p.mode * 2 ^ 23 + p.cl * 2 ^ 25) ++ leBytes 2 p.r.x ++ leBytes 1 p.slot
    ++ leBytes 1 0 ++ leBytes 4 p.r.first ++ leBytes 4 p.r.count

/-- A received count record (R165). -/
structure CntRec where
  src : Nat
  place : Nat
  claim : Bool
  bundle : Bool
  x : Nat
  count : Nat
deriving DecidableEq, Repr

/-- The count record 16 bytes spell. -/
def parseCnt (b : List Byte) : CntRec :=
  let w := leAt b 0 4
  { src := bits w 19 0, place := bits w 21 20, claim := bit w 22, bundle := bit w 23, x := leAt b 4 2, count := leAt b 8 4 }

/-- The order of in-records: bundles last; EXPERT, PLACE, SRC (R175). -/
def cntKey (r : CntRec) : Nat := b2n r.bundle * 2 ^ 40 + (if r.bundle then 0 else r.x * 2 ^ 24 + r.place * 2 ^ 20) + r.src

/-- An in-record's mode (R175). -/
def cntMode (r : CntRec) : Nat := if r.bundle then 2 else if r.claim then 1 else 0

/-- An in-record (R175). -/
def inRecord (s : State) (c : PlanCtx) (r : CntRec) : List Byte :=
  let l := llLine s c.ep c.model c.layer r.x
  let cl := if r.bundle then 0 else if r.claim || r.place == 0 then lineHomeCl l else (linePlace l r.place).2.1
  leBytes 4 (r.src + r.place * 2 ^ 20 + cntMode r * 2 ^ 22 + cl * 2 ^ 24) ++ leBytes 2 r.x ++ leBytes 2 0 ++ leBytes 4 r.count ++ leBytes 4 0

/-- The count records received for a half, in the order of arrival. -/
def rxRecords (s : State) (q : W32) (h : Bool) (d : Desc) : List CntRec :=
  match halfAt s q h with
  | none => []
  | some x => (List.range x.rxCount).map (fun j => parseCnt (rowRd s d 16 j))

/-- Sum of a list. -/
def total (l : List Nat) : Nat := l.foldl (· + ·) 0

/-- The plan summary (R174). -/
def planSummary (cpr : Nat) (ps : List Planned) (ins : List CntRec) : List Byte :=
  let tr := ins.filter (fun r => cntMode r == 0)
  let fo := ps.filter (fun p => p.mode == 1)
  leBytes 4 ps.length ++ leBytes 4 ins.length ++ leBytes 4 (total (tr.map CntRec.count)) ++ leBytes 4 (cpr * total (ps.map (fun p => p.r.count)))
    ++ leBytes 4 fo.length ++ leBytes 4 (ins.filter (fun r => cntMode r == 1)).length ++ leBytes 8 (total (fo.map (fun p => p.wb4k * 4096)))
    ++ leBytes 4 (total ((ins.filter CntRec.bundle).map CntRec.count)) ++ leBytes 28 0

/-- ⌈log2 (q + 1)⌉ and the rest of plan_cycles (R182). -/
def planCycles (r q : Nat) : Nat := 64 + 8 * r + 6 * q + 2 * q * clog2 (q + 1) + ceilDiv ((r + q) * 16 + 64) 512

/-- The lines a PLAN needs: of its runs and of the records received. -/
def planNeed (s : State) (r : RingRec) : Bool × Nat × Nat × List Nat :=
  let ep := epochOf s r.step
  (ep, rModel r.raw, rLayer r.raw, (readRuns s ep (descAt s (rPtr r.raw 1))).map PRun.x
    ++ ((rxRecords s r.step (rHalf r.raw) (descAt s (rPtr r.raw 4))).filter (fun c => !c.bundle)).map CntRec.x)

/-- What a run leaves for COMMIT and for half B (R169, R177). -/
def planNote (s : State) (c : PlanCtx) (p : Planned) : FetchNote :=
  { half := c.half, expert := p.r.x, layer := c.layer, model := c.model, slot := p.slot, bank := pendingBank s p.slot, total := p.wb4k }

/-- A note of a PLAN or DISPATCH that read too early: its values are free (R20, R25). -/
def freeNote (s : State) (e : Nat × FetchNote) : FetchNote :=
  let w := (Config.freeWord (s.free + e.1)).toNat
  { e.2 with expert := bits w 15 0, slot := bits w 23 16, bank := bits w 24 24, total := bits w 55 32 }

/-- The notes as they are kept: with their values free where the command read too early. -/
def notesAs (free : Bool) (s : State) (l : List FetchNote) : List FetchNote := if free then (withIdx 0 l).map (freeNote s) else l

/-- PLAN (R172 to R176). -/
def planJob (s : State) (r : RingRec) : Job :=
  let c := planCtx s r.step (rHalf r.raw) (rModel r.raw) (rLayer r.raw)
  let dr := descAt s (rPtr r.raw 1)
  let dq := descAt s (rPtr r.raw 4)
  let ps := planRuns s c (readRuns s c.ep dr)
  let ins := sortBy (fun a b => decide (cntKey a ≤ cntKey b)) (rxRecords s r.step (rHalf r.raw) dq)
  let notes (free : Bool) (t : State) : State := modStep r.step (fun x => { x with
    fetches := x.fetches ++ notesAs free t ((ps.filter (fun p => p.mode == 1)).map (planNote s c)),
    hits := x.hits ++ notesAs free t ((ps.filter (fun p => p.mode == 2)).map (planNote s c)),
    plansDone := x.plansDone ++ [rPtr r.raw 2] }) t
  { reads := touches s dr ++ touches s dq, busyLo := Reg.SORT_PLAN_BUSY_LO, bound := planCycles ps.length (dq.sz 1),
    outs := [rPtr r.raw 2, rPtr r.raw 3],
    writes := rowsWr (descAt s (rPtr r.raw 2)) 16 (planSummary c.cpr ps ins ++ ps.flatMap outRecord)
      ++ rowsWr (descAt s (rPtr r.raw 3)) 16 (ins.flatMap (inRecord s c)),
    rep := fun t =>
      let t := bump Reg.SORT_PLAN_TRAVEL_CNT (ps.filter (fun p => p.mode == 0 || p.mode == 3)).length
        (bump Reg.SORT_PLAN_FETCH_CNT (ps.filter (fun p => p.mode == 1)).length (bump Reg.SORT_PLAN_HIT_CNT (ps.filter (fun p => p.mode == 2)).length t))
      raiseIf (ps.any Planned.lost) Reg.SORT_PLAN_STAT 0 (raiseIf (ps.any Planned.big) Reg.SORT_PLAN_STAT 2 t),
    after := notes false, early := some (notes true) }

/-! ### The commands -/

/-- A source-mode SORT record. -/
def isSort (r : Record) : Bool := rOp r == 0x18 && !(bit (rParam r) 0)
/-- A gateway-mode SORT record. -/
def isSortGw (r : Record) : Bool := rOp r == 0x18 && bit (rParam r) 0

/-- SORT in source mode (R162). -/
def execSort (be : Bool) (fail : Option Nat) (s : State) : Host.Outcome State Fault Refusal :=
  finish (withLane be fail isSort (runLines 3 be isSort sortNeed sortJob) s)

/-- The gateway SORT at the head may start: BUNDLE_IN slots of its armed half have arrived (R179). -/
def gwReady (s : State) (be : Bool) : Bool :=
  match startable s 3 be with
  | none => true
  | some r => match halfAt s r.step (rsHalf r.raw) with
    | none => false
    | some h =>
      let got := ((h.inRecs.filter (fun i => i.mode == 2)).map (fun i => i.got.length)).foldl (· + ·) 0
      h.armed && decide (h.bundleIn * rowChunks (boundOf s r.step) ≤ got)

/-- SORT in gateway mode (R178). -/
def execSortGateway (be : Bool) (fail : Option Nat) (s : State) : Host.Outcome State Fault Refusal :=
  finish (if gwReady s be then withLane be fail isSortGw (runJob 3 be isSortGw sortGwJob) s else s)

/-- PLAN (R172). -/
def execPlan (be : Bool) (s : State) : Host.Outcome State Fault Refusal :=
  finish (runLines 4 be (fun r => rOp r == 0x20) planNeed planJob s)

end Sys2Proof.Machine
end

