-- ==== Sys2Proof/Machine/Boundary.lean ====
section
/-! DEFINITION. Staged configuration: its CRC, the comparison with the reference, refused values, and what applies at each kind of boundary
(spec/16 R424 to R433, spec/14 R383, spec/11 R313 to R317, spec/02 R65, R66, spec/03 R98 to R100, spec/06 R164). -/

namespace Sys2Proof.Machine

/-! ### The configuration CRC (R430 to R432) -/

/-- The byte stream over the staged image (R430). -/
def cfgBytes (s : State) : List Byte :=
  (regTable.filter (fun r => decide (r.rws ≠ 0) && decide (r.off ≠ Reg.REL_FENCE_LIFT))).flatMap (fun r =>
    leBytes 2 r.off ++ [0, 0] ++ leBytes 4 (Nat.land (stg s r.off) r.rws))

/-- The CRC of the staged image as it stands. -/
def cfgCrc (s : State) : Nat := (crc32c (cfgBytes s)).toNat

/-- A staged write: the running CRC is being recomputed (R431). -/
def stageReg (off v : Nat) (s : State) : State :=
  let vs := s.power.vofsSet || decide (off = Reg.REL_SND_VOFS)
  { setStg off v s with cfgBusy := true, power := { s.power with vofsSet := vs } }

/-- Write staged bits under a mask. -/
def stageBits (off mask v : Nat) (s : State) : State :=
  stageReg off (Nat.lor (Nat.land (stg s off) (0xFFFFFFFF - mask)) (Nat.land v mask)) s

/-- The recomputation completes (R431). -/
def crcDone (s : State) : State := { setReg Reg.CORE_CFG_CRC (cfgCrc s) s with cfgBusy := false }

/-- Commit the reference with SELF = 1: the CRC of the staged image as it stands (R432). -/
def commitSelf (s : State) : State := setReg Reg.CORE_CFG_REF (cfgCrc s) s

/-- The staged image and its committed reference differ (R383). -/
def cfgMismatch (s : State) : Bool := cfgCrc s != reg s Reg.CORE_CFG_REF

/-- A boundary that finds a mismatch: nothing applies (R383). -/
def cfgHold (s : State) : State :=
  faultRec 0x08 22 (ownDa s) (cfgCrc s) 0 noStep (raiseBit Reg.REL_STAT 8 (raiseBit Reg.REL_STAT 7 s))

/-- A boundary at which the comparison succeeds ends CFG_HOLD (R383). -/
def cfgRelease (s : State) : State := dropBit Reg.REL_STAT 8 s

/-! ### Accepting staged values (R421, R427) -/

/-- The counter may be named by the partition: the Keeper's, or allocated (R30, R241). -/
def cntOwned (s : State) (n : Nat) : Bool := assigned s && (decide (n < 128) || s.cntAlloc.contains n)

/-- A staged value with each refused field replaced by the live one, and the status bit of the refusal (R427): the fields whose chapters name
values they refuse; the live value itself is none (log entry 41). RT_BASE and STORE_BASE are not screened: a value that is no multiple of 64, or of 4,096, is
used as staged (DESIGN CHOICE, log entry 52). -/
def screen (s : State) (off v : Nat) : Nat × List (Nat × Nat) :=
  let l := reg s off
  let keep (bad : Bool) (hi lo : Nat) (stat : List (Nat × Nat)) : Nat × List (Nat × Nat) :=
    if bad && decide (bits v hi lo ≠ bits l hi lo) then (setBits v hi lo (bits l hi lo), (0, 32) :: stat) else (v, [])
  let part : List (Nat × Nat) := [(Reg.PART_STAT, 3)]
  if off = Reg.SORT_PLAN_CFG then keep (bits v 16 1 == 0) 16 1 []
  else if off = Reg.SORT_PLAN_REPL then keep (decide (256 < bits v 8 0)) 8 0 []
  else if off = Reg.SORT_LL_PIN then keep (decide (16384 < bits v 30 16)) 30 16 []
  else if off = Reg.XCHG_CFG then
    let v' := if bits v 15 0 = 0 then setBits v 15 0 (bits l 15 0) else v
    let w := if bits v 31 16 = 0 then setBits v' 31 16 (bits l 31 16) else v'
    (w, if bits v 15 0 = 0 ∨ bits v 31 16 = 0 then [(0, 32)] else [])
  else if off = Reg.XCHG_FAB_DRAIN then keep (bits v 14 8 == 0 || decide (100 < bits v 14 8)) 14 8 []
  else if off = Reg.XCHG_BCN_CFG then keep (bits v 7 0 == 0) 7 0 []
  else if off = Reg.COMB_CFG then keep (bits v 1 0 == 3) 1 0 []
  else if off = Reg.COMB_SH_SIG then keep (!(cntOwned s (bits v 9 0))) 9 0 []
  else if off = Reg.PART_SCHED then keep (bits v 15 0 == 0) 15 0 part
  else if off = Reg.PART_REG_FAB then keep (decide (bits v 31 16 < 65)) 31 16 part
  else if off = Reg.PART_REG_MEM then keep (decide (bits v 31 16 < 1)) 31 16 part
  else if off = Reg.PART_DET_CTL then
    let v' := if bits v 8 1 = 0 then setBits v 8 1 (bits l 8 1) else v
    let w := if bits v 12 9 = 0 then setBits v' 12 9 (bits l 12 9) else v'
    (w, if bits v 8 1 = 0 ∨ bits v 12 9 = 0 then (0, 32) :: part else [])
  else if off = Reg.PART_LOG_SPILL_SZ then keep (decide (1024 < bits v 10 0)) 10 0 part
  else if off = Reg.REL_MEM_TO then keep (bits v 15 0 == 0) 15 0 []
  else (v, [])

/-- Note that a register's staged value was refused, or was accepted, at its boundary (R427). -/
def noteRefused (off : Nat) (bad : Bool) (s : State) : State :=
  let rest := s.refused.filter (fun e => e.1 != off)
  { s with refused := if bad then rest ++ [(off, stg s off)] else rest }

/-- Apply the staged fields of one register, refused ones left out. -/
def applyReg (off : Nat) (s : State) : State :=
  match regRow off with
  | none => s
  | some r =>
    let x := screen s off (Nat.land (stg s off) r.rws)
    let s := x.2.foldl (fun s b => if b.2 = 32 then s else raiseBit b.1 b.2 s) s
    noteRefused off (!x.2.isEmpty) (setReg off (Nat.lor (Nat.land (reg s off) (0xFFFFFFFF - r.rws)) (Nat.land x.1 r.rws)) s)

/-- The offsets of the registers with staged fields of a boundary kind. -/
def offsOf (b : Bound) : List Nat := (regTable.filter (fun r => decide (r.rws ≠ 0) && decide (r.bound = b))).map RegRow.off

/-- The staged copy of a register's fields differs from the live value. -/
def regPend (s : State) (r : RegRow) : Bool := decide (Nat.land (stg s r.off) r.rws ≠ Nat.land (reg s r.off) r.rws)

/-- A staged copy of a kind differs from its live value (R428). -/
def pendOf (s : State) (b : Bound) : Bool := regTable.any (fun r => decide (r.rws ≠ 0) && decide (r.bound = b) && regPend s r)

/-! ### Groups of fields that are accepted together (R65, R144) -/

/-- The registers of the ingress interface. -/
def ingOffs : List Nat :=
  [Reg.SCORE_ING_CTL, Reg.SCORE_ING_SHAPE] ++ (List.range 4).map Reg.SCORE_ING_RANGE ++
  [Reg.SCORE_ING_BASE_LO, Reg.SCORE_ING_BASE_HI, Reg.SCORE_ING_FLAG_LO, Reg.SCORE_ING_FLAG_HI]
/-- The registers of the bias loop. -/
def loopOffs : List Nat := [Reg.SCORE_SEL_LOOP_CTL, Reg.SCORE_SEL_LOOP_ETA, Reg.SCORE_SEL_LOOP_BMAX]

/-- Ranges in the order of their first index follow each other from `at'` on and end at n. Ranges that together reach past n - 1 are refused too:
the spec does not say whether they cover 0 to n - 1 (DESIGN CHOICE, log entry 48). -/
def rangesCover (n : Nat) : Nat → List (Nat × Nat) → Bool
  | at', [] => decide (at' = n)
  | at', (f, c) :: t => decide (f = at') && rangesCover n (at' + c) t

/-- The staged ingress values break R65. A TILE_BASE or FLAG_BASE that is no multiple of 64 (R70) is not among its causes: the address is used as
staged (DESIGN CHOICE, log entry 52). -/
def ingBad (s : State) : Bool :=
  let sh := stg s Reg.SCORE_ING_SHAPE
  let n := bits sh 14 0
  let d := bits sh 31 16
  let fmt := bits (stg s Reg.SCORE_ING_CTL) 9 2
  let rs := (List.range 4).map (fun c => let r := stg s (Reg.SCORE_ING_RANGE c); (bits r 13 0, bits r 30 16))
  let used := sortBy (fun (a b : Nat × Nat) => decide (a.1 ≤ b.1)) (rs.filter (fun r => r.2 != 0))
  !(rangesCover n 0 used) || decide (16384 < n) || decide (d = 0) || decide (32768 < d) || !(decide (fmt ≤ 0x0A))
    || (fmtMx fmt && decide (d % 32 ≠ 0))

/-- A binary32 code of a positive finite value. -/
def posF32 (c : Nat) : Bool := decide (0 < c) && decide (c < 0x7F800000)

/-- The staged loop values break R144. -/
def loopBad (s : State) : Bool :=
  let c := stg s Reg.SCORE_SEL_LOOP_CTL
  bit c 0 && (bits c 8 1 == 0 || !(posF32 (stg s Reg.SCORE_SEL_LOOP_ETA)) || !(posF32 (stg s Reg.SCORE_SEL_LOOP_BMAX)))

/-- A register holds a staged value of a refused group where it differs from the live one (R427, R434). -/
def noteGroup (offs : List Nat) (s : State) : State :=
  offs.foldl (fun s o => noteRefused o (match regRow o with | some r => regPend s r | none => false) s) s

/-- Apply a group, or refuse it whole and set its bit. -/
def applyGroup (offs : List Nat) (bad : Bool) (stat b : Nat) (s : State) : State :=
  if bad then noteGroup offs (raiseBit stat b s) else offs.foldl (fun s o => applyReg o s) s

/-! ### Pool configuration (R313 to R317) -/

/-- BASE, COUNT and RING of pool n in a register map given by f. -/
def poolRegs (f : Nat → Nat) (n : Nat) : Addr × Nat × Addr :=
  (f (Reg.COMB_POOL_BASE_LO n) + (f (Reg.COMB_POOL_BASE_HI n) % 2 ^ 16) * 2 ^ 32, f (Reg.COMB_POOL_CNT n) % 2 ^ 17,
   f (Reg.COMB_POOL_RING_LO n) + (f (Reg.COMB_POOL_RING_HI n) % 2 ^ 16) * 2 ^ 32)

/-- A region or ring lies where R313 lets it lie. -/
def poolPlaced (wins : List Nat) (a n : Nat) : Bool :=
  inside a n (Config.stagingBase + Config.keeperOff) (Config.poolRegionOff - Config.keeperOff)
  || inside a n (Config.stagingBase + Config.poolRegionOff) (Config.stagingSize - Config.poolRegionOff)
  || wins.any (fun e => bit e 96 && inside a n (bits e 47 0) (bits e 95 64 * 4096))

/-- The five class pools and the uniform pool meet R313 for a partition's windows. -/
def poolsValid (wins : List Nat) (ps : List (Nat × Addr × Nat × Addr)) : Bool :=
  let rng (p : Nat × Addr × Nat × Addr) : List (Nat × Nat) :=
    if p.2.2.1 = 0 then [] else [(p.2.1, p.2.2.1 * classSize p.1), (p.2.2.2, p.2.2.1 * 8)]
  let one (p : Nat × Addr × Nat × Addr) : Bool :=
    p.2.2.1 == 0 || (decide (p.2.2.1 ≤ 65536) && decide (p.2.1 % classSize p.1 = 0) && decide (p.2.2.2 % 8 = 0)
      && (rng p).all (fun r => poolPlaced wins r.1 r.2 && !(overlap r.1 r.2 Config.stagingBase Config.keeperOff))
      && !(overlap p.2.1 (p.2.2.1 * classSize p.1) p.2.2.2 (p.2.2.1 * 8)))
  let cls := (ps.filter (fun p => p.1 != 5)).flatMap rng
  ps.all one && (withIdx 0 cls).all (fun a => (withIdx 0 cls).all (fun b => a.1 == b.1 || !(overlap a.2.1 a.2.2 b.2.1 b.2.2)))

/-- The six pools as a register map gives them. -/
def poolsOf (f : Nat → Nat) : List (Nat × Addr × Nat × Addr) := (List.range 6).map (fun n => (n, poolRegs f n))

/-- A pool rebuilt with all its buffers in ascending order, its first entries in the cache (R314, R321). -/
def buildPool (p : Nat × Addr × Nat × Addr) : Pool :=
  let n := min 32 p.2.2.1
  { id := p.1, head := n % max 1 p.2.2.1, cached := n, free := (List.range p.2.2.1).map (fun j => p.2.1 + j * classSize p.1), owned := [] }

/-- The ring of a pool as it is written anew (R314). -/
def writeRing (p : Nat × Addr × Nat × Addr) (s : State) : State :=
  (List.range p.2.2.1).foldl (fun s j => putRing p.1 j (p.2.1 + j * classSize p.1) s) s

/-- Every pool rebuilt from the live registers and every ring written anew; those of the pools in use last, since the uniform pool's may lie over the
class pools' (R313, R314, R316, R317). -/
def rebuildPools (s : State) : State :=
  let ps := poolsOf (reg s)
  let used (p : Nat × Addr × Nat × Addr) : Bool := (p.1 == 5) == uniform s
  (ps.filter (fun p => !(used p)) ++ ps.filter used).foldl (fun s p => writeRing p s) { s with pools := ps.map buildPool, retired := [] }

/-- BENREMIN staged by PART_CONFIG differs from the mode in force (R317). -/
def benPending (s : State) : Option Bool :=
  match s.part.staged with
  | some (_, _, _, b) => if b = benremin s then none else some b
  | none => none

/-- Staged class-pool values differ from the live ones. -/
def classPend (s : State) : Bool := (List.range 5).any (fun n => poolRegs (stg s) n != poolRegs (reg s) n)

/-- Some class pool is configured (R316). -/
def classLive (s : State) : Bool := (List.range 5).any (fun n => fld s (Reg.COMB_POOL_CNT n) 16 0 != 0)

/-- A staged pool value differs from the live one: every boundary that may apply it judges it (R315, R427). -/
def poolPend (s : State) : Bool := pendOf s .pool

/-- A staged pool value waits that no boundary has refused yet: APPLY_WAIT (R315; log entry 43). -/
def poolWait (s : State) : Bool :=
  regTable.any (fun r => decide (r.rws ≠ 0) && decide (r.bound = .pool) && regPend s r
    && !(s.refused.any (fun e => e.1 == r.off && stg s r.off == e.2)))

/-- The pools in use are not those of the mode in force, as after an assignment or a LEAVE with buffers still owned (R316, R317). -/
def poolsStale (s : State) : Bool :=
  if benremin s then !(uniform s) else uniform s && !(flag s Reg.COMB_POOL_STAT 1 && !(classLive s))

/-- The pools in use and the mode BENREMIN from here on: the uniform pool under it and in FALLBACK without class pools; every ring is rebuilt where
a configuration applied or the pools in use change (R314, R316, R317). -/
def usePools (ben off applied : Bool) (s : State) : State :=
  let t := setFld Reg.COMB_POOL_STAT 0 0 (b2n off) (setFld Reg.PART_ID 12 12 (b2n ben) s)
  if applied || off != uniform s then rebuildPools t else t

/-- Staged pool configuration and the Benremin mode at a step boundary: applied once every buffer of every pool in use is free; refused values leave
the rings as they are (R315 to R317). -/
def applyPools (s : State) : State :=
  let ben := benPending s
  let pend := poolPend s
  let move := ben.isSome || poolsStale s
  if !pend && !move then noteGroup (offsOf .pool) (dropBit Reg.COMB_POOL_STAT 2 s)
  else if s.pools.any (fun p => !p.owned.isEmpty) then setFld Reg.COMB_POOL_STAT 2 2 (b2n (poolWait s || move)) s
  else
    let s := dropBit Reg.COMB_POOL_STAT 2 s
    let bad := pend && !(poolsValid s.part.wins (poolsOf (stg s)))
    let cls := pend && !bad && classPend s
    let t := if pend then applyGroup (offsOf .pool) bad Reg.COMB_POOL_STAT 3 s else s
    let b := ben.getD (benremin s)
    usePools b (if b then true else if cls then false else if move then flag t Reg.COMB_POOL_STAT 1 && !(classLive t) else uniform t) (pend && !bad) t

/-! ### Spares (R98 to R100, R164) -/

/-- The lowest n numbers below m that are not in a mask. -/
def goodUnits (m fail : Nat) : List Nat := (List.range m).filter (fun i => !(bit fail i))

/-- The mask of a list of units. -/
def maskOf (l : List Nat) : Nat := (l.map (fun i => 2 ^ i)).foldl (· + ·) 0

/-- The unit map after failures: the active mask, the spare (`none` code where none remains), degraded, unavailable. `full` units run when that
many are good, `low` in the degraded state; the active ones that are still good keep their places. -/
def unitMap (m full low noneCode fail act : Nat) : Nat × Nat × Bool × Bool :=
  let good := goodUnits m fail
  if full < good.length then
    let keep := good.filter (fun i => bit act i)
    let more := (good.filter (fun i => !(bit act i))).take (full - keep.length)
    let run := keep ++ more
    (maskOf run, (good.find? (fun i => !(run.contains i))).getD noneCode, false, false)
  else if full = good.length then (maskOf good, noneCode, false, false)
  else if low ≤ good.length then (maskOf (good.take low), noneCode, true, false)
  else (maskOf good, noneCode, true, true)

/-- SCORE's tiles at a step boundary: forced failures, then the lightship or the degraded state (R99, R100). -/
def substTiles (s : State) : State :=
  let forced := fld s Reg.SCORE_TILE_FAIL 24 16
  let s := setFld Reg.SCORE_TILE_FAIL 8 0 (Nat.lor (fld s Reg.SCORE_TILE_FAIL 8 0) forced) s
  let fail := fld s Reg.SCORE_TILE_FAIL 8 0
  let act := fld s Reg.SCORE_TILE_MAP 8 0
  let u := unitMap 9 8 4 0xF fail (if flag s Reg.SCORE_TILE_MAP 13 then 0 else act)
  let new := u.1 + u.2.1 * 2 ^ 9 + b2n u.2.2.1 * 2 ^ 13 + b2n u.2.2.2 * 2 ^ 14
  let lost := (List.range 9).find? (fun i => bit act i && !(bit u.1 i))
  if new = reg s Reg.SCORE_TILE_MAP then s else
  let s := setReg Reg.SCORE_TILE_MAP new s
  if u.2.2.2 then s
  else match lost with
    | none => s
    | some t => faultRec 0x09 4 (ownDa s) (((List.range 9).find? (fun i => bit act i && bit fail i)).getD t + b2n u.2.2.1 * 2 ^ 8) 0 noStep s

/-- SORT's lane groups at a step boundary (R164). -/
def substLanes (s : State) : State :=
  let forced := fld s Reg.SORT_LANE_FAIL 20 16
  let s := setFld Reg.SORT_LANE_FAIL 4 0 (Nat.lor (fld s Reg.SORT_LANE_FAIL 4 0) forced) s
  let fail := fld s Reg.SORT_LANE_FAIL 4 0
  let act := fld s Reg.SORT_LANE_MAP 4 0
  let u := unitMap 5 4 3 7 fail (if flag s Reg.SORT_LANE_MAP 8 then 0 else act)
  let new := u.1 + u.2.1 * 2 ^ 5 + b2n u.2.2.1 * 2 ^ 8 + b2n u.2.2.2 * 2 ^ 9
  let lost := (List.range 5).find? (fun i => bit act i && !(bit u.1 i))
  if new = reg s Reg.SORT_LANE_MAP then s else
  let s := setReg Reg.SORT_LANE_MAP new s
  if u.2.2.2 then s
  else match lost with
    | none => s
    | some t => faultRec 0x0A 7 (ownDa s) (((List.range 5).find? (fun i => bit act i && bit fail i)).getD t + b2n u.2.2.1 * 2 ^ 8) 0 noStep s

/-- The lightships' own test patterns: a failed one marks its unit and kills nothing (R98, R99, R164). -/
def testSpares (spareFail : BitVec 2) (s : State) : State :=
  let t := fld s Reg.SCORE_TILE_MAP 12 9
  let l := fld s Reg.SORT_LANE_MAP 7 5
  let s := if spareFail.getLsbD 0 && decide (t < 9) then tileFailed t s else s
  if spareFail.getLsbD 1 && decide (l < 5) then laneFailed l s else s

/-- Spares take the places of failed units; too few good ones left, and the slice is lost (R99, R100, R164). -/
def newUnits (s : State) : State :=
  let s := substLanes (substTiles s)
  if flag s Reg.SCORE_TILE_MAP 14 then loseSlice 0x82 4 (fld s Reg.SCORE_TILE_FAIL 8 0) 0 s
  else if flag s Reg.SORT_LANE_MAP 9 then loseSlice 0x83 7 (fld s Reg.SORT_LANE_FAIL 4 0) 0 s
  else s

/-! ### The step boundary (R425) -/

/-- The buckets start full when their values change (R344; log entry 28). -/
def fillBuckets (old : State) (s : State) : State :=
  let f := if reg old Reg.PART_REG_FAB = reg s Reg.PART_REG_FAB then s.fab.tk else 1024 * (fld s Reg.PART_REG_FAB 31 16 : Int)
  let m := if reg old Reg.PART_REG_MEM = reg s Reg.PART_REG_MEM then s.memb.tk else 1024 * (fld s Reg.PART_REG_MEM 31 16 : Int)
  { s with fab := { s.fab with tk := f }, memb := { s.memb with tk := m } }

/-- A staged change of LOOP_EN or WIN that applies restarts every window (R144). -/
def restartLoops (old : State) (s : State) : State :=
  if reg old Reg.SCORE_SEL_LOOP_CTL = reg s Reg.SCORE_SEL_LOOP_CTL then s
  else { s with loops := s.loops.map (fun l => { l with acc := [], steps := 0 }) }

/-- What PART_CONFIG staged for the slice's own partition (R340): windows, accounting table, BE_ONLY; BENREMIN with the pools. -/
def applyPart (s : State) : State :=
  match s.part.staged with
  | none => s
  | some (wins, acct, beOnly, ben) =>
    let st := if ben = benremin s then none else some (wins, acct, beOnly, ben)
    setFld Reg.PART_ID 11 11 (b2n beOnly) { s with part := { s.part with wins := wins, acctBase := acct, staged := st } }

/-- One step boundary whose comparison succeeds: every staged value of its kind applies; the refusal of the ingress values; the state
(R383, R425). -/
def stepBoundary (spareFail : BitVec 2) (s : State) : Bool × State :=
  let s0 := s
  let s := applyPart (cfgRelease s)
  let bad := ingBad s
  let grouped := ingOffs ++ loopOffs
  let s := (offsOf .step).foldl (fun s o => if grouped.contains o then s else applyReg o s) s
  let s := applyGroup loopOffs (loopBad s) Reg.SCORE_SEL_STAT 4 s
  let s := applyGroup ingOffs bad Reg.SCORE_ING_STAT 1 s
  let s := applyPools (restartLoops s0 (fillBuckets s0 s))
  (bad, newUnits (testSpares spareFail s))

end Sys2Proof.Machine
end

