-- ==== Sys2Proof/Machine/Select.lean ====
section
/-! DEFINITION. SELECT: scores, order, groups, thresholds, capacity, outputs, and the bias loop's rule (spec/05). -/

namespace Sys2Proof.Machine

/-! ### The selection block (R148) -/

structure Sel where
  biasBase : Addr
  gateBase : Addr
  cntBase : Addr
  shBase : Addr
  loadBase : Addr
  pcntBase : Addr
  flagsBase : Addr
  e : Nat
  layer : Nat
  cap : Nat
  k : Nat
  kmin : Nat
  kmax : Nat
  ovf : Nat
  tau : Nat
  ng : Nat
  g : Nat
  gscore : Bool
  nullFirst : Nat
  nullCount : Nat
  nsh : Nat
  shIdx : List Nat
  shw : List Nat
  rsv : Bool
deriving DecidableEq, Repr

/-- The selection block 128 bytes spell (R148). -/
def parseSel (l : List Byte) : Sel :=
  let w (i n : Nat) : Nat := leAt l i n
  let ad (i : Nat) : Addr := bits (w i 8) 47 0
  { biasBase := ad 0, gateBase := ad 8, cntBase := ad 16, shBase := ad 24, loadBase := ad 32, pcntBase := ad 40, flagsBase := ad 48,
    e := bits (w 56 4) 15 0 + 1, layer := bits (w 56 4) 23 16, cap := bits (w 60 4) 15 0, k := bits (w 60 4) 19 16,
    kmin := bits (w 60 4) 23 20, kmax := bits (w 60 4) 27 24, ovf := bits (w 60 4) 29 28, tau := w 64 4,
    ng := bits (w 68 4) 7 0 + 1, g := bits (w 68 4) 15 8 + 1, gscore := bit (w 68 4) 16,
    nullFirst := bits (w 72 4) 15 0, nullCount := bits (w 72 4) 31 16, nsh := bits (w 76 4) 2 0,
    shIdx := (List.range 4).map (fun i => w (80 + 2 * i) 2), shw := (List.range 4).map (fun i => w (88 + 4 * i) 4),
    rsv := (List.range 7).all (fun i => bits (w (8 * i) 8) 63 48 == 0) && bits (w 56 4) 31 24 == 0 && bits (w 60 4) 31 30 == 0
      && bits (w 68 4) 31 17 == 0 && bits (w 76 4) 31 3 == 0 && (l.drop 104).all (fun b => b == 0) }

/-- The block of a SELECT record. -/
def selBlock (s : State) (r : Record) : Sel := parseSel (rdN s (rPtr r 4) 128)

def rThresh (r : Record) : Bool := bit (rParam r) 0
def rGrp (r : Record) : Bool := bit (rParam r) 1
def rCand (r : Record) : Bool := bit (rParam r) 2
def rGonly (r : Record) : Bool := bit (rParam r) 3
def rBiasEn (r : Record) : Bool := bit (rParam r) 4
def rTokFirst (r : Record) : Nat := rPar r 20 7

/-- The bias vector a step uses for a layer while it runs the bias loop: the one published when the step started; 0 where the loop has published none
(R143, R145; log entry 18). -/
def stepBias (s : State) (q : W32) (layer : Nat) : Addr :=
  match stepAt s q with
  | none => 0
  | some x => if bit (bReg x.bound Reg.SCORE_SEL_LOOP_CTL) 0 then ((x.biases.find? (fun e => e.1 == layer)).map Prod.snd).getD 0 else 0

/-- The block a SELECT of a step works from: under the bias loop the published vector takes the place of the block's own (R143, R145). -/
def selOf (s : State) (r : RingRec) : Sel :=
  let b := selBlock s r.raw
  let a := stepBias s r.step b.layer
  if rBiasEn r.raw && a != 0 then { b with biasBase := a } else b

/-- A null expert (R135). -/
def Sel.isNull (b : Sel) (x : Nat) : Bool := decide (b.nullFirst ≤ x) && decide (x < b.nullFirst + b.nullCount)

/-! ### Candidates and their order (R126, R127) -/

/-- A candidate: global expert index (or group index), gate weight and selection score as binary32 codes. -/
structure Cand where
  x : Nat
  p : Nat
  s : Nat
deriving DecidableEq, Repr

/-- a ranks before b, or equals it (R127). -/
def ranks (a b : Cand) : Bool :=
  ltVal (ofF32 b.s) (ofF32 a.s) || (!(ltVal (ofF32 a.s) (ofF32 b.s)) && decide (a.x ≤ b.x))

/-- Best first. -/
def rank (l : List Cand) : List Cand := sortBy ranks l

/-- Keep the first occurrence of each expert (R132). -/
def firstOnly : List Cand → List Nat → List Cand
  | [], _ => []
  | c :: t, seen => if seen.contains c.x then firstOnly t seen else c :: firstOnly t (c.x :: seen)

/-- A score is NaN. -/
def nanScore (c : Cand) : Bool := (ofF32 c.s).isNan

/-- The group score of ranked members (R131). -/
def groupScore (max : Bool) (l : List Cand) : Nat :=
  if l.any nanScore then fpF32.nanCode else
  match rank l with
  | a :: b :: _ => if max then a.s else addF32 a.s b.s
  | [a] => a.s
  | [] => 0

/-- A token's eligible set, the scores that may make it a NaN token, and clamped list entries (R128, R130 to R132). -/
structure Elig where
  set : List Cand
  nan : Bool
  clamps : Nat
deriving DecidableEq, Repr

/-- The candidate of column i for expert x on row r (R126). -/
def candAt (s : State) (r : Record) (b : Sel) (din : Desc) (row i x : Nat) : Cand :=
  let p := (readRaw s din [i, row, 0, 0, 0]).1
  { x := x, p := p, s := if rBiasEn r then addF32 p (rdLe s (b.biasBase + 4 * x) 4) else p }

/-- The eligible set of row `row`. -/
def eligible (s : State) (r : Record) (b : Sel) (din dg : Desc) (row : Nat) : Elig :=
  if rCand r then
    let gs := b.e / b.ng
    let gl := (List.range b.g).map (fun j =>
      let v := (readRaw s dg [j, row, 0, 0, 0]).1
      if v < b.ng then (j, v, false) else (j, b.ng - 1, true))
    let l := gl.flatMap (fun q => (List.range gs).map (fun i => candAt s r b din row (q.1 * gs + i) (q.2.1 * gs + i)))
    { set := l, nan := l.any nanScore, clamps := (gl.filter (fun q => q.2.2)).length }
  else
    let l := (List.range b.e).map (fun x => candAt s r b din row x x)
    if rGrp r then
      let gs := b.e / b.ng
      let sc := (List.range b.ng).map (fun g => { x := g, p := 0, s := groupScore b.gscore ((l.drop (g * gs)).take gs) : Cand })
      let pick := ((rank sc).take b.g).map Cand.x
      let set := l.filter (fun c => pick.contains (c.x / (max 1 gs)))
      { set := set, nan := set.any nanScore || sc.any nanScore, clamps := 0 }
    else { set := l, nan := l.any nanScore, clamps := 0 }

/-- The candidate list: the best 16 distinct experts (R130, R132). -/
def candList (e : Elig) : List Cand := (firstOnly (rank e.set) []).take 16

/-! ### How many slots (R134) -/

/-- thresh_k from candidate i on with the sum so far. -/
def threshK (b : Sel) : List Cand → Nat → Nat → Nat
  | [], i, _ => i
  | c :: t, i, acc =>
    let acc := addF32 acc c.p
    if i + 1 = b.kmax then b.kmax
    else if b.kmin ≤ i + 1 ∧ !(ofF32 acc).isNan ∧ !(ltVal (ofF32 acc) (ofF32 b.tau)) then i + 1
    else threshK b t (i + 1) acc

/-! ### Capacity (R137, R138) -/

/-- A slot: expert, placement, null, candidate. -/
structure Slot where
  c : Cand
  place : Nat
  null : Bool
deriving DecidableEq, Repr

/-- What a token's walk has done: slots filled, use counters, counts of R138, clamped PCNT values. -/
structure Walk where
  slots : List Slot := []
  used : List (Nat × Nat) := []
  next : Nat := 0
  spill : Nat := 0
  drop : Nat := 0
  clamps : Nat := 0
deriving DecidableEq, Repr

/-- used[x][q]. -/
def usedAt (w : Walk) (x q : Nat) : Nat := cellGet (fun _ => 0) w.used (4 * x + q)

/-- PCNT[x] clamped into 1 to 4, and whether it was (R137). -/
def pcntAt (s : State) (b : Sel) (x : Nat) : Nat × Bool :=
  let v := rdLe s (b.pcntBase + x) 1
  (max 1 (min 4 v), decide (v < 1 ∨ 4 < v))

/-- The placement a candidate gets: the first with room (R138). -/
def placeFor (b : Sel) (w : Walk) (x np : Nat) : Option Nat :=
  (List.range np).find? (fun q => b.cap == 0 || decide (usedAt w x q < b.cap))

/-- The walk of R138 from candidate i on. -/
def fill (s : State) (b : Sel) (kt : Nat) : List Cand → Nat → Walk → Walk
  | [], _, w => w
  | c :: t, i, w =>
    if kt ≤ w.slots.length then w
    else if b.ovf ≠ 1 ∧ kt ≤ i then w
    else if b.isNull c.x then fill s b kt t (i + 1) { w with slots := w.slots ++ [{ c := c, place := 0, null := true }] }
    else
      let np := if b.ovf = 2 then pcntAt s b c.x else (1, false)
      let w := { w with clamps := w.clamps + b2n np.2 }
      match placeFor b w c.x np.1 with
      | none => fill s b kt t (i + 1) (if b.ovf = 1 then { w with next := w.next + 1 } else w)
      | some q => fill s b kt t (i + 1)
          { w with slots := w.slots ++ [{ c := c, place := q, null := false }], spill := w.spill + b2n (q != 0),
                   used := cellSet (fun _ => 0) w.used (4 * c.x + q) (usedAt w c.x q + 1) }

/-! ### Outputs (R139 to R141) -/

/-- The token tag of k-slot j (R141). -/
def tokenTag (s : State) (layer : Nat) (half : Bool) (t j : Nat) : Nat :=
  ownDa s + t * 2 ^ 20 + j * 2 ^ 34 + layer * 2 ^ 37 + b2n half * 2 ^ 45 + kgen s * 2 ^ 46 + partId s * 2 ^ 50

/-- A slot record (R140). -/
def slotRecord (tag : Nat) (x : Slot) : List Byte :=
  leBytes 8 tag ++ leBytes 2 x.c.x ++ leBytes 1 (x.place + b2n x.null * 4 + b2n (x.place != 0) * 8 + 16) ++ leBytes 1 0 ++ leBytes 4 x.c.s

/-- What a whole SELECT command has done. -/
structure SelRun where
  writes : List Wr := []
  w : Walk := {}
  load : List (Nat × Nat) := []
  nan : Nat := 0
  skip : Nat := 0
  clamps : Nat := 0
deriving DecidableEq, Repr

/-- One token: its row's slots, gates, count and shared mask (R129, R130, R136, R138, R139); without shared experts, whose SH_BASE is zero, no mask
byte is written (DESIGN CHOICE, log entry 102). -/
def selectToken (s : State) (r : Record) (b : Sel) (din dd dg : Desc) (a : SelRun) (row : Nat) : SelRun :=
  let t := rTokFirst r + row
  let fl := rdLe s (b.flagsBase + t) 1
  let lskip := bit fl 1
  let skip := lskip || bit fl 0
  let e : Elig := if skip then { set := [], nan := false, clamps := 0 } else eligible s r b din dg row
  let nan := !skip && e.nan
  let cl := if skip || nan then [] else candList e
  let kt := if skip || nan then 0 else if rThresh r then threshK b cl 0 0 else b.k
  let w := fill s b kt cl 0 { used := a.w.used }
  let recs := (withIdx 0 w.slots).flatMap (fun q => slotRecord (tokenTag s b.layer (bit (rParam r) 6) t q.1) q.2)
  let row8 := recs ++ List.replicate (128 - recs.length) 0
  let gates := (w.slots.map (fun x => x.c.p)) ++ List.replicate (8 - w.slots.length) 0
  let mask := if lskip then 0 else 2 ^ b.nsh - 1
  let ws := (withIdx 0 row8).flatMap (fun q => dd.putCode [q.1, row, 0, 0, 0] q.2.toNat)
    ++ wrBytes (b.gateBase + 32 * t) (gates.flatMap (leBytes 4)) ++ wrBytes (b.cntBase + t) (leBytes 1 w.slots.length)
    ++ (if b.nsh = 0 then [] else wrBytes (b.shBase + t) (leBytes 1 mask))
  { writes := a.writes ++ ws,
    w := { slots := [], used := w.used, next := a.w.next + w.next, spill := a.w.spill + w.spill,
           drop := a.w.drop + (kt - w.slots.length), clamps := 0 },
    load := (w.slots.filter (fun x => !x.null)).foldl (fun l x => cellSet (fun _ => 0) l x.c.x (cellGet (fun _ => 0) l x.c.x + 1)) a.load,
    nan := a.nan + b2n nan, skip := a.skip + b2n skip, clamps := a.clamps + e.clamps + w.clamps }

/-- The load counts of the half, added to the held ones or replacing them (R139). -/
def loadWrites (s : State) (r : Record) (b : Sel) (load : List (Nat × Nat)) : List Wr :=
  (List.range b.e).flatMap (fun x =>
    let v := cellGet (fun _ => 0) load x
    let old := if bit (rParam r) 5 then rdLe s (b.loadBase + 4 * x) 4 else 0
    wrBytes (b.loadBase + 4 * x) (leBytes 4 (min (old + v) 0xFFFFFFFF)))

/-- select_cycles of R150. -/
def selectCycles (r : Record) (b : Sel) (n eIn : Nat) : Nat :=
  let per := if rGonly r then 12 + ceilDiv eIn 32 + b.g
    else
      let grp := if rGrp r then ceilDiv b.ng 8 + ceilDiv (b.g * (b.e / b.ng)) 32 else 0
      let walk := if b.ovf = 1 then 16 else if rThresh r then b.kmax else b.k
      12 + ceilDiv eIn 32 + grp + (if b.ovf = 2 then walk * 4 else walk) + 4
  64 + n * per + (if rGonly r then 0 else ceilDiv (b.e * 4) 64)

/-- What the block's arrays are read for. -/
def selReads (s : State) (r : Record) (b : Sel) (n : Nat) : List (Addr × Nat) :=
  (if rBiasEn r then [(b.biasBase, 4 * b.e)] else []) ++ [(b.flagsBase + rTokFirst r, n)]
    ++ (if b.ovf = 2 then [(b.pcntBase, b.e)] else []) ++ (if bit (rParam r) 5 then [(b.loadBase, 4 * b.e)] else [])
    ++ (if rCand r then touches s (descAt s (rPtr r 3)) else [])

/-- Status and counters of a SELECT (R152). -/
def selStatus (a : SelRun) (s : State) : State :=
  let s := bump Reg.SCORE_SEL_DROP_CNT a.w.drop (bump Reg.SCORE_SEL_NEXT_CNT a.w.next (bump Reg.SCORE_SEL_SPILL_CNT a.w.spill
    (bump Reg.SCORE_SEL_NAN_CNT a.nan (bump Reg.SCORE_SEL_SKIP_CNT a.skip s))))
  raiseIf (decide (0 < a.nan)) Reg.SCORE_SEL_STAT 3 (raiseIf (decide (0 < a.w.spill)) Reg.SCORE_SEL_STAT 2
    (raiseIf (decide (0 < a.w.next)) Reg.SCORE_SEL_STAT 1 (raiseIf (decide (0 < a.w.drop)) Reg.SCORE_SEL_STAT 0 s)))

/-! ### The bias loop (R142 to R144) -/

/-- The loop of a layer; nothing gathered where none is held. -/
def loopAt (s : State) (layer : Nat) : Loop :=
  match s.loops.find? (fun l => l.layer == layer) with
  | some l => l
  | none => { layer := layer, acc := [], steps := 0, bias := 0 }

/-- Replace a layer's loop. -/
def setLoop (l : Loop) (s : State) : State := { s with loops := insertBy (fun a b => decide (a.layer ≤ b.layer)) l (s.loops.filter (fun x => x.layer != l.layer)) }

/-- The SELECT record of half B that drives a step's bias loop: BIAS_EN under LOOP_EN (R142, R145). -/
def loopSelect (x : Step) : Option Record :=
  if bit (bReg x.bound Reg.SCORE_SEL_LOOP_CTL) 0 then
    x.recs.find? (fun r => rOp r == 0x10 && rBiasEn r && !(rGonly r) && bit (rParam r) 6)
  else none

/-- This step completes the window of its layer (R142). -/
def loopDue (s : State) (x : Step) (layer : Nat) : Bool := decide (bFld x.bound Reg.SCORE_SEL_LOOP_CTL 8 1 ≤ (loopAt s layer).steps + 1)

/-- The layer's window with this step's load counts added (R142; log entry 18). -/
def windowCount (s : State) (b : Sel) (x : Nat) : Nat :=
  min (cellGet (fun _ => 0) (loopAt s b.layer).acc x + rdLe s (b.loadBase + 4 * x) 4) 0xFFFFFFFF

/-- CLAMP: 16,383 when the partition's members lie in more than one pod (R142). -/
def loopClamp (s : State) : Nat := if s.part.members.any (fun d => bits d 16 15 != bits (ownDa s) 16 15) then 16383 else 65535

/-- One bias entry after an update (R143). fmin and fmax keep a NaN entry (DESIGN CHOICE, log entry 101). -/
def biasStep (b : Sel) (eta bmax : Nat) (tot : Int) (ne x cnt old : Nat) : Nat :=
  if b.isNull x then old else
  let lhs : Int := (sext 32 cnt) * (ne : Int)
  if lhs < tot then
    let v := addF32 old eta
    if ltVal (ofF32 bmax) (ofF32 v) then bmax else v
  else if tot < lhs then
    let v := addF32 old (Nat.xor eta 0x80000000)
    if ltVal (ofF32 v) (ofF32 (Nat.xor bmax 0x80000000)) then Nat.xor bmax 0x80000000 else v
  else old

/-- The vector after an update from reduced counts (R143). -/
def biasUpdate (b : Sel) (eta bmax : Nat) (cnts olds : List Nat) : List Nat :=
  let routed := (List.range b.e).filter (fun x => !(b.isNull x))
  let tot := routed.foldl (fun a x => a + sext 32 (cnts.getD x 0)) (0 : Int)
  (withIdx 0 olds).map (fun q => biasStep b eta bmax tot routed.length q.1 (cnts.getD q.1 0) q.2)

/-- The place in its step's list of the record the Keeper adds for the bias loop: above every list's records (R301). -/
def loopIdx : Nat := 0x10000

/-- The bias loop's reduction has been placed for the step (R142 step 3). -/
def loopPlaced (s : State) (q : W32) (x : Step) : Bool := s.ringq.any (fun r => r.step == q && r.idx == loopIdx) || x.loopVector.isSome

/-- The counts a window sends: of every routed expert, none of a null one, before the clamp. -/
def loopCounts (s : State) (b : Sel) : List Nat := (List.range b.e).map (fun x => if b.isNull x then 0 else windowCount s b x)

/-- An earlier step of the layer runs the loop and has not committed: a window counts committed steps, so the later step's turn comes after it
(R142; log entry 18). -/
def loopEarlier (s : State) (q : W32) (layer : Nat) : Bool :=
  (s.steps.takeWhile (fun y => y.seq != q)).any (fun y => y.started && !(decide (y.opcode = 0x80) && y.commitRec.isNone) && (match loopSelect y with
    | some r => (selBlock s r).layer == layer
    | none => false))

/-- After half B's SELECT of the step that completes a window, the Keeper places the reduction of the clamped counts (R142 step 3). Its
operands take one room, its signal counter is the Keeper's C127; where no room can be had for them, or for the new vector, the update is left out and
the window goes on (DESIGN CHOICE, log entry 20). -/
def loopReduce (q : W32) (sel : Record) (s : State) : State :=
  match stepAt s q with
  | none => s
  | some x =>
    let b := selBlock s sel
    if loopSelect x != some sel || (decide (x.opcode = 0x80) && x.commitRec.isNone) || loopEarlier s q b.layer || !(loopDue s x b.layer)
      || loopPlaced s q x then s else
    match allocRoom (8 * b.e + 256) s with
    | (0, a, bufs, s) =>
      let cl := loopClamp s
      let cs := loopCounts s b
      let vin := a + 256
      let vout := a + 256 + 4 * b.e
      let s := wrN a (descBytes vin 0x10 [(b.e, 1)] ++ descBytes vout 0x10 [(b.e, 1)] ++ cs.flatMap (fun v => leBytes 4 (min v cl))) s
      let s := raiseIf (cs.any (fun v => decide (cl < v))) Reg.SCORE_SEL_STAT 5 s
      let raw := mkRecord { op := 0x49, be := x.be, wait := rWait sel, sig := 127, target := (rTarget sel).toNat, param := 6 * 2 ^ 4, ptrs := [a, a + 128] }
      { modStep q (fun y => { y with buffers := y.buffers ++ bufs.map (fun c => (loopIdx, c)) }) s with
        ringq := s.ringq ++ [{ ring := 18 + b2n x.be, step := q, idx := loopIdx, raw := raw }] }
    | (_, _, _, t) => t

/-- A step has committed: where half B's SELECT of a later step of its layer has signalled, that step's window may now be complete (R142). -/
def loopRetry (s : State) : State :=
  (s.steps.filter Step.live).foldl (fun s x =>
    match loopSelect x with
    | none => s
    | some sel => if (s.ringq ++ x.held).any (fun r => r.step == x.seq && r.raw == sel) then s else loopReduce x.seq sel s) s

/-- SELECT (R126 to R151). -/
def selectJob (s : State) (r : RingRec) : Job :=
  let b := selOf s r
  let din := descAt s (rPtr r.raw 1)
  let dd := descAt s (rPtr r.raw 2)
  let dg := descAt s (rPtr r.raw 3)
  let n := din.sz 1
  let a := (List.range n).foldl (selectToken s r.raw b din dd dg) {}
  { reads := touches s din ++ selReads s r.raw b n, busyLo := Reg.SCORE_SEL_BUSY_LO, bound := selectCycles r.raw b n (din.sz 0),
    outs := [rPtr r.raw 2], writes := a.writes ++ loadWrites s r.raw b a.load, fx := { clamp := a.clamps },
    rep := selStatus a, after := loopReduce r.step r.raw }

/-- The groups SELECT writes for a row in GONLY mode, and whether the row held a NaN (R133). -/
def groupList (s : State) (b : Sel) (din : Desc) (row : Nat) : List Nat × Bool :=
  let l := (List.range b.ng).map (fun g => { x := g, p := 0, s := (readRaw s din [g, row, 0, 0, 0]).1 : Cand })
  if l.any nanScore then (List.range b.g, true) else (((rank l).take b.g).map Cand.x, false)

/-- SELECT with GONLY = 1 (R133). -/
def gonlyJob (s : State) (r : RingRec) : Job :=
  let b := selBlock s r.raw
  let din := descAt s (rPtr r.raw 1)
  let dd := descAt s (rPtr r.raw 2)
  let n := din.sz 1
  let rows := (List.range n).map (groupList s b din)
  let nan := (rows.filter Prod.snd).length
  { reads := touches s din, busyLo := Reg.SCORE_SEL_BUSY_LO, bound := selectCycles r.raw b n (din.sz 0), 
    outs := [rPtr r.raw 2],
    writes := (withIdx 0 rows).flatMap (fun q => (withIdx 0 q.2.1).flatMap (fun g => dd.putCode [g.1, q.1, 0, 0, 0] g.2)),
    rep := fun t => raiseIf (decide (0 < nan)) Reg.SCORE_SEL_STAT 3 (bump Reg.SCORE_SEL_NAN_CNT nan t) }

def isSelect (r : Record) : Bool := rOp r == 0x10 && !(rGonly r)
def isGonly (r : Record) : Bool := rOp r == 0x10 && rGonly r

/-- SELECT (R138). -/
def execSelect (be : Bool) (s : State) : Host.Outcome State Fault Refusal := finish (runJob 2 be isSelect selectJob s)
/-- SELECT with GONLY = 1 (R133). -/
def execSelectGonly (be : Bool) (s : State) : Host.Outcome State Fault Refusal := finish (runJob 2 be isGonly gonlyJob s)

end Sys2Proof.Machine
end

