-- ==== Sys2Proof/Machine/Coll.lean ====
section
/-! DEFINITION. The count phase, collective data, and the fused commands DISPATCH, REDUCE_STATS and SCORE_COUNT (spec/03 R95 to R97; spec/06
R165 to R167; spec/09 R242 to R257, R269, R270). -/

namespace Sys2Proof.Machine

/-! ### The hold area (R251) -/

/-- Bytes of the hold area in use. -/
def holdUsed (s : State) : Nat := total (s.hold.map (fun p => 64 + pLen p))

/-- Hold a packet, acknowledged; with no room it waits at the head of the REQ ejection queue (R251). -/
def holdPkt (p : Packet) (s : State) : State :=
  if Config.holdSize < holdUsed s + 64 + pLen p then { s with ejectQ := p :: s.ejectQ } else ackAccept p { s with hold := s.hold ++ [p] }

/-! ### Halves -/

/-- A half of a step before anything arrived for it. -/
def newHalf (q : W32) (h : Bool) (layer model : Nat) : Half :=
  { step := q, half := h, layer := layer, model := model, armed := false, xb := 0, inRows := 0, bundleRows := 0, resCnt := 0, sendXb := none,
    expChunks := 0, arrivals := 0, sendSignalled := false, sendWl := 0, recvWl := 0, inRecs := [], resultsSent := 0, rxKeys := [], rxCount := 0, rxBase := 0,
    rxCap := 0, rxOpen := false, counted := false }

/-- Change a half of a step, opening it where it is not listed. -/
def modHalf (q : W32) (h : Bool) (f : Half → Half) (s : State) : State :=
  match halfAt s q h with
  | some _ => { s with halves := s.halves.map (fun x => if x.step = q ∧ x.half = h then f x else x) }
  | none => match stepAt s q with
    | some x => { s with halves := s.halves ++ [f (newHalf q h x.layer x.model)] }
    | none => s

/-- Live steps that a packet's class, layer and model name, oldest first. -/
def pktSteps (s : State) (p : Packet) : List Step :=
  s.steps.filter (fun x => x.live && x.be == pBe p && x.layer == pLayer p && x.model == pModel p)

/-! ### Count records (R165, R167, R253) -/

/-- The DISPATCH record of a step's half, once it is in its ring. -/
def dispatchRec (s : State) (q : W32) (h : Bool) : Option RingRec :=
  s.ringq.find? (fun r => r.step == q && rOp r.raw == 0x48 && rHalf r.raw == h)

/-- The half a count packet belongs to: the oldest with its DISPATCH enqueued and its barrier open, else one whose barrier has completed. -/
def countTarget (s : State) (p : Packet) : Option (W32 × Bool) :=
  let l := pktSteps s p
  let done (x : Step) : Bool := match halfAt s x.seq (pHalf p) with | some h => h.counted | none => false
  match l.find? (fun x => !(done x) && (dispatchRec s x.seq (pHalf p)).isSome) with
  | some x => some (x.seq, false)
  | none => if l.any (fun x => !(done x)) then none else (l.find? done).map (fun x => (x.seq, true))

/-- Where a record goes in the received-record buffer: the next row, or in replay its captured position, none where the stream does not hold that
yet (R253, R371). -/
def countRow (s : State) (q : W32) (h : Bool) (b : List Byte) (n : Nat) : Option Nat :=
  if capMode s = 2 then
    (repFind 6 q.toNat h s).map (fun r => match (withIdx 0 (repEntries r)).find? (fun e => e.2 == b) with
      | some e => e.1
      | none => n)
  else some n

/-- One count record is accepted or discarded (R167, R253); in replay it waits until the stream holds its captured position (R371). -/
def takeCount (q : W32) (h : Bool) (b : List Byte) (s : State) : State :=
  match dispatchRec s q h with
  | none => s
  | some r =>
    let d := descAt s (rPtr r.raw 2)
    let c := parseCnt b
    let key := (c.src, c.x, c.place, c.bundle)
    let f := (halfAt s q h).getD (newHalf q h 0 0)
    if f.rxKeys.contains key then
      raiseKill .countRecords (some q) (raiseBit Reg.SORT_CNT_STAT 2 (bump Reg.SORT_CNT_DISCARD 1 s))
    else if d.sz 1 ≤ f.rxCount then
      raiseKill .countRecords (some q) (raiseBit Reg.XCHG_COLL_STAT 1 (bump Reg.XCHG_COLL_DISCARD 1 s))
    else match countRow s q h b f.rxCount with
    | none => { s with cap := { s.cap with rows := s.cap.rows ++ [{ isCount := true, step := q, half := h, tag := 0, chunk := 0, data := b }] } }
    | some row =>
      engWrite ((withIdx 0 b).flatMap (fun e => d.putCode [e.1, row, 0, 0, 0] e.2.toNat)) q (fun s =>
        bump Reg.SORT_CNT_RX 1 (modHalf q h (fun f => { f with rxKeys := key :: f.rxKeys, rxCount := f.rxCount + 1 }) s)) s

/-- The records of a count packet, in packet order. -/
def countChunks (p : Packet) : List (List Byte) := chunksOf 16 (min (pTs p 16 15 0) (p.payload.length / 16)) p.payload

/-- Place the records of a count packet whose DISPATCH is enqueued; none where it is not. -/
def placeCount (p : Packet) (s : State) : Option State :=
  match countTarget s p with
  | none => none
  | some (q, true) =>
    some (raiseKill .countRecords (some q) (raiseBit Reg.SORT_CNT_STAT 1 (bump Reg.SORT_CNT_DISCARD (countChunks p).length s)))
  | some (q, false) => some ((countChunks p).foldl (fun s b => takeCount q (pHalf p) b s) s)

/-- A COUNT packet with SUB = 0 after its checks. -/
def onCount (p : Packet) (s : State) : State :=
  if pTs p 18 3 0 ≠ 0 then s else
  match placeCount p s with
  | none => holdPkt p s
  | some t => if (countTarget s p).any Prod.snd then t else ackAccept p t

/-! ### DISPATCH (R165, R166, R253, R257) -/

/-- The lines a DISPATCH needs. -/
def dispatchNeed (s : State) (r : RingRec) : Bool × Nat × Nat × List Nat :=
  let ep := epochOf s r.step
  (ep, rModel r.raw, rLayer r.raw, (readRuns s ep (descAt s (rPtr r.raw 1))).map PRun.x)

/-- A count record's bytes (R165). -/
def cntBytes (src place : Nat) (claim bundle : Bool) (x count : Nat) : List Byte :=
  leBytes 4 (src + place * 2 ^ 20 + b2n claim * 2 ^ 22 + b2n bundle * 2 ^ 23) ++ leBytes 2 x ++ leBytes 2 0 ++ leBytes 4 count ++ leBytes 4 0

/-- The records a DISPATCH sends, by destination: count records in ascending FINAL, then bundle records in ascending gateway (R165, R253). -/
def countsOut (me : Nat) (ps : List Planned) : List (Nat × List (List Byte)) :=
  let send := ps.filter (fun p => p.r.final != me && p.mode != 2)
  let dsts := sortBy (fun a b => decide (a ≤ b)) (send.map (fun p => p.r.final)).dedup
  let via := ps.filter (fun p => p.r.viaGw && p.mode == 0)
  let gws := sortBy (fun a b => decide (a ≤ b)) (via.map (fun p => p.r.hop)).dedup
  dsts.map (fun d => (d, (send.filter (fun p => p.r.final == d)).map (fun p => cntBytes me p.r.place p.claim false p.r.x p.r.count)))
    ++ gws.map (fun g => (g, [cntBytes me 0 false true 0 (total ((via.filter (fun p => p.r.hop == g)).map (fun p => p.r.count)))]))

/-- A COUNT packet of count records. -/
def mkCount (s : State) (dst : Nat) (x : Step) (h : Bool) (recs : List (List Byte)) : Packet :=
  mkPacket s { typ := 3, dst := dst, be := x.be, epoch := x.epoch, layer := x.layer, half := h, model := x.model, kgen := kgen s,
               ts := tsAt 16 recs.length } recs.flatten

/-- The count barrier of a half (R267). -/
def countId (s : State) (x : Step) (h : Bool) : BarId :=
  { group := partId s, tag := 1 + b2n h * 2 ^ 3 + x.layer * 2 ^ 4 + x.seq.toNat % 4 * 2 ^ 12, kgen := kgen s }

/-- The commit barrier of a step (R235, R267). -/
def commitId (s : State) (x : Step) : BarId :=
  { group := partId s, tag := 2 + 2 ^ 3 + x.layer * 2 ^ 4 + x.seq.toNat % 4 * 2 ^ 12, kgen := kgen s }

/-- The REDUCE instance of a step (R267). -/
def reduceId (s : State) (x : Step) : BarId :=
  { group := partId s, tag := 3 + x.layer * 2 ^ 4 + x.seq.toNat % 4 * 2 ^ 12, kgen := kgen s }

/-- The instance a running command has yet to join. -/
def willJoin (s : State) (u : Run) : Option BarId :=
  if u.bar.isSome then none else
  (stepAt s u.cmd.step).bind (fun x =>
    if rOp u.cmd.raw = 0x48 then some (countId s x (rHalf u.cmd.raw))
    else if rOp u.cmd.raw = 0x39 then some (commitId s x)
    else if rOp u.cmd.raw = 0x49 ∧ bit (rParam u.cmd.raw) 7 then some (reduceId s x) else none)

/-- A command's join would open no fifth instance of its group, counting those that running commands have yet to open (R270). -/
def barFree (s : State) (id : BarId) : Bool :=
  let l := (s.insts.map Inst.id ++ s.running.filterMap (willJoin s)).dedup
  l.contains id || decide ((l.filter (fun i => i.group == id.group)).length < 4)

/-- The COUNTS record of a half, or the comparison of its set in replay (R366, R372). -/
def capCounts (q : W32) (h : Bool) (l : List (List Byte)) (s : State) : State :=
  if capMode s = 2 then repCompare { typ := 6, payload := l.flatten, n := 0, value := 0, step := q.toNat } s
  else capWrite 6 0 h q.toNat l.flatten s

/-- The run whose barrier an instance is. -/
def runOfBar (s : State) (id : BarId) : Option Run := s.running.find? (fun u => u.bar == some id)

/-- A COUNT barrier releases: the half's count phase is complete and DISPATCH signals (R166). -/
def relCount (id : BarId) (_ : Nat) (_ : W64) (s : State) : State :=
  match runOfBar s id with
  | none => s
  | some u =>
    let h := rHalf u.cmd.raw
    let q := u.cmd.step
    let d := descAt s (rPtr u.cmd.raw 2)
    let n := match halfAt s q h with | some f => f.rxCount | none => 0
    let s := modHalf q h (fun f => { f with counted := true }) s
    let s := capCounts q h ((List.range n).map (fun j => rowRd s d 16 j)) s
    complete u (busyFree Reg.XCHG_COLL_BUSY_LO s)

/-- Join the half's COUNT barrier once every record sent is acknowledged (R166). -/
def countJoin (s : State) : State :=
  match s.running.find? (fun u => u.eng == 9 && rOp u.cmd.raw == 0x48 && u.stage == 2 && u.acks.isEmpty && u.bar.isNone) with
  | none => s
  | some u => match stepAt s u.cmd.step with
    | none => s
    | some x =>
      let id := countId s x (rHalf u.cmd.raw)
      joinLocal relCount id 15 false 0 (modRun 9 (fun u => { u with bar := some id }) s)

/-- DISPATCH sends its records; with none to send it joins at once. -/
def dispatchJob (s : State) (r : RingRec) : Job :=
  let c := planCtx s r.step (rHalf r.raw) (rModel r.raw) (rLayer r.raw)
  let dr := descAt s (rPtr r.raw 1)
  let pl := planRuns s c (readRuns s c.ep dr)
  let out := countsOut (ownDa s) pl
  let go (free : Bool) (t : State) : State :=
      match stepAt t r.step with
      | none => t
      | some x =>
        let ps := out.flatMap (fun o => (chunksOf 256 (ceilDiv o.2.length 256) o.2).map (fun l => mkCount t o.1 x (rHalf r.raw) l))
        let ps := if free then freePackets t ps else ps
        let t := modStep r.step (fun x => { x with
          claims := x.claims ++ notesAs free t ((pl.filter (fun p => p.mode == 1)).map (planNote s c)),
          claimHits := x.claimHits ++ notesAs free t ((pl.filter (fun p => p.mode == 2)).map (planNote s c)) }) t
        countJoin (modHalf r.step (rHalf r.raw) id
          (modRun 9 (fun u => { u with stage := 2, ackType := 3, acks := ps.map pDst }) (injectAll ps t)))
  { reads := touches s dr, busyLo := Reg.XCHG_COLL_BUSY_LO, bound := 0, wait := true, after := go false, early := some (go true) }

def isDispatch (r : Record) : Bool := rOp r == 0x48

/-- DISPATCH (R253); it does not start while its join would open a fifth instance (R270). -/
def startDispatch (be : Bool) (s : State) : State :=
  let ok : Bool := match startable s 9 be with
    | none => true
    | some r => match stepAt s r.step with
      | none => true
      | some x => barFree s (countId s x (rHalf r.raw))
  if ok then runLines 9 be isDispatch dispatchNeed dispatchJob s else s

/-- DISPATCH (R253). -/
def execDispatch (be : Bool) (s : State) : Host.Outcome State Fault Refusal := finish (startDispatch be s)

/-! ### Groups and stages (R242, R243, R246) -/

/-- The block of level k a die lies in: package, rack, pod, system. -/
def blockOf (k d : Nat) : Nat := match k with | 0 => d / 2 ^ 6 | 1 => d / 2 ^ 11 | 2 => d / 2 ^ 15 | _ => 0

/-- The members of the own group of a code, in rank order; fenced dies have left it (R242, R243, R386), but not for SCORE_COUNT (`cnt`), which never
completes without one of its members (R97, R391). -/
def collMembers (s : State) (cnt : Bool) (g : Nat) : List Nat :=
  let o := ownDa s
  let inG (d : Nat) : Bool := match g with
    | 0 => d / 64 == o / 64 && d / 8 % 8 == o / 8 % 8
    | 1 => d / 64 == o / 64 && d % 8 == o % 8
    | 2 => d / 64 == o / 64
    | 3 => blockOf 1 d == blockOf 1 o
    | 4 => blockOf 2 d == blockOf 2 o
    | _ => true
  sortBy (fun a b => decide (a ≤ b)) (s.part.members.filter (fun d => inG d && (cnt || !isFenced s d)))

/-- The top level of a group over its members (R242). -/
def collTop (g : Nat) (ms : List Nat) : Nat :=
  match g with
  | 0 => 0 | 1 => 0 | 2 => 0 | 3 => 1 | 4 => 2 | 5 => 3
  | _ => ((List.range 4).find? (fun k => ms.all (fun d => blockOf k d == blockOf k (ms.headD 0)))).getD 3

/-- The participants of stage k: the members at the package stage, above it the representatives one level down (R243, R246). -/
def stageAll (k : Nat) (ms : List Nat) : List Nat :=
  match k with
  | 0 => ms
  | j + 1 => ms.filter (fun d => ms.all (fun e => blockOf j e != blockOf j d || decide (d ≤ e)))

/-- The participants of stage k in die d's block. -/
def stageOf (k : Nat) (ms : List Nat) (d : Nat) : List Nat := (stageAll k ms).filter (fun e => blockOf k e == blockOf k d)

/-- A stage exists where some block has two or more participants (R246). -/
def stageIs (k : Nat) (ms : List Nat) : Bool := (stageAll k ms).any (fun d => decide (2 ≤ (stageOf k ms d).length))

/-- The stages of a collective, bottom up. -/
def stagesOf (g : Nat) (ms : List Nat) : List Nat := (List.range (collTop g ms + 1)).filter (fun k => stageIs k ms)

/-! ### Collective commands -/

/-- A collective as a record names it: SUB, OP, GROUP, elements, bytes of an element. -/
structure CollCtx where
  sub : Nat
  op : Nat
  group : Nat
  n : Nat
  esz : Nat
deriving DecidableEq, Repr

/-- The collective of a record; none where it has none on the fabric. -/
def collCtx (s : State) (r : Record) : Option CollCtx :=
  if rOp r = 0x02 then some { sub := 1, op := 15, group := rPar r 28 26, n := (descAt s (rPtr r 1)).sz 1 * (descAt s (rPtr r 2)).sz 1, esz := 32 }
  else if rOp r = 0x49 ∧ !(bit (rParam r) 7) then
    let d := descAt s (rPtr r 1)
    let op := rPar r 3 0
    some { sub := 2, op := op, group := rPar r 6 4, n := if op = 8 then d.count / 16 else d.count, esz := if op = 8 then 16 else 4 }
  else none

/-- Values are narrowed to BF16 at the system stage for SUM_F32 (R248, R249). -/
def CollCtx.narrow (c : CollCtx) (k : Nat) : Bool := c.op == 5 && k == 3
/-- Bytes of an element on the wire in a phase of a stage. -/
def CollCtx.wire (c : CollCtx) (phase k : Nat) : Nat := if c.narrow k && phase != 2 then 2 else c.esz
/-- Elements of a segment of a stage of p participants (R246). -/
def CollCtx.seg (c : CollCtx) (p : Nat) : Nat := ceilDiv c.n p

/-- Two contributions to an element combined (R248, R249). -/
def collCombine (c : CollCtx) (k a b : Nat) : Nat :=
  if c.op = 15 then accCode (accAdd (accOf a) (accOf b))
  else if c.op = 8 then
    (a % 2 ^ 96 + b % 2 ^ 96) % 2 ^ 96 + (if a / 2 ^ 96 = b / 2 ^ 96 then a / 2 ^ 96 else fpF32.nanCode) * 2 ^ 96
  else if c.narrow k then (convert fpBF16 false (addVal (decodeFp fpBF16 a) (decodeFp fpBF16 b))).code
  else combineOp c.op a b

/-- The M fields of two SUMEXP records differ (R250). -/
def collMBad (c : CollCtx) (l : List Nat) : Bool := c.op == 8 && l.any (fun v => decide (v / 2 ^ 96 ≠ (l.headD 0) / 2 ^ 96))

/-- The buffers of a record. -/
def collBuf (s : State) (r : RingRec) : List CollData :=
  match s.colls.find? (fun b => b.step == r.step && b.ring == r.ring && b.idx == r.idx) with
  | some b => b.data
  | none => []

/-- Add to the buffers of a record. -/
def collPut (r : RingRec) (x : CollData) (s : State) : State :=
  if s.colls.any (fun b => b.step == r.step && b.ring == r.ring && b.idx == r.idx) then
    { s with colls := s.colls.map (fun b => if b.step = r.step ∧ b.ring = r.ring ∧ b.idx = r.idx then { b with data := b.data ++ [x] } else b) }
  else { s with colls := s.colls ++ [{ step := r.step, ring := r.ring, idx := r.idx, data := [x] }] }

/-- Element i received from a source in a phase of a stage. -/
def collElem (l : List CollData) (src phase stage i : Nat) : Option Nat :=
  l.findSome? (fun x => if x.src = src ∧ x.phase = phase ∧ x.stage = stage ∧ x.offset ≤ i then x.elems[i - x.offset]? else none)

/-- Elements lo to hi − 1 from a source, if all have come. -/
def collSpan (l : List CollData) (src phase stage lo hi : Nat) : Option (List Nat) :=
  ((List.range (hi - lo)).map (fun j => collElem l src phase stage (lo + j))).foldr (fun o acc => match o, acc with
    | some v, some t => some (v :: t)
    | _, _ => none) (some [])

/-! ### Sending collective data (R246, R247) -/

/-- Where packets of a phase go. -/
structure CollDst where
  dst : Nat
  mcast : Nat := 0
  mask : Nat := 0
deriving DecidableEq, Repr

/-- The dies a packet is delivered to. -/
def CollDst.dies (t : CollDst) : List Nat :=
  match t.mcast with
  | 1 => ((List.range 8).filter (fun i => bit t.mask i)).map (fun i => t.dst / 8 * 8 + i)
  | 2 => ((List.range 8).filter (fun i => bit t.mask i)).map (fun i => t.dst / 64 * 64 + i * 8 + t.dst % 8)
  | _ => [t.dst]

/-- The packets that carry elements from an offset on. -/
def collPkts (s : State) (x : Step) (c : CollCtx) (phase stage off : Nat) (elems : List Nat) (t : CollDst) : List Packet :=
  let w := c.wire phase stage
  let per := 4096 / w
  (withIdx 0 (chunksOf per (ceilDiv elems.length per) elems)).map (fun q =>
    mkPacket s { typ := 3, dst := t.dst, be := x.be, epoch := x.epoch, layer := x.layer, half := false, model := x.model, kgen := kgen s,
                 mcast := t.mcast, mmask := t.mask,
                 ts := tsAt 16 q.2.length + tsAt 18 c.sub + tsAt 19 (phase + stage * 4) + tsAt 20 c.n + tsAt 24 (off + per * q.1)
                   + tsAt 28 (c.op + c.group * 16) } (q.2.flatMap (leBytes w)))

/-- Send elements to targets, and expect an ACK from every die they reach. -/
def collSend (e : Nat) (x : Step) (c : CollCtx) (phase stage off : Nat) (elems : List Nat) (ts : List CollDst) (s : State) : State :=
  ts.foldl (fun s t =>
    let ps := collPkts s x c phase stage off elems t
    modRun e (fun u => { u with acks := u.acks ++ ps.flatMap (fun _ => t.dies) }) (injectAll ps s)) s

/-- The multicast of a result down a package: from the representative a column multicast to the member dies of its column, from each of
these a row multicast along its row, and from the representative one along its own row and every row without such a die (R246; log entry 22). -/
def downTargets (ms : List Nat) (me : Nat) : List CollDst :=
  let l := stageOf 0 ms me
  let rep := l.headD me
  let rowOf (d : Nat) : Nat := d / 8 % 8
  let inRow (y : Nat) : List Nat := l.filter (fun d => rowOf d == y && d != me)
  let rowCast (y : Nat) (but : Nat) : List CollDst :=
    let t := (inRow y).filter (fun d => d != but)
    match t with
    | [] => []
    | d :: _ => [{ dst := d, mcast := 1, mask := total (t.map (fun e => 2 ^ (e % 8))) }]
  if me = rep then
    let col := l.filter (fun d => d % 8 == rep % 8 && d != rep)
    let cast : List CollDst := match col with
      | [] => []
      | d :: _ => [{ dst := d, mcast := 2, mask := total (col.map (fun e => 2 ^ rowOf e)) }]
    cast ++ ((List.range 8).filter (fun y => y == rowOf rep || !(col.any (fun d => rowOf d == y)))).flatMap (fun y => rowCast y rep)
  else if me % 8 = rep % 8 && rowOf me != rowOf rep then rowCast (rowOf me) rep
  else []

/-- The die whose packets bring die `me` the result at a stage (R246): the representative, or in its package the member of its column that casts
along the row. -/
def downFrom (k : Nat) (ms : List Nat) (me : Nat) : Nat :=
  let l := stageOf k ms me
  let rep := l.headD 0
  let rowOf (d : Nat) : Nat := d / 8 % 8
  if k ≠ 0 ∨ me % 8 = rep % 8 ∨ rowOf me = rowOf rep then rep
  else (l.find? (fun d => d % 8 == rep % 8 && rowOf d == rowOf me)).getD rep

/-- The result goes down every stage below k (R246). -/
def collDown (e : Nat) (x : Step) (c : CollCtx) (ms : List Nat) (k : Nat) (v : List Nat) (s : State) : State :=
  let me := ownDa s
  ((stagesOf c.group ms).filter (fun j => decide (j < k))).reverse.foldl (fun s j =>
    if j = 0 then collSend e x c 2 0 0 v (downTargets ms me) s
    else collSend e x c 2 j 0 v (((stageOf j ms me).filter (fun d => d != me)).map (fun d => { dst := d })) s) s

/-! ### Results (R250, R252, R257, R95) -/

/-- An element of a result as it is written: every NaN in it is the canonical one (R42). -/
def CollCtx.canon (c : CollCtx) (a : Nat) : Nat :=
  if c.op = 8 then a % 2 ^ 96 + canonCode 6 (a / 2 ^ 96) * 2 ^ 96 else canonCode c.op a

/-- The products that a logit of SCORE_COUNT folds, as far as one member knows: as many from every member as from this one, and no fewer than the sum
shows (R84; log entry 61). -/
def countFolded (s : State) (r : Record) (c : CollCtx) (v : Nat) : Nat :=
  max ((descAt s (rPtr r 1)).sz 0 * (collMembers s true c.group).length) (accFewest (accOf v))

/-- The writes of a collective's result, and the logits of SCORE_COUNT. -/
def collWrites (s : State) (r : Record) (c : CollCtx) (v : List Nat) : List Wr × List Logit :=
  let v := v.map c.canon
  if c.sub = 1 then
    let dd := descAt s (rPtr r 3)
    let e := (descAt s (rPtr r 2)).sz 1
    let ls := (withIdx 0 v).map (fun a => (logitOf {} (accOf a.2)).orFree {} (pastLimit 0 (countFolded s r c a.2)) s a.1)
    ((withIdx 0 ls).flatMap (fun q => dd.putCode [q.1 % (max 1 e), q.1 / (max 1 e), 0, 0, 0] q.2.code), ls)
  else
    let dd := descAt s (rPtr r 2)
    if c.op = 8 then
      ((withIdx 0 (v.flatMap (leBytes 16))).flatMap (fun q => dd.putCode (dd.coord q.1) q.2.toNat), [])
    else ((withIdx 0 v).flatMap (fun q => dd.putCode (dd.coord q.1) q.2), [])

/-- The chunk signals of R252, after the whole output is written. -/
def chunkSigs (r : Record) (bytes : Nat) (s : State) : State :=
  if bit (rParam r) 18 then (List.range (ceilDiv bytes 4096)).foldl (fun s _ => signal (rPar r 17 8) s) s else s

/-- The bias loop's reduction writes the updated vector, made from the layer's published one, to a fresh buffer (R143). -/
def loopResult (r : RingRec) (v : List Nat) (s : State) : State :=
  match stepAt s r.step with
  | none => s
  | some x => match loopSelect x with
    | none => s
    | some sel =>
      if r.idx ≠ loopIdx then s else
      let b := selBlock s sel
      let l := loopAt s b.layer
      let olds := (List.range b.e).map (fun i => rdLe s ((if l.bias = 0 then b.biasBase else l.bias) + 4 * i) 4)
      let nv := biasUpdate b (bReg x.bound Reg.SCORE_SEL_LOOP_ETA) (bReg x.bound Reg.SCORE_SEL_LOOP_BMAX) v olds
      match allocRoom (4 * b.e) s with
      | (0, a, bufs, s) =>
        modStep r.step (fun y => { y with loopVector := some a, buffers := y.buffers ++ bufs.map (fun c => (loopIdx + 1, c)) })
          (keeperWrite (wrBytes a (nv.flatMap (leBytes 4))) (keeperRead [(if l.bias = 0 then b.biasBase else l.bias, 4 * b.e)] s))
      | (_, _, _, s) => s

/-- A collective's result is written and the command signals. -/
def collFinish (e : Nat) (c : CollCtx) (v : List Nat) (s : State) : State :=
  match runOn s e with
  | none => s
  | some u =>
    let r := u.cmd
    let w := collWrites s r.raw c v
    engWrite w.1 r.step (fun s =>
      let s := loopResult r v (chunkSigs r.raw (c.n * c.esz) (if c.sub = 1 then scoreStatus w.2 (tick s) else s))
      let s := busyFree Reg.XCHG_COLL_BUSY_LO s
      let s := if c.sub = 1 then busyFree Reg.SCORE_BUSY_LO s else s
      complete u (digests r [rPtr r.raw (if c.sub = 1 then 3 else 2)] s)) s

/-! ### Running a collective (R245, R246) -/

/-- The segment bounds of the participant of rank i. -/
def CollCtx.bounds (c : CollCtx) (p i : Nat) : Nat × Nat := (min c.n (i * c.seg p), min c.n ((i + 1) * c.seg p))

/-- Send every other owner its segment (R246 step 1). -/
def collScatter (e : Nat) (x : Step) (c : CollCtx) (ms : List Nat) (k : Nat) (v : List Nat) (s : State) : State :=
  let me := ownDa s
  let ps := stageOf k ms me
  (withIdx 0 ps).foldl (fun s q =>
    let b := c.bounds ps.length q.1
    if q.2 = me || b.1 = b.2 then s else collSend e x c 0 k b.1 ((v.drop b.1).take (b.2 - b.1)) [{ dst := q.2 }] s) s

/-- A vector at the entry of a stage: narrowed at the system stage of SUM_F32, with the report of those conversions (R46, R249). -/
def collEnter (c : CollCtx) (k : Nat) (v : List Nat) : List Nat × Fx :=
  if c.narrow k then
    let l := v.map (fun a => convert fpBF16 false (ofF32 a))
    (l.map Conv.code, { ovf := l.any Conv.ovf })
  else (v, {})
/-- A vector at the exit of a stage: widened exactly. -/
def collLeave (c : CollCtx) (k : Nat) (v : List Nat) : List Nat := if c.narrow k then v.map (fun a => toF32 (decodeFp fpBF16 a)) else v

/-- The own segment combined in rank order, if every contribution has come (R246, R249): the M fields' disagreement, and the values. -/
def collOwn (c : CollCtx) (k : Nat) (ps : List Nat) (me : Nat) (data : List CollData) (v : List Nat) : Option (Bool × List Nat) :=
  let i := ps.idxOf me
  let b := c.bounds ps.length i
  let rows := ps.map (fun d => if d = me then some ((v.drop b.1).take (b.2 - b.1)) else collSpan data d 0 k b.1 b.2)
  if rows.any Option.isNone then none else
  let rs := rows.filterMap id
  let col (j : Nat) : List Nat := rs.map (fun l => l.getD j 0)
  let js := List.range (b.2 - b.1)
  some (js.any (fun j => collMBad c (col j)), js.map (fun j => match col j with | [] => 0 | a :: t => t.foldl (collCombine c k) a))

/-- All segments of a stage, if every owner's has come. -/
def collAll (c : CollCtx) (k : Nat) (ps : List Nat) (me : Nat) (data : List CollData) (own : List Nat) : Option (List Nat) :=
  let rows := (withIdx 0 ps).map (fun q =>
    let b := c.bounds ps.length q.1
    if q.2 = me then some own else collSpan data q.2 1 k b.1 b.2)
  if rows.any Option.isNone then none else some (rows.filterMap id).flatten

/-- Go on with the collective on an engine as far as the data received allow: phase 0 gathers the own segment, 1 all segments, 2 the result from
above; n bounds the links of the chain. -/
def collGo (e : Nat) (c : CollCtx) (x : Step) (ms : List Nat) : Nat → State → State
  | 0, s => s
  | n + 1, s =>
    match runOn s e with
    | none => s
    | some u =>
      let me := ownDa s
      let k := u.stage
      let ps := stageOf k ms me
      let data := collBuf s u.cmd
      match u.phase with
      | 0 => match collOwn c k ps me data u.value with
        | none => s
        | some o =>
          let b := c.bounds ps.length (ps.idxOf me)
          let s := raiseIf o.1 Reg.XCHG_COLL_STAT 2 s
          let s := if b.1 = b.2 then s else collSend e x c 1 k b.1 o.2 ((ps.filter (fun d => d != me)).map (fun d => { dst := d })) s
          collGo e c x ms n (modRun e (fun u => { u with phase := 1, value := o.2 }) s)
      | 1 => match collAll c k ps me data u.value with
        | none => s
        | some v =>
          let v := collLeave c k v
          match (stagesOf c.group ms).find? (fun j => decide (k < j)) with
          | none => collFinish e c v (collDown e x c ms k v s)
          | some j =>
            if (stageAll j ms).contains me then
              let w := collEnter c j v
              collGo e c x ms n
                (collScatter e x c ms j w.1 (modRun e (fun u => { u with phase := 0, stage := j, value := w.1 }) (applyFx w.2 s)))
            else collGo e c x ms n (modRun e (fun u => { u with phase := 2 }) s)
      | _ => match collSpan data (downFrom k ms me) 2 k 0 c.n with
        | none => s
        | some v =>
          let s := if k = 0 then collSend e x c 2 0 0 v (downTargets ms me) s else collDown e x c ms k v s
          collFinish e c v s

/-- Go on with the collective on an engine, once it has begun (R245). -/
def collResume (e : Nat) (s : State) : State :=
  match runOn s e with
  | none => s
  | some u => match stepAt s u.cmd.step, collCtx s u.cmd.raw with
    | some x, some c => if u.ackType ≠ 3 then s else collGo e c x (collMembers s (c.sub == 1) c.group) 16 s
    | _, _ => s

/-- Begin the collective on an engine with its own vector (R245). -/
def collBegin (e : Nat) (v : List Nat) (s : State) : State :=
  match runOn s e with
  | none => s
  | some u => match stepAt s u.cmd.step, collCtx s u.cmd.raw with
    | some x, some c =>
      let ms := collMembers s (c.sub == 1) c.group
      match (stagesOf c.group ms).find? (fun k => (stageAll k ms).contains (ownDa s)) with
      | none => collFinish e c v s
      | some k =>
        let w := collEnter c k v
        collResume e
          (collScatter e x c ms k w.1 (modRun e (fun u => { u with stage := k, phase := 0, value := w.1, ackType := 3 }) (applyFx w.2 s)))
    | _, _ => s

/-! ### Receiving collective data (R247, R250, R251) -/

/-- The enqueued records a data packet can be for, oldest first. -/
def collTargets (s : State) (p : Packet) : List RingRec :=
  let op := if pTs p 18 3 0 = 1 then 0x02 else 0x49
  let l := pktSteps s p
  s.ringq.filter (fun r => rOp r.raw == op && (collCtx s r.raw).isSome && l.any (fun x => x.seq == r.step))

/-- The header agrees with a record's collective (R250). -/
def collAgrees (s : State) (p : Packet) (r : RingRec) : Bool :=
  match collCtx s r.raw with
  | none => false
  | some c => pTs p 18 3 0 == c.sub && pTs p 28 3 0 == c.op && pTs p 28 7 4 == c.group && pTs p 20 31 0 == c.n

/-- The packet's elements under a record's collective. -/
def collData (c : CollCtx) (p : Packet) : CollData :=
  let phase := pTs p 19 1 0
  let stage := pTs p 19 4 2
  let w := c.wire phase stage
  { src := pSrc p, phase := phase, stage := stage, offset := pTs p 24 31 0,
    elems := (chunksOf w (min (pTs p 16 15 0) (p.payload.length / w)) p.payload).map leNat }

/-- In range, and no element a second time from one source in one phase and stage (R250). -/
def collFits (s : State) (p : Packet) (r : RingRec) : Bool :=
  match collCtx s r.raw with
  | none => false
  | some c =>
    let d := collData c p
    decide (d.offset + pTs p 16 15 0 ≤ c.n) && !((collBuf s r).any (fun x => x.src == d.src && x.phase == d.phase && x.stage == d.stage
      && decide (x.offset < d.offset + d.elems.length) && decide (d.offset < x.offset + x.elems.length)))

/-- A SCORE_COUNT, started or not, met a stream that disagrees: no logits, COLL_MISMATCH, its signal, and its step ends with CONFLICT (R95). -/
def scoreMismatch (r : RingRec) (s : State) : State :=
  let s := raiseBit Reg.SCORE_STAT 5 s
  let s := match s.running.find? (fun u => u.cmd == r) with
    | some u => retire u (busyCut u s)
    | none => retire { newRun s 10 r with eng := 10 } s
  raiseKill .collMismatch (some r.step) s

/-- Place a collective data packet whose record is enqueued; none where no such record is (R250, R251). The flag says it was accepted. -/
def placeColl (p : Packet) (s : State) : Option (Bool × State) :=
  match collTargets s p with
  | [] => none
  | r0 :: t =>
    match (r0 :: t).find? (fun r => collAgrees s p r && collFits s p r) with
    | some r => match collCtx s r.raw with
      | none => none
      | some c =>
        let s := collPut r (collData c p) s
        some (true, match s.running.find? (fun u => u.cmd == r) with
          | some u => collResume u.eng s
          | none => s)
    | none =>
      if pTs p 18 3 0 = 1 && !((r0 :: t).any (collAgrees s p)) then some (false, scoreMismatch r0 s)
      else some (false, raiseKill .collRefused (some r0.step) (raiseBit Reg.XCHG_COLL_STAT 0 (bump Reg.XCHG_COLL_DISCARD 1 s)))

/-- A COUNT packet with SUB ≠ 0 after its checks: reserved SUBs are discarded as disagreeing with every command. -/
def onColl (p : Packet) (s : State) : State :=
  if pTs p 18 3 0 = 0 then s
  else if 3 ≤ pTs p 18 3 0 then
    raiseKill .collRefused ((pktSteps s p).head?.map Step.seq) (raiseBit Reg.XCHG_COLL_STAT 0 (bump Reg.XCHG_COLL_DISCARD 1 s))
  else match placeColl p s with
    | none => holdPkt p s
    | some (true, t) => ackAccept p t
    | some (false, t) => t

/-- Held COUNT packets whose record is now enqueued are placed (R251). -/
def drainCounts (s : State) : State :=
  s.hold.foldl (fun s p =>
    if pTyp p ≠ 3 || !(s.hold.contains p) then s else
    let drop (s : State) : State := { s with hold := dropFirst (fun q => q == p) s.hold }
    if pTs p 18 3 0 = 0 then
      match placeCount p (drop s) with
      | none => s
      | some t => t
    else match placeColl p (drop s) with
      | none => s
      | some t => t.2) s

/-! ### REDUCE_STATS (R246, R254, R269) -/

/-- The elements of an input as codes. -/
def reduceIn (s : State) (d : Desc) (op : Nat) : List Nat :=
  if op = 8 then (chunksOf 16 (d.count / 16) ((List.range d.count).map (fun n => BitVec.ofNat 8 (readRaw s d (d.coord n)).1))).map leNat
  else (List.range d.count).map (fun n => (readRaw s d (d.coord n)).1)

/-- REDUCE_STATS on the fabric. -/
def reduceJob (s : State) (r : RingRec) : Job :=
  let d := descAt s (rPtr r.raw 1)
  { reads := touches s d, busyLo := Reg.XCHG_COLL_BUSY_LO, bound := 0, wait := true,
    after := collBegin 9 (reduceIn s d (rPar r.raw 3 0)),
    early := some (fun t => collBegin 9 ((List.range (reduceIn s d (rPar r.raw 3 0)).length).map (freeF32 t)) t) }

/-- A REDUCE release: its lanes are the result, or it was refused (R269). -/
def relReduce (id : BarId) (op : Nat) (v : W64) (s : State) : State :=
  match runOfBar s id with
  | none => s
  | some u =>
    let r := u.cmd
    if op = 14 then raiseKill .collRefused (some r.step) (raiseBit Reg.XCHG_COLL_STAT 0 s) else
    let dd := descAt s (rPtr r.raw 2)
    let vals := [v.toNat % 2 ^ 32, v.toNat / 2 ^ 32].take dd.count
    engWrite ((withIdx 0 vals).flatMap (fun q => dd.putCode (dd.coord q.1) q.2)) r.step (fun s =>
      complete u (digests r [rPtr r.raw 2] (busyFree Reg.XCHG_COLL_BUSY_LO s))) s

/-- REDUCE_STATS over the beacon tree. -/
def reduceBcnJob (s : State) (r : RingRec) : Job :=
  let d := descAt s (rPtr r.raw 1)
  let v := reduceIn s d (rPar r.raw 3 0)
  let pay := BitVec.ofNat 64 (v.getD 0 0 + v.getD 1 0 * 2 ^ 32)
  let go (pay : W64) (t : State) : State :=
    match stepAt t r.step with
    | none => t
    | some x =>
      let id := reduceId t x
      joinLocal relReduce id (rPar r.raw 3 0) (decide (d.count = 2)) pay (modRun 9 (fun u => { u with bar := some id }) t)
  { reads := touches s d, busyLo := Reg.XCHG_COLL_BUSY_LO, bound := 0, wait := true, after := go pay,
    early := some (fun t => go (Config.freeWord t.free) t) }

def isReduce (r : Record) : Bool := rOp r == 0x49 && !(bit (rParam r) 7)
def isReduceBcn (r : Record) : Bool := rOp r == 0x49 && bit (rParam r) 7

/-- REDUCE_STATS with PATH = 0 (R246). -/
def execReduceStatsFabric (be : Bool) (s : State) : Host.Outcome State Fault Refusal := finish (runJob 9 be isReduce reduceJob s)

/-- REDUCE_STATS with PATH = 1 (R269); it does not start while its join would open a fifth instance (R270). -/
def execReduceStatsBeacon (be : Bool) (s : State) : Host.Outcome State Fault Refusal :=
  let ok : Bool := match startable s 9 be with
    | none => true
    | some r => match stepAt s r.step with
      | none => true
      | some x => barFree s (reduceId s x)
  finish (if ok then runJob 9 be isReduceBcn reduceBcnJob s else s)

/-! ### SCORE_COUNT (R95 to R97) -/

/-- SCORE_COUNT scores its piece into partial accumulators, reports its own terms (R79), and begins the exact sum. A member whose k is 0 has no
work of its own and takes part with empty accumulators (DESIGN CHOICE, log entry 53). One that the Keeper builds for BF16 or FP16 tokens runs, on
exact accumulators (DESIGN CHOICE, log entry 62). -/
def scoreCountJob (s : State) (r : RingRec) : Job :=
  let da := descAt s (rPtr r.raw 1)
  let dw := descAt s (rPtr r.raw 2)
  let v := (List.range (da.sz 1)).flatMap (fun t => (List.range (dw.sz 1)).map (fun x => scoreAcc s da dw t x))
  let macs := bump64 Reg.SCORE_MAC_LO (scoreMacs s r)
  let freeAcc (t : State) (i : Nat) : Nat := ((Config.freeWord (t.free + 4 * i)).toNat + (Config.freeWord (t.free + 4 * i + 1)).toNat * 2 ^ 64
    + (Config.freeWord (t.free + 4 * i + 2)).toNat * 2 ^ 128 + (Config.freeWord (t.free + 4 * i + 3)).toNat * 2 ^ 192) % 2 ^ 256
  { start := scoreStart s r, reads := if da.empty || dw.empty then [] else scoreReads s r.raw da dw, busyLo := Reg.SCORE_BUSY_LO, bound := 0,
    wait := true, rep := accStatus v, after := fun t => collBegin 0 (v.map accCode) (macs t),
    early := some (fun t => collBegin 0 ((List.range v.length).map (freeAcc t)) (macs t)) }

def isScoreCount (r : Record) : Bool := rOp r == 0x02

/-- SCORE_COUNT (R95). -/
def execScoreCount (be : Bool) (fail : Option Nat) (s : State) : Host.Outcome State Fault Refusal :=
  finish (withTile be fail isScoreCount (runJob 0 be isScoreCount scoreCountJob) s)

/-! ### The commands of arrival -/

/-- COUNT with SUB = 0 (R167). -/
def execCountRecords (p : Packet) (s : State) : Host.Outcome State Fault Refusal :=
  finish (if pTyp p = 3 && pTs p 18 3 0 = 0 then eject false p (onCount p) s else s)

/-- COUNT with SUB ≠ 0 (R250). -/
def execCollData (p : Packet) (s : State) : Host.Outcome State Fault Refusal :=
  finish (if pTyp p = 3 && pTs p 18 3 0 ≠ 0 then eject false p (onColl p) s else s)

end Sys2Proof.Machine
end

