-- ==== Sys2Proof/Machine/Xchg.lean ====
section
/-! DEFINITION. The exchange engine and weight fetch: SEND, RECV, FORWARD, FETCH, the packets and cluster rows they wait for, work records
and their balancing, timeouts, and what capture and replay do with arrivals (spec/07 R196 to R221, R440, R441; spec/13 R360, R366, R369, R371). -/

namespace Sys2Proof.Machine

/-! ### The exchange block and the plan it names (R218, R174) -/

/-- The exchange block (R218). -/
structure XBlk where
  arrBase : Addr
  chunkList : Addr
  wlBase : Addr
  tagArea : Addr
  cbClass : Nat
  rrb : Nat
  planBase : Addr
  arrCap : Nat
  wlCap : Nat
  tagCap : Nat
  rsv : Bool
deriving DecidableEq, Repr

/-- The exchange block 64 bytes spell; `rsv` says its reserved bits are zero. -/
def parseXb (l : List Byte) : XBlk :=
  let ad (i : Nat) : Addr := bits (leAt l i 8) 47 0
  { arrBase := ad 0, chunkList := ad 8, wlBase := ad 16, tagArea := ad 24, cbClass := bits (leAt l 32 4) 2 0, rrb := bits (leAt l 36 4) 23 0,
    planBase := ad 40, arrCap := leAt l 48 4, wlCap := leAt l 52 4, tagCap := leAt l 56 4,
    rsv := [0, 8, 16, 24, 40].all (fun i => bits (leAt l i 8) 63 48 == 0) && bits (leAt l 32 4) 31 3 == 0 && bits (leAt l 36 4) 31 24 == 0
      && leAt l 60 4 == 0 }

/-- The block of a record. -/
def xBlock (s : State) (r : Record) : XBlk := parseXb (rdN s (rPtr r 4) 64)

/-- Chunks per result row, and chunks per chunk buffer (R203). -/
def XBlk.cpr (x : XBlk) : Nat := ceilDiv x.rrb 4096
def XBlk.cpb (x : XBlk) : Nat := 4 ^ x.cbClass

/-- ROWB: RB rounded up to a multiple of 64 (R202). -/
def rowB (b : RegMap) : Nat := roundUp (bFld b Reg.SORT_PLAN_ROW 23 0) 64
/-- RB, the bytes of a token row as carried. -/
def rbOf (b : RegMap) : Nat := bFld b Reg.SORT_PLAN_ROW 23 0

/-- The PLAN record an address names: by its second pointer, or by the base of the out-list that pointer describes (log entry 24). -/
def planRec (s : State) (q : W32) (a : Addr) : Option Record :=
  match stepAt s q with
  | none => none
  | some x => x.recs.find? (fun r => rOp r == 0x20 && (rPtr r 2 == a || (descAt s (rPtr r 2)).base == a))

/-- The PLAN an address names has signalled (R288, R440). -/
def planDone (s : State) (q : W32) (a : Addr) : Bool :=
  match planRec s q a, stepAt s q with
  | some r, some x => x.plansDone.contains (rPtr r 2)
  | _, _ => false

/-- The 64 bytes of a plan summary (R174). -/
def planSum (s : State) (q : W32) (a : Addr) : List Byte :=
  match planRec s q a with
  | some r => let d := descAt s (rPtr r 2); (List.range 4).flatMap (rowRd s d 16)
  | none => rdN s a 64

def sumNin (l : List Byte) : Nat := leAt l 4 4
def sumSlotsIn (l : List Byte) : Nat := leAt l 8 4
def sumExpChunks (l : List Byte) : Nat := leAt l 12 4
def sumBundleIn (l : List Byte) : Nat := leAt l 32 4

/-- An out-record (R173). -/
structure OutRec where
  final : Nat
  place : Nat
  viaGw : Bool
  mode : Nat
  cl : Nat
  x : Nat
  slot : Nat
  first : Nat
  count : Nat
deriving DecidableEq, Repr

/-- The records of an out-list. -/
def outRecs (s : State) (d : Desc) : List OutRec :=
  (List.range (leAt (rowRd s d 16 0) 0 4)).map (fun j =>
    let b := rowRd s d 16 (j + 4)
    let w := leAt b 0 4
    { final := bits w 19 0, place := bits w 21 20, viaGw := bit w 22, mode := bits w 24 23, cl := bits w 26 25, x := leAt b 4 2,
      slot := leAt b 6 1, first := leAt b 8 4, count := leAt b 12 4 })

/-- The in-records of an in-list, each with the rows before it among those of its mode (R175, R205, R208). -/
def inRecs (s : State) (d : Desc) (n : Nat) : List InRec :=
  ((List.range n).foldl (fun (a : List InRec × Nat × Nat) j =>
    let b := rowRd s d 16 j
    let w := leAt b 0 4
    let mode := bits w 23 22
    let k := leAt b 8 4
    let base := if mode = 2 then a.2.2 else a.2.1
    (a.1 ++ [{ src := bits w 19 0, expert := leAt b 4 2, place := bits w 21 20, mode := mode, cl := bits w 25 24, count := k, base := base,
               got := [], posted := false }],
     a.2.1 + (if mode = 0 then k else 0), a.2.2 + (if mode = 2 then k else 0))) ([], 0, 0)).1

/-! ### Tiles (R360) -/

/-- Balancing is on for a step: by its bound register, in replay by the START record (R360, R371). -/
def dlbOn (s : State) (b : RegMap) : Bool := if capMode s = 2 then s.cap.dlb else bit (bReg b Reg.PART_DET_CTL) 0

/-- First row and rows of each tile a work record of n rows is cut into; the whole record without balancing (R360). -/
def tilesOf (s : State) (b : RegMap) (n : Nat) : List (Nat × Nat) :=
  if !(dlbOn s b) then [(0, n)] else
  let k := max 1 (bFld b Reg.PART_DET_CTL 8 1)
  (List.range (ceilDiv n k)).map (fun i => (i * k, min k (n - i * k)))

/-- The half's plan needs more room than its exchange block declares (R441). -/
def areaBad (s : State) (q : W32) (xb : XBlk) : Bool :=
  match planRec s q xb.planBase with
  | none => false
  | some r =>
    if !(planDone s q xb.planBase) then false else
    let b := boundOf s q
    let su := planSum s q xb.planBase
    let loc := (outRecs s (descAt s (rPtr r 2))).filter (fun o => o.mode != 0)
    let ins := (inRecs s (descAt s (rPtr r 3)) (sumNin su)).filter (fun i => i.mode == 0)
    let works := total ((loc.map OutRec.count ++ ins.map InRec.count).map (fun n => (tilesOf s b n).length))
    decide (xb.arrCap < sumExpChunks su) || decide (xb.wlCap < works) || decide (xb.tagCap < sumSlotsIn su + total (loc.map OutRec.count))

/-! ### Capture of arrivals and work (R366, R369, R371) -/

/-- The captured entry of an arrival of a kind, step and half that `p` picks. -/
def repArrival (sub : Nat) (half : Bool) (step : Nat) (p : List Byte → Bool) (s : State) : Option (List Byte) :=
  ((repRun s).filter (repIsArr (sub + b2n half * 16) step)).findSome? (fun r => (repEntries r).find? p)

/-- Record an arrival: gathered in capture, in replay compared with the stream (R366, R372). -/
def capArrival (sub : Nat) (half : Bool) (q : W32) (e : List Byte) (s : State) : State :=
  let key := sub + b2n half * 16
  if capMode s = 1 then gatherArr key q.toNat e s
  else if capMode s = 2 then repCompare { typ := 7, payload := e, n := 16, value := 0, key := key, step := q.toNat } s
  else s

/-- In replay the arrival records of a kind have served once their command has ended. -/
def repServed (subs : List Nat) (half : Bool) (q : W32) (s : State) : State :=
  if capMode s != 2 then s else
  let ran := repRun s
  repStarve { s with cap := { s.cap with staged := ran.filter (fun r =>
    !(leAt r 0 1 == 7 && subs.any (fun k => leAt r 1 1 == k + b2n half * 16) && leAt r 4 4 == q.toNat)) ++ s.cap.staged.drop ran.length } }

/-! ### Work records (R202, R204, R205, R371) -/

/-- The 32 bytes of a work record (R202). -/
def Work.bytes (w : Work) : List Byte :=
  leBytes 2 w.expert ++ leBytes 1 w.layer ++ leBytes 1 (w.model + b2n w.replica * 16 + b2n w.gather * 32 + w.cluster * 64) ++ leBytes 4 w.count
    ++ leBytes 8 w.waddr ++ leBytes 8 w.inBase ++ leBytes 8 w.tagBase

/-- The 16 bytes of a WORK entry (R366; log entry 25). -/
def workEntry (ring : Nat) (w : Work) : List Byte :=
  leBytes 2 w.expert ++ leBytes 1 w.place ++ leBytes 1 w.cluster ++ leBytes 4 w.first ++ leBytes 4 w.count ++ leBytes 1 ring ++ leBytes 3 0

/-- The ring of a work record's poster. -/
def workRing (s : State) (w : Work) : Nat := 10 + (match stepAt s w.step with | some x => b2n x.be | none => 0)

/-- The exchange block of the command that posts a work record: SEND's for gathered rows, RECV's for inbound ones. -/
def workXb (s : State) (w : Work) : XBlk :=
  match halfAt s w.step w.half with
  | none => parseXb []
  | some h => parseXb (rdN s (if w.gather then h.sendXb.getD 0 else h.xb) 64)

/-- How many work records SEND posts for a half (R218). -/
def sendWorks (s : State) (q : W32) (xb : XBlk) : Nat :=
  match planRec s q xb.planBase with
  | none => 0
  | some r => total (((outRecs s (descAt s (rPtr r 2))).filter (fun o => o.mode != 0)).map (fun o => (tilesOf s (boundOf s q) o.count).length))

/-- A RECV work record goes before that of an earlier in-record: one whose work is not posted in whole yet (R205, R362). -/
def postsEarly (s : State) (w : Work) : Bool :=
  !w.gather && (match halfAt s w.step w.half with
    | none => false
    | some h =>
      let mine (i : InRec) : Bool := i.mode == 0 && i.src == w.src && i.expert == w.expert && i.place == w.place
      let waits (i : InRec) : Bool := s.work.any (fun x => x.held && x.step == w.step && x.half == w.half && !x.gather && x.src == i.src
        && x.expert == i.expert && x.place == i.place)
      (h.inRecs.takeWhile (fun i => !(mine i))).any (fun j => j.mode == 0 && decide (0 < j.count) && (!j.posted || waits j)))

/-- Write a work record at the next entry of its poster and post its address; one of RECV's before an earlier in-record's is a timing choice (R202, R218,
R362). -/
def postNow (w : Work) (s : State) : State :=
  match halfAt s w.step w.half with
  | none => s
  | some h =>
    let xb := workXb s w
    let i := if w.gather then h.sendWl else sendWorks s w.step xb + h.recvWl
    let a := xb.wlBase + 32 * i
    engWrite (wrBytes a w.bytes) w.step (fun s =>
      let s := modHalf w.step w.half (fun h => if w.gather then { h with sendWl := h.sendWl + 1 } else { h with recvWl := h.recvWl + 1 }) s
      let s := if postsEarly s w then tdc 5 s else s
      let s := emit (.workPost w.cluster a) { s with work := s.work ++ [{ w with addr := a, held := false }] }
      if capMode s = 1 then gatherWork w.step.toNat w.half (workEntry (workRing s w) w) s else s) s

/-- Tile w goes to cluster c (R360). -/
def moveTile (c : Nat) (w : Work) (s : State) : State :=
  let w' := { w with cluster := c }
  let s := { s with work := (s.work.reverse |> dropFirst (fun x => x == w)).reverse ++ [w'] }
  let s := emit (.workPost c w.addr) (emit (.workWithdraw w.cluster w.addr) s)
  tdc 0 (if capMode s = 1 then gatherWork w.step.toNat w.half (workEntry (workRing s w') w') s else s)

/-- The record of the replay stream that holds the next work entry, and the entry. -/
def repWork (s : State) : Option (List Byte × List Byte) := (repNext 8 s).map (fun r => (r, ((r.drop 16).drop (16 * s.cap.workPos)).take 16))

/-- A work record is the one an entry names, at the cluster the entry gives it. -/
def isEntry (s : State) (r e : List Byte) (w : Work) : Bool :=
  w.step.toNat == leAt r 4 4 && w.half == bit (leAt r 1 1) 4 && workEntry (workRing s w) { w with cluster := leAt e 3 1 % 4 } == e

/-- The next work entry has been posted. -/
def repWorkDone (s : State) : State :=
  match repNext 8 s with
  | none => s
  | some r =>
    if 16 * (s.cap.workPos + 2) ≤ r.length - 16 then { s with cap := { s.cap with workPos := s.cap.workPos + 1 } }
    else repStarve (repTake 8 { s with cap := { s.cap with workPos := 0 } })

/-- How many entries the supplied stream holds at most. -/
def workFuel (s : State) : Nat := total (s.cap.staged.map List.length) / 16 + 1

/-- Make the postings that the stream names next: a work record that is held is posted to its captured cluster, a posted tile that no cluster has
taken is moved there as it was in the capture; a tile that its cluster took before stays (R371). n bounds them. -/
def postHeld : Nat → State → State
  | 0, s => s
  | n + 1, s =>
    match repWork s with
    | none => s
    | some (r, e) =>
      match s.work.find? (fun w => w.held && isEntry s r e w) with
      | some w => postHeld n (repWorkDone (postNow { w with cluster := leAt e 3 1 % 4 } { s with work := dropFirst (fun x => x == w) s.work }))
      | none =>
        match s.work.find? (fun w => !w.held && isEntry s r e w) with
        | some w => postHeld n (repWorkDone (if w.taken then s else moveTile (leAt e 3 1 % 4) w s))
        | none => s

/-- Post a work record; in replay it waits for its captured place and goes to the captured cluster (R371). -/
def postWork (w : Work) (s : State) : State :=
  if capMode s = 2 then postHeld (workFuel s) { s with work := s.work ++ [{ w with held := true }] } else postNow w s

/-- The tiles of a work record, in row order (R360); IN_BASE moves with the rows only where it names them (log entry 26). -/
def tileWorks (s : State) (b : RegMap) (w : Work) : List Work :=
  (tilesOf s b w.count).map (fun t =>
    { w with first := w.first + t.1, count := t.2, rowsLeft := t.2, tagBase := w.tagBase + 8 * t.1,
             inBase := if w.gather then w.inBase else w.inBase + t.1 * rowB b })

/-! ### Half state -/

/-- The live step and half a packet names: the oldest whose half `p` likes, else the oldest. -/
def pktHalf (s : State) (k : Packet) (p : Half → Bool) : Option (W32 × Half) :=
  let l := (pktSteps s k).filterMap (fun x => (halfAt s x.seq (pHalf k)).map (fun h => (x.seq, h)))
  match l.find? (fun e => p e.2) with
  | some e => some e
  | none => l.head?

/-- The RECV of a half has started. -/
def recvOn (s : State) (q : W32) (h : Bool) : Bool := s.running.any (fun u => rOp u.cmd.raw == 0x29 && u.cmd.step == q && rHalf u.cmd.raw == h)

/-- Whether a poster's works are all taken. -/
def worksTaken (s : State) (q : W32) (h gather : Bool) : Bool := s.work.all (fun w => w.taken || w.step != q || w.half != h || w.gather != gather)

/-- The running XCHG command with an opcode. -/
def xRun (s : State) (op : Nat) : Option Run := s.running.find? (fun u => u.eng == 5 && rOp u.cmd.raw == op)

/-- SEND or FORWARD signals once everything it sent is acknowledged and everything it posted is taken (R204, R209). -/
def checkSend (s : State) : State :=
  match s.running.find? (fun u => u.eng == 5 && (rOp u.cmd.raw == 0x28 || rOp u.cmd.raw == 0x2A) && u.stage == 2) with
  | none => s
  | some u =>
    let h := rHalf u.cmd.raw
    if !u.acks.isEmpty || !u.waiting.isEmpty then s
    else if rOp u.cmd.raw = 0x28 && !(worksTaken s u.cmd.step h true) then s
    else
      let s := if rOp u.cmd.raw = 0x28 then modHalf u.cmd.step h (fun x => { x with sendSignalled := true }) s else s
      complete u (flushCap (busyFree Reg.XCHG_BUSY_LO s))

/-- Rows whose results RECV must send. -/
def Half.travelRows (h : Half) : Nat := total ((h.inRecs.filter (fun i => i.mode == 0)).map InRec.count)

/-- A RESULT of a step's half has not left the slice yet: it waits at the FAB bucket or in the CORE to FAB queue (R36, R344). -/
def resultsWait (s : State) (x : Step) (half : Bool) : Bool :=
  let mine (p : Packet) : Bool := pTyp p == 9 && pHalf p == half && pLayer p == x.layer && pModel p == x.model && pBe p == x.be
  s.fab.rsp.any mine || s.injQ.any (fun q => mine q.2) || s.fabQ.any (fun q => mine q.2)

/-- RECV signals once every inbound slot has arrived, its results are injected, and every bundle is full (R207). -/
def checkRecv (s : State) : State :=
  match xRun s 0x29 with
  | none => s
  | some u =>
    match halfAt s u.cmd.step (rHalf u.cmd.raw) with
    | none => s
    | some h =>
      let ch := rowChunks (boundOf s u.cmd.step)
      if u.stage = 2 && (h.inRecs.filter (fun i => i.mode == 0)).all (fun i => i.got.length == i.count * ch) && h.bundlesFull ch
          && decide (h.travelRows ≤ h.resultsSent) && !((stepAt s u.cmd.step).any (fun x => resultsWait s x h.half)) then
        complete u (repServed [1, 2] (rHalf u.cmd.raw) u.cmd.step (flushCap (busyFree Reg.XCHG_BUSY_LO s)))
      else s

/-- Post the work of in-records whose rows are all there, in in-list order. The weights are at the line's WBASE, where every placement's own die holds
its copy (R205, R389). -/
def postInbound (q : W32) (half : Bool) (s : State) : State :=
  match halfAt s q half with
  | none => s
  | some h =>
    if !(recvOn s q half) then s else
    let b := boundOf s q
    let ch := rowChunks b
    let xb := parseXb (rdN s h.xb 64)
    let ready (i : InRec) : Bool := i.mode == 0 && !i.posted && i.got.length == i.count * ch && decide (0 < i.count)
    (withIdx 0 h.inRecs).foldl (fun s e =>
      let i := e.2
      if !(ready i) then s else
      let line := llLine s (epochOf s q) h.model h.layer i.expert
      let wa := lineWbase line
      let s := modHalf q half (fun h => { h with inRecs := h.inRecs.map (fun j => if j.mode = 0 ∧ j.base = i.base ∧ j.expert = i.expert ∧ j.src = i.src
        ∧ j.place = i.place then { j with posted := true } else j) }) s
      let w : Work := { cluster := i.cl, eng := 5, step := q, half := half, expert := i.expert, layer := h.layer, model := h.model, replica := false,
                        gather := false, count := i.count, waddr := wa, inBase := h.inRows + i.base * rowB b, tagBase := xb.tagArea + 8 * i.base,
                        src := i.src, place := i.place, first := 0, addr := 0, rowsLeft := i.count, held := false, taken := false }
      (tileWorks s b w).foldl (fun s w => postWork w s) s) s

/-! ### Inbound packets (R205, R208, R440) -/

/-- The in-record of an armed half that a DISPATCH matches, its position and chunk in range (R205, R208). -/
def dispatchRow (s : State) (q : W32) (h : Half) (p : Packet) : Option InRec :=
  let src := pTs p 16 19 0
  let gw := pTs p 26 2 2 == 1
  let isMine (i : InRec) : Bool :=
    i.src == src && (if gw then i.mode == 2 else i.mode == 0 && i.expert == pTs p 24 15 0 && i.place == pTs p 26 1 0)
  match h.inRecs.find? isMine with
  | none => none
  | some i => if pTs p 32 31 0 < i.count ∧ pTs p 26 7 3 < rowChunks (boundOf s q) then some i else none

/-- The row and the bundle entry of a DISPATCH are written where its half's counts put them; an unmatched one kills the step (R205, R208). -/
def placeDispatch (q : W32) (h : Half) (p : Packet) (s : State) : State :=
  match dispatchRow s q h p with
  | none => raiseKill .arrivals (some q) (raiseBit Reg.XCHG_STAT 4 s)
  | some i =>
    let b := boundOf s q
    let tag := pTs p 16 63 0
    let x := pTs p 24 15 0
    let pl := pTs p 26 1 0
    let gw := pTs p 26 2 2 == 1
    let c := pTs p 26 7 3
    let pos := pTs p 32 31 0
    let xb := parseXb (rdN s h.xb 64)
    let row := i.base + pos
    let ws := if gw then
        wrBytes (h.bundleRows + 32 * row) (leBytes 8 tag ++ leBytes 2 x ++ leBytes 1 (pl + 16) ++ leBytes 1 0 ++ leBytes 4 row
          ++ leBytes 4 (pTs p 28 19 0) ++ leBytes 4 (pTs p 28 19 0) ++ leBytes 8 0)
        ++ wrBytes (h.bundleRows + 32 * h.bundleIn + row * rowB b + 4096 * c) p.payload
      else wrBytes (h.inRows + row * rowB b + 4096 * c) p.payload ++ wrBytes (xb.tagArea + 8 * row) (leBytes 8 tag)
    engWrite ws q (fun s =>
      let s := modHalf q h.half (fun h => { h with inRecs := modFirst (fun k => k == i) (fun i =>
        if i.got.contains (pos, c) && !gw then i else { i with got := (pos, c) :: i.got }) h.inRecs }) s
      let e := leBytes 8 tag ++ leBytes 2 x ++ leBytes 1 pl ++ leBytes 1 c ++ leBytes 4 pos
      checkRecv (postInbound q h.half (capArrival (if gw then 2 else 1) h.half q e s))) s

/-- Place every held packet of a half that is armed (R440). -/
def drainHalf (q : W32) (half : Bool) (s : State) : State :=
  let mine (p : Packet) : Bool := pTyp p == 1 && pHalf p == half && (pktSteps s p).any (fun x => x.seq == q)
  (s.hold.filter mine).foldl (fun s p =>
    match halfAt s q half with
    | none => s
    | some h => placeDispatch q h p { s with hold := dropFirst (fun k => k == p) s.hold }) s

/-- Arm a half whose RECV is in its ring and whose PLAN has signalled: its in-records are known and held packets are placed (R440). -/
def armHalf (r : RingRec) (s : State) : State :=
  let h := rHalf r.raw
  let xb := xBlock s r.raw
  if (match halfAt s r.step h with | some f => f.armed | none => false) || !(planDone s r.step xb.planBase) then s else
  let su := planSum s r.step xb.planBase
  let ins := inRecs s (descAt s (rPtr r.raw 1)) (sumNin su)
  drainHalf r.step h (modHalf r.step h (fun f => { f with armed := true, xb := rPtr r.raw 4, inRows := (descAt s (rPtr r.raw 2)).base,
                                                           bundleRows := if rPtr r.raw 3 = 0 then 0 else (descAt s (rPtr r.raw 3)).base, inRecs := ins }) s)

/-- Arm every half that can be. -/
def armAll (p : RingRec → Bool) (s : State) : State := (s.ringq.filter (fun r => rOp r.raw == 0x29 && p r)).foldl (fun s r => armHalf r s) s

/-- HALF_ARMED (R440). -/
def execHalfArmed (half : Bool) (s : State) : Host.Outcome State Fault Refusal :=
  finish (if forwarding s && !fenced s then armAll (fun r => rHalf r.raw == half) s else s)

/-- A DISPATCH after its checks: its tag agrees, then it is placed or held (R190, R205, R440). -/
def onDispatch (gw : Bool) (p : Packet) (s : State) : State :=
  if (pTs p 26 2 2 == 1) != gw then s
  else if !(tagAgrees p) then raiseBit Reg.XCHG_STAT 3 (bump Reg.XCHG_FAB_DROP_CNT 1 s)
  else
    let s := armAll (fun r => (pktSteps s p).any (fun x => x.seq == r.step) && rHalf r.raw == pHalf p) s
    match pktHalf s p (fun h => h.armed) with
    | some (q, h) =>
      if h.armed then
        if (dispatchRow s q h p).isSome then placeDispatch q h p (ackAccept p s) else placeDispatch q h p s
      else holdPkt p s
    | none => holdPkt p s

/-- DISPATCH (R205). -/
def execDispatchPacket (p : Packet) (s : State) : Host.Outcome State Fault Refusal :=
  finish (if pTyp p = 1 && pTs p 26 2 2 = 0 then eject false p (onDispatch false p) s else s)

/-- DISPATCH to a gateway (R208). -/
def execBundlePacket (p : Packet) (s : State) : Host.Outcome State Fault Refusal :=
  finish (if pTyp p = 1 && pTs p 26 2 2 = 1 then eject false p (onDispatch true p) s else s)

/-! ### Result arrivals (R203, R206) -/

/-- Append one chunk as arrival k (R203). -/
def appendAt (q : W32) (h : Half) (k tag chunk : Nat) (data : List Byte) (s : State) : State :=
  if h.sendXb.isNone || h.expChunks ≤ h.arrivals then raiseKill .arrivals (some q) (raiseBit Reg.XCHG_STAT 2 s) else
  let xb := parseXb (rdN s (h.sendXb.getD 0) 64)
  let e := leBytes 8 tag ++ leBytes 1 chunk ++ leBytes 3 0 ++ leBytes 4 k
  let a := rdLe s (xb.chunkList + 8 * (k / xb.cpb)) 8 % 2 ^ 48 + k % xb.cpb * 4096
  engWrite (wrBytes a data ++ wrBytes (xb.arrBase + 16 * k) e) q (fun s =>
    signal h.resCnt (capArrival 0 h.half q e (modHalf q h.half (fun h => { h with arrivals := h.arrivals + 1 }) s))) s

/-- Append one chunk as the next arrival; in replay at its captured index, for which it waits until the stream holds it (R203, R371). -/
def appendArrival (q : W32) (half : Bool) (tag : Nat) (chunk : Nat) (data : List Byte) (s : State) : State :=
  match halfAt s q half with
  | none => s
  | some h =>
    if capMode s ≠ 2 then appendAt q h h.arrivals tag chunk data s else
    match repArrival 0 half q.toNat (fun e => leAt e 0 8 == tag && leAt e 8 1 == chunk) s with
    | some e => appendAt q h (leAt e 12 4) tag chunk data s
    | none =>
      if arrClosed q.toNat s then appendAt q h h.arrivals tag chunk data s
      else { s with cap := { s.cap with rows := s.cap.rows ++ [{ isCount := false, step := q, half := half, tag := tag, chunk := chunk, data := data }] } }

/-- Work records that waited for their captured place when replay ended are posted in order (R371, R372). -/
def postFreed (s : State) : State :=
  (s.work.filter Work.held).foldl (fun s w => postNow w s) { s with work := s.work.filter (fun w => !w.held) }

/-- Try again what waits for its captured place: chunks, count records, work records; once replay has ended all of it is placed (R371, R372). -/
def replayRows (s : State) : State :=
  let s := s.cap.rows.foldl (fun s r =>
    if r.isCount then takeCount r.step r.half r.data s else appendArrival r.step r.half r.tag r.chunk r.data s) { s with cap := { s.cap with rows := [] } }
  if capMode s = 2 then postHeld (workFuel s) s else postFreed s

/-- A RESULT after its checks (R190, R203). -/
def onResult (p : Packet) (s : State) : State :=
  if !(tagAgrees p) || pTs p 16 19 0 != ownDa s then raiseBit Reg.XCHG_STAT 3 (bump Reg.XCHG_FAB_DROP_CNT 1 s)
  else match pktHalf s p (fun h => h.sendXb.isSome && decide (h.arrivals < h.expChunks)) with
    | some (q, h) => appendArrival q h.half (pTs p 16 63 0) (pTs p 26 2 0) p.payload s
    | none => raiseKill .arrivals ((pktSteps s p).head?.map Step.seq) (raiseBit Reg.XCHG_STAT 2 s)

/-- RESULT (R203). -/
def execResult (p : Packet) (s : State) : Host.Outcome State Fault Refusal := finish (if pTyp p = 9 then eject true p (onResult p) s else s)

/-- The work a cluster's row belongs to: its oldest taken work that holds the tag, else its oldest taken one. -/
def rowWork (s : State) (cluster tag : Nat) : Option Work :=
  let l := s.work.filter (fun w => w.cluster == cluster && w.taken && decide (0 < w.rowsLeft))
  match l.find? (fun w => (List.range w.count).any (fun j => rdLe s (w.tagBase + 8 * j) 8 == tag)) with
  | some w => some w
  | none => l.head?

/-- A cluster returns a row: appended as local arrivals, or sent back as RESULT packets (R203, R206). -/
def clusterRow (cluster tag : Nat) (row : List Byte) (s : State) : State :=
  if !(forwarding s) || fenced s then s else
  match rowWork s cluster tag with
  | none => s
  | some w =>
    let xb := workXb s w
    let chunks := withIdx 0 (chunksOf 4096 xb.cpr (row.take xb.rrb))
    let s := { s with work := (modFirst (fun x => x == w) (fun x => { x with rowsLeft := x.rowsLeft - 1 }) s.work).filter (fun x => x.rowsLeft != 0 || capMode s == 2) }
    if w.gather then chunks.foldl (fun s e => appendArrival w.step w.half tag e.1 e.2 s) s
    else match stepAt s w.step with
      | none => s
      | some x =>
        let hd (i : Nat) : Hd := { typ := 9, dst := tag % 2 ^ 20, be := x.be, epoch := x.epoch, layer := w.layer, half := w.half,
                                   model := w.model, kgen := kgen s, ts := tsAt 16 tag + tsAt 24 w.expert + tsAt 26 i }
        let s := chunks.foldl (fun s e => inject (mkPacket s (hd e.1) e.2) s) s
        checkRecv (modHalf w.step w.half (fun h => { h with resultsSent := h.resultsSent + 1 }) s)

/-- CLUSTER_RESULT_ROW (R206). -/
def execClusterResultRow (cluster : Nat) (tag : W64) (row : List Byte) (s : State) : Host.Outcome State Fault Refusal :=
  finish (clusterRow cluster tag.toNat row s)

/-- The oldest posted and untaken work record of a cluster is taken (R204). -/
def workTaken (cluster : Nat) (s : State) : State :=
  if !(forwarding s) || fenced s then s else
  checkSend { s with work := modFirst (fun w => w.cluster == cluster && !w.taken && !w.held) (fun w => { w with taken := true }) s.work }

/-- WORK_RECORD_TAKEN (R204). -/
def execWorkRecordTaken (cluster : Nat) (s : State) : Host.Outcome State Fault Refusal := finish (workTaken cluster s)

/-! ### Balancing (R360) -/

/-- Work records a cluster holds and has not taken. -/
def untaken (s : State) (c : Nat) : List Work := s.work.filter (fun w => w.cluster == c && !w.taken && !w.held)

/-- Those that are tiles: balancing is on for their step (R360). -/
def tiles (s : State) (c : Nat) : List Work := (untaken s c).filter (fun w => dlbOn s (boundOf s w.step))

/-- The cluster whose work queue is empty, lowest first; its WL_READY line is high then, since it is low only while the queue is full (R202, R360). -/
def idleCluster (s : State) : Option Nat := (List.range 4).find? (fun c => (untaken s c).isEmpty)

/-- A cluster holds at least STEAL_MIN tiles, as its newest tile's step binds it (R360). -/
def mayGive (s : State) (c : Nat) : Bool :=
  match (tiles s c).getLast? with
  | none => false
  | some w => decide (bFld (boundOf s w.step) Reg.PART_DET_CTL 12 9 ≤ (tiles s c).length)

/-- The cluster that gives a tile: the one holding most, lowest first (R360). -/
def donorCluster (s : State) : Option Nat :=
  ((List.range 4).filter (mayGive s)).foldl (fun (b : Option Nat) c =>
    match b with
    | none => some c
    | some d => if (tiles s d).length < (tiles s c).length then some c else some d) none

/-- Move the newest untaken tile of the most loaded cluster to the idle one; in replay as captured (R360, R371). -/
def steal (s : State) : State :=
  if !(forwarding s) || fenced s then s else
  if capMode s = 2 then postHeld (workFuel s) s else
  match idleCluster s, donorCluster s with
  | some c, some d =>
    match (tiles s d).getLast? with
    | none => s
    | some w => moveTile c w s
  | _, _ => s

/-- DLB_STEAL (R360). -/
def execDlbSteal (s : State) : Host.Outcome State Fault Refusal := finish (steal s)

/-! ### SEND (R201 to R204) -/

/-- The stream that fills a slot for a half of the step, if the step fetches it. -/
def streamOf (x : Step) (half : Bool) (slot expert : Nat) : Option Stream :=
  match x.streams.find? (fun t => t.note.half == half && t.note.slot == slot && t.note.expert == expert) with
  | some t => some t
  | none => if half then x.streams.find? (fun t => !t.note.half && t.note.slot == slot && t.note.expert == expert) else none

/-- The note of a planned fetch of a slot by a half, or by half A before it. -/
def noteOf (x : Step) (half : Bool) (slot expert : Nat) : Option FetchNote :=
  match x.fetches.find? (fun n => n.half == half && n.slot == slot && n.expert == expert) with
  | some n => some n
  | none => if half then x.fetches.find? (fun n => !n.half && n.slot == slot && n.expert == expert) else none

/-- The bank of a HIT or FETCH record holds its whole stream (R201, R212). -/
def bankReady (x : Step) (half : Bool) (o : OutRec) : Bool :=
  if o.mode != 1 && o.mode != 2 then true
  else match noteOf x half o.slot o.x with
    | none => true
    | some _ => match streamOf x half o.slot o.x with
      | some t => t.complete
      | none => false

/-- Address of the weights of a local work record: WBASE, or the slot's live or pending bank (R202, R210, R389). -/
def localWaddr (s : State) (x : Step) (half : Bool) (model layer : Nat) (o : OutRec) : Addr :=
  let v := verFor s x.epoch
  if o.mode = 1 ∨ o.mode = 2 then
    match noteOf x half o.slot o.x with
    | some n => bankAddr v o.slot n.bank
    | none => match x.replicas.find? (fun l => lineSlot l == o.slot) with
      | some l => bankAddr v o.slot (lineBank l)
      | none => bankAddr v o.slot 0
  else lineWbase (llLine s x.epoch model layer o.x)

/-- A sorted entry's 32 bytes. -/
def sortedEntry (s : State) (d : Desc) (j : Nat) : List Byte := rowRd s d 32 j

/-- ROW_BYTES of a token tile (R61). -/
def tileRow (d : Desc) : Nat := roundUp (ceilDiv (d.sz 0 * d.wd) 8) 64

/-- The DISPATCH packets of one row. -/
def rowPackets (s : State) (x : Step) (half : Bool) (dst : Nat) (tag expert place final pos : Nat) (gw : Bool) (row : Addr) : List Packet :=
  let rb := rbOf x.bound
  (List.range (rowChunks x.bound)).map (fun c =>
    mkPacket s { typ := 1, dst := dst, be := x.be, epoch := x.epoch, layer := x.layer, half := half, model := x.model, kgen := kgen s,
                 ts := tsAt 16 tag + tsAt 24 expert + tsAt 26 (place + b2n gw * 4 + c * 8) + tsAt 28 final + tsAt 32 pos }
      (rdN s (row + 4096 * c) (min 4096 (rb - 4096 * c))))

/-- Every DISPATCH of a SEND in out-list and sorted order, with the PLACE of its run, which is 0 after PLACE_FIX (R154, R160); a bundle's slots are
numbered through the bundle (R201, R208; log entry 27). -/
def sendPackets (s : State) (x : Step) (half : Bool) (outs : List OutRec) (de dt : Desc) : List Packet :=
  let slots := outs.flatMap (fun o => if o.mode = 0 then (List.range o.count).map (fun j => (o, j, sortedEntry s de (o.first + j))) else [])
  let hopOf (e : List Byte) : Nat := leAt e 20 4 % 2 ^ 20
  (withIdx 0 slots).flatMap (fun q =>
    let e := q.2.2.2
    let tag := leAt e 0 8
    let gw := bit (leAt e 16 4) 20
    let pos := if gw then ((slots.take q.1).filter (fun f => f.1.viaGw && hopOf f.2.2 == hopOf e)).length else q.2.2.1
    rowPackets s x half (hopOf e) tag (leAt e 8 2) q.2.1.place (leAt e 16 4 % 2 ^ 20) pos gw (dt.base + bits tag 33 20 * tileRow dt))

/-- The local work of a SEND in out-list order, with the tag index of each record (R201, R218). -/
def sendLocal (slotsIn : Nat) (outs : List OutRec) : List (OutRec × Nat) :=
  (outs.foldl (fun (a : List (OutRec × Nat) × Nat) o => if o.mode = 0 then a else (a.1 ++ [(o, a.2)], a.2 + o.count)) ([], slotsIn)).1

/-- The values a work record carries are free where the command that posts it has read too early (R20, R25). -/
def freeWork (s : State) (w : Work) : Work :=
  let v (i : Nat) : Nat := (Config.freeWord (s.free + i)).toNat
  { w with expert := v 0 % 2 ^ 16, waddr := v 1 % 2 ^ 48, inBase := v 2 % 2 ^ 48, tagBase := v 3 % 2 ^ 48 }

/-- SEND posts a local record, or keeps it until its bank is stream-complete. -/
def sendOne (free : Bool) (q : W32) (half : Bool) (o : OutRec) (tagAt : Addr) (tile : Addr) (s : State) : State :=
  match stepAt s q with
  | none => s
  | some x =>
    let w : Work := { cluster := o.cl, eng := 5, step := q, half := half, expert := o.x, layer := x.layer, model := x.model,
                      replica := decide (o.mode = 1 ∨ o.mode = 2), gather := true, count := o.count,
                      waddr := localWaddr s x half x.model x.layer o, inBase := tile, tagBase := tagAt, src := o.slot, place := o.place, first := 0,
                      addr := 0, rowsLeft := o.count, held := false, taken := false }
    let w := if free then freeWork s w else w
    let s := if free then tick s else s
    if bankReady x half o then (tileWorks s x.bound w).foldl (fun s w => postWork w s) s
    else modRun 5 (fun u => { u with waiting := u.waiting ++ [w] }) s

/-- SEND (R201). -/
def sendJob (s : State) (r : RingRec) : Job :=
  let half := rHalf r.raw
  let xb := xBlock s r.raw
  let dout := descAt s (rPtr r.raw 1)
  let de := descAt s (rPtr r.raw 2)
  let dt := descAt s (rPtr r.raw 3)
  let outs := outRecs s dout
  let su := planSum s r.step xb.planBase
  let loc := sendLocal (sumSlotsIn su) outs
  let rows := total (outs.map OutRec.count)
  let reads := touches s dout ++ (if rows = 0 then [] else touches s de ++ touches s dt)
  if areaBad s r.step xb then { reads := reads, busyLo := Reg.XCHG_BUSY_LO, bound := 0, kill := some .areaSmall, after := raiseBit Reg.XCHG_STAT 5 }
  else
    let go (free : Bool) (t : State) : State :=
      match stepAt t r.step with
        | none => t
        | some x =>
          let t := modHalf r.step half (fun h => { h with sendXb := some (rPtr r.raw 4), resCnt := rPar r.raw 22 13, expChunks := sumExpChunks su }) t
          let ps := sendPackets t x half outs de dt
          let ps := if free then freePackets t ps else ps
          let t := modRun 5 (fun u => { u with stage := 2, ackType := 1, acks := ps.map pDst }) (injectAll ps t)
          checkSend (loc.foldl (fun t e => sendOne free r.step half e.1 (xb.tagArea + 8 * e.2) dt.base t) t)
    { reads := reads, busyLo := Reg.XCHG_BUSY_LO, bound := 0, wait := true,
      writes := loc.flatMap (fun e => wrBytes (xb.tagArea + 8 * e.2)
        ((List.range e.1.count).flatMap (fun j => (sortedEntry s de (e.1.first + j)).take 8))),
      after := go false, early := some (go true) }

/-- Work records kept for a bank are posted once it is complete (R212). -/
def releaseWaiting (s : State) : State :=
  match xRun s 0x28 with
  | none => s
  | some u => match stepAt s u.cmd.step with
    | none => s
    | some x =>
      let ok (w : Work) : Bool := match streamOf x w.half w.src w.expert with | some t => t.complete | none => false
      let go := u.waiting.filter ok
      let s := modRun 5 (fun u => { u with waiting := u.waiting.filter (fun w => !(ok w)) }) s
      checkSend (go.foldl (fun s w => (tileWorks s x.bound w).foldl (fun s w => postWork w s) s) s)

def isSend (r : Record) : Bool := rOp r == 0x28

/-- With capture on, a command that takes arrivals starts only when capture staging can hold their records, and reserves it (R369). -/
def withReserve (e : Nat) (be : Bool) (p : Record → Bool) (need : State → RingRec → Nat) (run : State → State) (s : State) : State :=
  match startable s e be with
  | none => s
  | some r =>
    if !p r.raw then s
    else if capMode s != 1 then run s
    else
      let n := 16 * need s r
      if capFree s < n then s else run (capCred { s with cap := { s.cap with reserved := s.cap.reserved + n } })

/-- SEND (R201); it waits for room in capture staging (R369). -/
def execSend (be : Bool) (s : State) : Host.Outcome State Fault Refusal :=
  finish (withReserve 5 be isSend (fun s r => sumExpChunks (planSum s r.step (xBlock s r.raw).planBase)) (runJob 5 be isSend sendJob) s)

/-! ### RECV (R205 to R207) -/

/-- RECV (R205): it arms its half, posts what has arrived in full, and goes on waiting. -/
def recvJob (s : State) (r : RingRec) : Job :=
  let half := rHalf r.raw
  let xb := xBlock s r.raw
  let reads := touches s (descAt s (rPtr r.raw 1))
  if areaBad s r.step xb then { reads := reads, busyLo := Reg.XCHG_BUSY_LO, bound := 0, kill := some .areaSmall, after := raiseBit Reg.XCHG_STAT 5 }
  else
    let arm (t : State) : State := armHalf r (modRun 5 (fun u => { u with stage := 2 }) t)
    { reads := reads, busyLo := Reg.XCHG_BUSY_LO, bound := 0, wait := true,
      after := fun t => checkRecv (postInbound r.step half (arm t)),
      early := some (fun t => checkRecv (postInbound r.step half (modHalf r.step half (fun h =>
        { h with inRecs := (withIdx 0 h.inRecs).map (fun e => { e.2 with expert := bits (Config.freeWord (t.free + e.1)).toNat 15 0 }) }) (arm t)))) }

def isRecv (r : Record) : Bool := rOp r == 0x29

/-- RECV (R207). -/
def execRecv (be : Bool) (s : State) : Host.Outcome State Fault Refusal := finish (runJob 5 be isRecv recvJob s)

/-! ### FORWARD (R209) -/

/-- The packets of a FORWARD: every sorted entry's row to its FINAL, numbered among the entries of its source, expert, placement and FINAL. -/
def forwardPackets (s : State) (x : Step) (half : Bool) (n bundleIn : Nat) (de db : Desc) : List Packet :=
  let es := (List.range n).map (sortedEntry s de)
  let key (e : List Byte) : Nat × Nat × Nat × Nat := (leAt e 0 8 % 2 ^ 20, leAt e 8 2, leAt e 10 1 % 4, leAt e 16 4 % 2 ^ 20)
  (withIdx 0 es).flatMap (fun q =>
    let e := q.2
    let final := leAt e 16 4 % 2 ^ 20
    rowPackets s x half final (leAt e 0 8) (leAt e 8 2) (leAt e 10 1 % 4) final ((es.take q.1).filter (fun f => key f == key e)).length false
      (db.base + 32 * bundleIn + leAt e 12 4 * rowB x.bound))

/-- FORWARD (R209). -/
def forwardJob (s : State) (r : RingRec) : Job :=
  let half := rHalf r.raw
  let xb := xBlock s r.raw
  let de := descAt s (rPtr r.raw 1)
  let dr := descAt s (rPtr r.raw 2)
  let db := descAt s (rPtr r.raw 3)
  let n := leAt (rowRd s dr 16 0) 4 4
  let reads := touches s de ++ touches s dr ++ (if n = 0 then [] else touches s db)
  if areaBad s r.step xb then { reads := reads, busyLo := Reg.XCHG_BUSY_LO, bound := 0, kill := some .areaSmall, after := raiseBit Reg.XCHG_STAT 5 }
  else
    let go (free : Bool) (t : State) : State :=
      match stepAt t r.step with
        | none => t
        | some x =>
          let bin := match halfAt t r.step half with | some h => h.bundleIn | none => sumBundleIn (planSum t r.step xb.planBase)
          let ps := forwardPackets t x half n bin de db
          let ps := if free then freePackets t ps else ps
          checkSend (modRun 5 (fun u => { u with stage := 2, ackType := 1, acks := ps.map pDst }) (injectAll ps t))
    { reads := reads, busyLo := Reg.XCHG_BUSY_LO, bound := 0, wait := true, after := go false, early := some (go true) }

def isForward (r : Record) : Bool := rOp r == 0x2A

/-- FORWARD (R209). -/
def execForward (be : Bool) (s : State) : Host.Outcome State Fault Refusal := finish (runJob 5 be isForward forwardJob s)

/-! ### FETCH (R211, R212) -/

/-- A requester FETCH signals once every stream it asked for is complete (R212). -/
def checkFetch (s : State) : State :=
  match s.running.find? (fun u => u.eng == 6 && u.stage == 2 && !(bit (rParam u.cmd.raw) 13)) with
  | none => s
  | some u => match stepAt s u.cmd.step with
    | none => s
    | some x =>
      if (x.streams.filter (fun t => t.note.half == rHalf u.cmd.raw)).all Stream.complete then
        complete u (repServed [3] (rHalf u.cmd.raw) u.cmd.step (flushCap (busyFree Reg.XCHG_FETCH_BUSY_LO s)))
      else s

/-- The FETCH out-records of a requester. -/
def fetchOuts (s : State) (r : RingRec) : List OutRec := (outRecs s (descAt s (rPtr r.raw 1))).filter (fun o => o.mode == 1)

/-- The lines a requester needs. -/
def fetchNeed (s : State) (r : RingRec) : Bool × Nat × Nat × List Nat :=
  (epochOf s r.step, rModel r.raw, rLayer r.raw, (fetchOuts s r).map OutRec.x)

/-- FETCH as requester: one FETCH_RD to the home of each FETCH out-record's expert (R211). -/
def fetchReqJob (s : State) (r : RingRec) : Job :=
  let half := rHalf r.raw
  let xb := xBlock s r.raw
  let reads := touches s (descAt s (rPtr r.raw 1))
  if areaBad s r.step xb then { reads := reads, busyLo := Reg.XCHG_FETCH_BUSY_LO, bound := 0, kill := some .areaSmall, after := raiseBit Reg.XCHG_STAT 5 }
  else
    let go (free : Bool) (t : State) : State :=
      match stepAt t r.step with
        | none => t
        | some x =>
          let outs := fetchOuts t r
          let t := outs.foldl (fun t o =>
            let line := llLine t x.epoch x.model x.layer o.x
            let n := (noteOf x half o.slot o.x).getD { half := half, expert := o.x, layer := x.layer, model := x.model, slot := o.slot,
                                                       bank := pendingBank t o.slot, total := lineWb4k line }
            let t := if free then tick t else t
            let n := if free then freeNote t (0, n) else n
            let t := modStep r.step (fun y => { y with streams := y.streams ++ [{ note := n, got := [], complete := decide (n.total = 0) }] }) t
            let sent (p : Packet) : Packet := if free then freePacket t 8 p else p
            inject (sent (mkPacket t { typ := 2, dst := lineHome line, be := x.be, epoch := x.epoch, layer := x.layer, half := half, model := x.model,
                                         kgen := kgen t, ts := tsAt 24 o.x + tsAt 26 o.slot + tsAt 28 (lineWb4k line) } [])) t) t
          checkFetch (releaseWaiting (modRun 6 (fun u => { u with stage := 2 }) t))
    { reads := reads, busyLo := Reg.XCHG_FETCH_BUSY_LO, bound := 0, wait := true, after := go false, early := some (go true) }

def isFetchReq (r : Record) : Bool := rOp r == 0x30 && !(bit (rParam r) 13)
def isFetchSrv (r : Record) : Bool := rOp r == 0x30 && bit (rParam r) 13

/-- The arrivals a requester will take: Σ TOTAL4K (R369). -/
def fetchRoom (s : State) (r : RingRec) : Nat :=
  total ((fetchOuts s r).map (fun o => lineWb4k (llLine s (epochOf s r.step) (rModel r.raw) (rLayer r.raw) o.x)))

/-- A FETCH that waited for lines goes on once none is missing and capture staging takes its arrival records, which it reserves then (R157, R369;
log entry 98). -/
def resumeFetch (s : State) : State :=
  match runOn s 6 with
  | none => s
  | some u =>
    let q := fetchNeed s u.cmd
    if u.stage ≠ 1 || !(isFetchReq u.cmd.raw) || !(llMissing s q.1 q.2.1 q.2.2.1 q.2.2.2).isEmpty then s
    else if capMode s ≠ 1 then resumeLines 6 fetchNeed fetchReqJob s
    else
      let n := 16 * fetchRoom s u.cmd
      if capFree s < n then s else resumeLines 6 fetchNeed fetchReqJob (capCred { s with cap := { s.cap with reserved := s.cap.reserved + n } })

/-- FETCH with ROLE = 0 (R211); it waits for room in capture staging (R369), which a FETCH that misses lines reserves once it has them (log entry 98). -/
def execFetchRequester (be : Bool) (s : State) : Host.Outcome State Fault Refusal :=
  let need (s : State) (r : RingRec) : Nat :=
    let q := fetchNeed s r
    if (llMissing s q.1 q.2.1 q.2.2.1 q.2.2.2).isEmpty then fetchRoom s r else 0
  finish (withReserve 6 be isFetchReq need (runLines 6 be isFetchReq fetchNeed fetchReqJob) s)

/-- A FETCH_CPL after its checks (R212). -/
def onFetchCpl (p : Packet) (s : State) : State :=
  let x := pTs p 24 15 0
  let o := pTs p 32 23 0
  let isIt (t : Stream) : Bool := t.note.expert == x && t.note.half == pHalf p && t.note.layer == pLayer p
  let bad (q : Option W32) (s : State) : State := raiseKill .timeout q (raiseBit Reg.XCHG_FETCH_STAT 0 s)
  match (pktSteps s p).find? (fun y => y.streams.any isIt) with
  | none => bad ((pktSteps s p).head?.map Step.seq) s
  | some y => match y.streams.find? isIt with
    | none => s
    | some t =>
      if t.got.contains o || decide (t.note.total ≤ o) then bad (some y.seq) s else
      let a := bankAddr (verFor s y.epoch) t.note.slot t.note.bank + 4096 * o
      engWrite (wrBytes a p.payload) y.seq (fun s =>
        let s := bump64 Reg.XCHG_FETCH_BYTES_LO p.payload.length s
        let s := modStep y.seq (fun y => { y with streams := modFirst isIt (fun t =>
          { t with got := o :: t.got, complete := decide (t.got.length + 1 = t.note.total) }) y.streams }) s
        checkFetch (releaseWaiting (capArrival 3 (pHalf p) y.seq (leBytes 2 x ++ leBytes 1 t.note.slot ++ leBytes 1 0 ++ leBytes 4 o ++ leBytes 8 0) s))) s

/-- FETCH_CPL (R212). -/
def execFetchCpl (p : Packet) (s : State) : Host.Outcome State Fault Refusal := finish (if pTyp p = 10 then eject true p (onFetchCpl p) s else s)

/-- The groups a server serves, in in-list order: FETCH in-records of one expert from one mesh row (R211). -/
def serveGroups (ins : List InRec) : List ServeGroup :=
  (ins.filter (fun i => i.mode == 1)).foldl (fun (l : List ServeGroup) i =>
    if l.any (fun g => g.expert == i.expert && (g.members.headD 0) / 8 == i.src / 8) then
      modFirst (fun g => g.expert == i.expert && (g.members.headD 0) / 8 == i.src / 8)
        (fun g => { g with members := insertBy (fun a b => decide (a ≤ b)) i.src g.members }) l
    else l ++ [{ expert := i.expert, members := [i.src], total := 0, slot := 0, base := 0, sent := false }]) []

/-- A held request of a member for an expert of the running server's half. -/
def rdFor (s : State) (x : Step) (half : Bool) (expert src : Nat) : Option Packet :=
  s.rdHeld.find? (fun p => pSrc p == src && pTs p 24 15 0 == expert && pHalf p == half && pLayer p == x.layer && pModel p == x.model && pBe p == x.be)

/-- Serve the next groups whose members have all asked, in order; n bounds them (R211). A group's weights that lie in die memory are read first
(R381, R382). A server that read its list too early holds a value, and what it sends is free (R25). -/
def serveNext : Nat → State → State
  | 0, s => s
  | n + 1, s =>
    match s.running.find? (fun u => u.eng == 6 && u.stage == 2 && bit (rParam u.cmd.raw) 13) with
    | none => s
    | some u => match stepAt s u.cmd.step with
      | none => s
      | some x =>
        let half := rHalf u.cmd.raw
        match u.serves.find? (fun g => !g.sent) with
        | none => complete u (flushCap (busyFree Reg.XCHG_FETCH_BUSY_LO s))
        | some g =>
          let rds := g.members.map (rdFor s x half g.expert)
          if rds.any Option.isNone then s else
          let l := rds.filterMap id
          match l with
          | [] => s
          | first :: _ =>
            let line := llLine s x.epoch x.model x.layer g.expert
            let tot := pTs first 28 23 0
            let rd := [(lineWbase line, 4096 * tot)]
            match poisonAny s rd with
            | some a => poisonKill a 0 u.cmd.step s
            | none =>
              if dieBytes s rd ≠ 0 ∧ u.phase = 0 then
                memRequest 6 x.be (lineWbase line) (dieBytes s rd) (modRun 6 (fun u => { u with stage := 4 }) s)
              else
              let many := decide (1 < g.members.length)
              let mask := if many then total (g.members.dedup.map (fun d => 2 ^ (d % 8))) else 0
              let ps := (List.range tot).map (fun o =>
                mkPacket s { typ := 10, dst := g.members.headD 0, be := x.be, epoch := x.epoch, layer := x.layer, half := half, model := x.model,
                             kgen := kgen s, mcast := b2n many, mmask := mask,
                             ts := tsAt 24 g.expert + tsAt 26 (pTs first 26 7 0) + tsAt 28 tot + tsAt 32 o }
                  (rdN s (lineWbase line + 4096 * o) 4096))
              let ps := if u.value.isEmpty then ps else freePackets s ps
              let s := bump64 Reg.XCHG_FETCH_SERVED_LO (4096 * tot) (injectAll ps s)
              let s := { s with rdHeld := l.foldl (fun h p => dropFirst (fun k => k == p) h) s.rdHeld }
              serveNext n (modRun 6 (fun u => { u with phase := 0, serves := modFirst (fun k => k == g) (fun k =>
                { k with total := tot, slot := pTs first 26 7 0, base := lineWbase line, sent := true }) u.serves }) s)

/-- Serve what can be served. -/
def serveAll (s : State) : State :=
  serveNext ((s.running.map (fun u => u.serves.length)).foldl (· + ·) 1) s

/-- The die-memory read of the group that is next has returned (R211, R382). -/
def served (s : State) : State := serveAll (modRun 6 (fun u => { u with stage := 2, phase := 1 }) s)

/-- The in-records of a server. -/
def serverIns (s : State) (r : RingRec) : List InRec :=
  inRecs s (descAt s (rPtr r.raw 1)) (sumNin (planSum s r.step (xBlock s r.raw).planBase))

/-- The lines a server needs. -/
def serverNeed (s : State) (r : RingRec) : Bool × Nat × Nat × List Nat :=
  (epochOf s r.step, rModel r.raw, rLayer r.raw, ((serverIns s r).filter (fun i => i.mode == 1)).map InRec.expert)

/-- FETCH as server (R211, R440). -/
def fetchSrvJob (s : State) (r : RingRec) : Job :=
  let xb := xBlock s r.raw
  let reads := touches s (descAt s (rPtr r.raw 1))
  if areaBad s r.step xb then { reads := reads, busyLo := Reg.XCHG_FETCH_BUSY_LO, bound := 0, kill := some .areaSmall, after := raiseBit Reg.XCHG_STAT 5 }
  else
    let go (free : Bool) (t : State) : State :=
      serveAll (modRun 6 (fun u => { u with stage := 2, value := if free then [1] else [], serves := serveGroups (serverIns t r) }) t)
    { reads := reads, busyLo := Reg.XCHG_FETCH_BUSY_LO, bound := 0, wait := true, after := go false, early := some (go true) }

/-- FETCH with ROLE = 1 (R211). -/
def execFetchServer (be : Bool) (s : State) : Host.Outcome State Fault Refusal :=
  finish (runLines 6 be isFetchSrv serverNeed fetchSrvJob s)

/-- FETCH_RD (R211). -/
def execFetchRd (p : Packet) (s : State) : Host.Outcome State Fault Refusal :=
  finish (if pTyp p = 2 then eject false p (fun s => serveAll { s with rdHeld := s.rdHeld ++ [p] }) s else s)

/-! ### Acknowledgements and timeouts (R196, R197, R211, R212) -/

/-- Take n acknowledgements of a destination from the commands that sent the type for the layer and half, oldest first. -/
def ackRuns (p : Packet) : Nat → List Run → List Run
  | 0, l => l
  | n + 1, l =>
    let isIt (u : Run) : Bool := u.ackType == pTs p 20 3 0 && u.acks.contains (pSrc p)
      && (u.ackType != 1 || rHalf u.cmd.raw == pHalf p)
    ackRuns p n (modFirst isIt (fun u => { u with acks := dropFirst (fun d => d == pSrc p) u.acks }) l)

/-- An ACK after its checks (R196): packets of commands, STEP_ABORTs before KILL_DONE is joined (R296), the Keeper's other packets (R213). -/
def onAck (p : Packet) (s : State) : State :=
  let n := pTs p 16 31 0
  if pTs p 20 3 0 = 4 then
    if s.abortAcks.contains (pSrc p) then
      let s := { s with abortAcks := dropFirst (fun d => d == pSrc p) s.abortAcks }
      if s.abortAcks.isEmpty && !s.killDone then joinKillDone s else s
    else { s with ownAcks := dropFirst (fun a => a.1 == 4 && a.2.1 == pSrc p) s.ownAcks }
  else if pTs p 20 3 0 = 6 then { s with ownAcks := dropFirst (fun a => a.1 == 6 && a.2.1 == pSrc p) s.ownAcks }
  else
    let s := { s with running := ackRuns p (min n (total (s.running.map (fun u => u.acks.length)))) s.running }
    checkSend (countJoin s)

/-- ACK (R196). -/
def execAck (p : Packet) (s : State) : Host.Outcome State Fault Refusal := finish (if pTyp p = 11 then eject true p (onAck p) s else s)

/-- The i-th pending acknowledgement count is sent (R196). -/
def ackBatch (i : Nat) (s : State) : State :=
  if !(forwarding s) || fenced s then s else
  match s.acks[i]? with
  | none => s
  | some a => sendAck a { s with acks := dropFirst (fun x => x == a) s.acks }

/-- ACK_BATCH_TIMER (R196). -/
def execAckBatchTimer (i : Nat) (s : State) : Host.Outcome State Fault Refusal := finish (ackBatch i s)

/-- A timeout kills a step, counted as a timing choice; off in replay (R362, R371). -/
def timeoutKill (q : W32) (stat b : Nat) (s : State) : State :=
  if capMode s = 2 || !(keeperUp s) then s else raiseKill .timeout (some q) (tdc 4 (raiseBit stat b s))

/-- Acknowledgements missing for the command on an engine (R197). -/
def ackLate (eng : Nat) (s : State) : State :=
  match runOn s eng with
  | none => s
  | some u => if u.acks.isEmpty then s else timeoutKill u.cmd.step Reg.XCHG_STAT 0 s

/-- ACK_TIMEOUT (R197). -/
def execAckTimeout (eng : Nat) (s : State) : Host.Outcome State Fault Refusal := finish (ackLate eng s)

/-- Results missing for a half whose SEND has signalled (R197). -/
def resultLate (half : Bool) (s : State) : State :=
  match s.halves.find? (fun h => h.half == half && h.sendSignalled && decide (h.arrivals < h.expChunks)) with
  | none => s
  | some h => timeoutKill h.step Reg.XCHG_STAT 1 s

/-- RESULT_TIMEOUT (R197). -/
def execResultTimeout (half : Bool) (s : State) : Host.Outcome State Fault Refusal := finish (resultLate half s)

/-- A member's FETCH_RD is missing at the server's timeout (R211). -/
def rdLate (s : State) : State :=
  match s.running.find? (fun u => u.eng == 6 && u.stage == 2 && bit (rParam u.cmd.raw) 13 && u.serves.any (fun g => !g.sent)) with
  | none => s
  | some u => timeoutKill u.cmd.step Reg.XCHG_FETCH_STAT 2 s

/-- FETCH_RD_LATE (R211). -/
def execFetchRdLate (s : State) : Host.Outcome State Fault Refusal := finish (rdLate s)

/-- A stream is incomplete at its timeout (R212). -/
def streamShort (s : State) : State :=
  match s.steps.find? (fun x => x.live && x.streams.any (fun t => !t.complete)) with
  | none => s
  | some x => timeoutKill x.seq Reg.XCHG_FETCH_STAT 1 s

/-- FETCH_STREAM_SHORT (R212). -/
def execFetchStreamShort (s : State) : Host.Outcome State Fault Refusal := finish (streamShort s)

end Sys2Proof.Machine
end

