-- ==== Sys2Proof/Machine/Combine.lean ====
section
/-! DEFINITION. COMBINE and COMBINE_ACK: arrivals placed by tag, the fixed-order sum, the commit barrier; MOVE (spec/08; spec/02 R67 to R69). -/

namespace Sys2Proof.Machine

/-! ### The combine block (R236, R237) -/

structure CBlk where
  slotBase : Addr
  cntBase : Addr
  shBase : Addr
  shRes : Addr
  resBase : Addr
  planBase : Addr
  resRowB : Nat
  resFmt : Nat
  nsh : Nat
  shw : List Nat
  shWait : Nat
  shTarget : W32
  ackWait : Nat
  ackTarget : W32
  rsv : Bool
deriving DecidableEq, Repr

/-- The combine block 128 bytes spell; `rsv` says its reserved bits are zero. -/
def parseCb (l : List Byte) : CBlk :=
  let ad (i : Nat) : Addr := bits (leAt l i 8) 47 0
  let w (i : Nat) : Nat := leAt l i 4
  { slotBase := ad 0, cntBase := ad 8, shBase := ad 16, shRes := ad 24, resBase := ad 32, planBase := ad 40, resRowB := bits (w 48) 23 0,
    resFmt := bits (w 48) 31 24, nsh := bits (w 52) 2 0, shw := (List.range 4).map (fun i => w (56 + 4 * i)), shWait := bits (w 72) 9 0,
    shTarget := BitVec.ofNat 32 (w 76), ackWait := bits (w 80) 9 0, ackTarget := BitVec.ofNat 32 (w 84),
    rsv := (List.range 6).all (fun i => bits (leAt l (8 * i) 8) 63 48 == 0) && bits (w 52) 31 3 == 0 && bits (w 72) 31 10 == 0
      && bits (w 80) 31 10 == 0 && (l.drop 88).all (fun b => b == 0) }

/-- The combine block of a record. -/
def cBlock (s : State) (r : Record) : CBlk := parseCb (rdN s (rPtr r 4) 128)

def rResEn (r : Record) : Bool := bit (rParam r) 13
def rRfmt (r : Record) : Nat := rPar r 21 14
def rCTok (r : Record) : Nat := rPar r 35 22

/-- Bytes of an element of a result or residual format (R225). -/
def fmtBytes (f : Nat) : Nat := fmtBits f / 8

/-- The largest W of a WIDTH (R226). -/
def widthLimit (w : Nat) : Nat := match w with | 0 => 8192 | 1 => 16384 | _ => 32768

/-! ### One half (R223, R224) -/

/-- What a COMBINE works on. -/
structure Comb where
  r : Record
  b : CBlk
  xb : XBlk
  dd : Desc
  dg : Desc
  n : Nat
  w : Nat
  narr : Nat
  wide : Bool
deriving DecidableEq, Repr

/-- The operands of a record of a step. -/
def combOf (s : State) (q : W32) (r : Record) : Comb :=
  let b := cBlock s r
  let dd := descAt s (rPtr r 1)
  { r := r, b := b, xb := parseXb (rdN s (rPtr r 3) 64), dd := dd, dg := descAt s (rPtr r 2), n := dd.sz 1, w := dd.sz 0,
    narr := sumExpChunks (planSum s q b.planBase), wide := bFld (boundOf s q) Reg.COMB_CFG 1 0 != 0 }

/-- The expected bitmap of row r (R224). -/
def Comb.expected (c : Comb) (s : State) (r : Nat) : Nat :=
  let cnt := (rd8 s (c.b.cntBase + rCTok c.r + r)).toNat
  total ((List.range 8).map (fun j =>
    let f := (rd8 s (c.b.slotBase + 128 * r + 16 * j + 10)).toNat
    if j < cnt ∧ bit f 4 ∧ !(bit f 2) then 2 ^ j else 0))

/-- The expected bitmaps of all rows. -/
def Comb.bitmaps (c : Comb) (s : State) : List Nat := (List.range c.n).map (c.expected s)

/-- An arrival record (R203). -/
structure Arrival where
  k : Nat
  tag : Nat
  chunk : Nat
deriving DecidableEq, Repr

/-- The arrival records of the half, in index order. -/
def Comb.arrivals (c : Comb) (s : State) : List Arrival :=
  (List.range c.narr).map (fun k =>
    let a := c.xb.arrBase + 16 * k
    { k := k, tag := rdLe s a 8, chunk := (rd8 s (a + 8)).toNat })

/-- Checks 1 to 4 of R226 on an arrival. -/
def Comb.inRange (c : Comb) (s : State) (bm : List Nat) (a : Arrival) : Bool :=
  let t := a.tag
  let tok := bits t 33 20
  bits t 63 60 == 0 && bits t 19 0 == ownDa s && bits t 44 37 == rLayer c.r && bit t 45 == rHalf c.r && bits t 59 50 == partId s
  && decide (rCTok c.r ≤ tok) && decide (tok < rCTok c.r + c.n) && bit (bm.getD (tok - rCTok c.r) 0) (bits t 36 34) && decide (a.chunk < c.xb.cpr)

/-- The position (row, k-slot, chunk) an arrival names: as it stands, or in the wide configuration reduced (R226). -/
def Comb.pos (c : Comb) (a : Arrival) : Nat × Nat × Nat :=
  let d : Int := (bits a.tag 33 20 : Int) - (rCTok c.r : Int)
  ((d % 16384).toNat, bits a.tag 36 34, if c.wide then a.chunk % 8 else a.chunk)

/-- An entry of the coordinate list: position and arrival index. -/
structure Placed where
  pos : Nat × Nat × Nat
  k : Nat
deriving DecidableEq, Repr

/-- What placing the arrivals gives: the coordinate list, arrivals dropped out of range, dropped as duplicates (R226). -/
structure Placing where
  list : List Placed := []
  range : Nat := 0
  dup : Nat := 0
deriving DecidableEq, Repr

/-- One arrival is entered or dropped. -/
def Comb.enter (c : Comb) (s : State) (bm : List Nat) (p : Placing) (a : Arrival) : Placing :=
  let q := c.pos a
  if !c.wide && !(c.inRange s bm a) then { p with range := p.range + 1 }
  else if p.list.any (fun e => e.pos == q) then (if c.wide then p else { p with dup := p.dup + 1 })
  else { p with list := p.list ++ [{ pos := q, k := a.k }] }

/-- All arrivals placed. -/
def Comb.placing (c : Comb) (s : State) (bm : List Nat) : Placing := (c.arrivals s).foldl (c.enter s bm) {}

/-- The expected positions (R224). -/
def Comb.positions (c : Comb) (bm : List Nat) : List (Nat × Nat × Nat) :=
  (withIdx 0 bm).flatMap (fun e => ((List.range 8).filter (bit e.2)).flatMap (fun j => (List.range c.xb.cpr).map (fun k => (e.1, j, k))))

/-- Expected positions without an entry (R227). -/
def Comb.missing (c : Comb) (bm : List Nat) (l : List Placed) : Nat :=
  ((c.positions bm).filter (fun q => !(l.any (fun e => e.pos == q)))).length

/-- Address of a chunk by its arrival index (R203). -/
def Comb.chunkAddr (c : Comb) (s : State) (k : Nat) : Addr :=
  rdLe s (c.xb.chunkList + 8 * (k / c.xb.cpb)) 8 % 2 ^ 48 + k % c.xb.cpb * 4096

/-! ### The sum (R225, R230 to R232) -/

/-- fma32 of R230 on codes of binary32 and an exact second factor. -/
def fma32 (a b : Val) (acc : Nat) : Nat := toF32 (addVal (mulVal a b) (ofF32 acc))

/-- A scalar element of a format at an address. -/
def elemAt (s : State) (fmt : Nat) (a : Addr) : Val := decodeScalar fmt (rdLe s a (fmtBytes fmt))

/-- Result element e of slot j of row r (R225). -/
def Comb.result (c : Comb) (s : State) (l : List Placed) (r j e : Nat) : Val :=
  let o := e * fmtBytes (rRfmt c.r)
  match l.find? (fun p => p.pos == (r, j, o / 4096)) with
  | some p => elemAt s (rRfmt c.r) (c.chunkAddr s p.k + o % 4096)
  | none => .fin false 0 0

/-- Shared result element e of expert i for row r (R228). -/
def Comb.shared (c : Comb) (s : State) (i r e : Nat) : Val :=
  elemAt s (rRfmt c.r) (c.b.shRes + (i * c.n + r) * roundUp c.xb.rrb 64 + e * fmtBytes (rRfmt c.r))

/-- The shared mask of row r. -/
def Comb.mask (c : Comb) (s : State) (r : Nat) : Nat := if c.b.nsh = 0 then 0 else (rd8 s (c.b.shBase + rCTok c.r + r)).toNat

/-- combine_elem of R230: a binary32 code, or the exact residual where nothing is added to it. -/
def Comb.elem (c : Comb) (s : State) (bm : List Nat) (l : List Placed) (r e : Nat) : Nat :=
  let res := if rResEn c.r then toF32 (elemAt s c.b.resFmt (c.b.resBase + r * c.b.resRowB + e * fmtBytes c.b.resFmt)) else 0
  let acc := (List.range 8).foldl (fun acc j =>
    if bit (bm.getD r 0) j then fma32 (ofF32 (readRaw s c.dg [j, r, 0, 0, 0]).1) (c.result s l r j e) acc else acc) res
  (List.range c.b.nsh).foldl (fun acc i => if bit (c.mask s r) i then fma32 (ofF32 (c.b.shw.getD i 0)) (c.shared s i r e) acc else acc) acc

/-- Whether a value is written as NaN in the output format. -/
def outNan (fmt : Nat) (sat : Bool) (v : Val) : Bool :=
  match fpOf fmt with
  | some f => v.isNan || (!(fmtMx fmt) && (decodeFp f (convert f sat v).code).isNan)
  | none => v.isNan

/-- Rows that hold a NaN element (R230): in an MX format a block with a NaN or an infinity is a NaN block (R48). -/
def Comb.nanRows (c : Comb) (rows : List (List Nat)) : Nat :=
  (rows.filter (fun l => l.any (fun a => outNan c.dd.fmt (rSat c.r) (ofF32 a))
    || (fmtMx c.dd.fmt && (chunksOf 32 (c.w / 32) l).any (fun b => decide ((mxBlock c.dd.fmt (rSat c.r) (b.map ofF32)).1 = 0xFF))))).length

/-- Dense tiles among the tiles of 64 rows, and sparse ones (R233). -/
def combTiles (occ : Nat) (bm : List Nat) : Nat × Nat :=
  let ts := chunksOf 64 (ceilDiv bm.length 64) bm
  let dense (t : List Nat) : Bool :=
    decide (occ * t.length * 8 ≤ total (t.map (fun m => ((List.range 8).filter (bit m)).length)) * 256)
  ((ts.filter dense).length, (ts.filter (fun t => !(dense t))).length)

/-- combine_cycles of R239. -/
def combCycles (c : Comb) (lanes : Nat) : Nat :=
  if c.n = 0 then 64 else
  let u := max (ceilDiv c.xb.rrb 512) (ceilDiv c.w lanes)
  let ob := fmtBits c.dd.fmt * 32 + (if fmtMx c.dd.fmt then 8 else 0)
  let wr := ceilDiv (c.w * ob) (32 * 8 * 512) + 2 + (if rResEn c.r then ceilDiv (c.w * fmtBits c.b.resFmt) (8 * 512) else 0)
  64 + ceilDiv c.narr 4 + ceilDiv (c.n * 162) 512 + 24 * ceilDiv c.n 64 + c.n * ((8 + c.b.nsh) * u + wr)

/-- What a COMBINE reads. -/
def Comb.reads (c : Comb) (s : State) (l : List Placed) : List (Addr × Nat) :=
  let sh := if c.b.nsh = 0 then [] else
    (c.b.shBase + rCTok c.r, c.n) :: (List.range (c.b.nsh * c.n)).map (fun i => (c.b.shRes + i * roundUp c.xb.rrb 64, c.xb.rrb))
  let res := if rResEn c.r then (List.range c.n).map (fun r => (c.b.resBase + r * c.b.resRowB, c.w * fmtBytes c.b.resFmt)) else []
  [(c.xb.arrBase, 16 * c.narr), (c.xb.chunkList, 8 * ceilDiv c.narr c.xb.cpb), (c.b.slotBase, 128 * c.n), (c.b.cntBase + rCTok c.r, c.n)]
    ++ touches s c.dg ++ l.map (fun p => (c.chunkAddr s p.k, min 4096 (c.xb.rrb - 4096 * p.pos.2.2))) ++ sh ++ res

/-- The writes of an output whose values the spec leaves undefined: free codes, and free scale bytes in an MX format (R20, R226). -/
def freeWrites (s : State) (d : Desc) : List Wr :=
  let code (i : List Nat) : Nat := freeF32 s (i.getD 0 0 + d.sz 0 * i.getD 1 0)
  (writeCodes s d code).1 ++ (if fmtMx d.fmt then
    (List.range (d.count / 32)).flatMap (fun b =>
      wrBytes (d.scaleAt (d.coord (32 * b))) [Config.freeByte (s.free + 1) b]) else [])

/-! ### COMBINE (R223 to R239) -/

/-- COMMIT_READY releases: the step's commit point is reached and COMBINE_ACK signals (R235, R293). -/
def relCommit (id : BarId) (_ : Nat) (_ : W64) (s : State) : State :=
  match runOfBar s id with
  | none => s
  | some u =>
    let s := modStep u.cmd.step (fun x => { x with released := true }) s
    complete u (digests u.cmd [rPtr u.cmd.raw 1] (busyFree Reg.COMB_BUSY_LO s))

/-- A COMBINE_ACK whose combine work is done joins the commit barrier once its wait holds (R235). -/
def ackJoin (s : State) : State :=
  match s.running.find? (fun u => u.eng == 7 && u.stage == 3 && u.bar.isNone) with
  | none => s
  | some u => match stepAt s u.cmd.step with
    | none => s
    | some x =>
      let b := cBlock s u.cmd.raw
      if !(reached s b.ackWait b.ackTarget) then s else
      let id := commitId s x
      joinLocal relCommit id 15 false 0
        (modRun 7 (fun u => { u with bar := some id }) (modStep u.cmd.step (fun x => { x with phase := .joined }) s))

/-- What a COMBINE's rows show in counters and status. -/
def combRep (bm : List Nat) (p : Placing) (occ : Nat) (nan : Nat) (s : State) : State :=
  let t := combTiles occ bm
  let s := bump Reg.COMB_TILES_DENSE t.1 (bump Reg.COMB_TILES_SPARSE t.2 (bump Reg.COMB_DROP_CNT (p.range + p.dup) s))
  let s := raiseIf (decide (0 < p.dup)) Reg.COMB_STAT 1 (raiseIf (decide (0 < p.range)) Reg.COMB_STAT 0 s)
  raiseIf (decide (0 < nan)) Reg.COMB_STAT 3 (bump Reg.COMB_NAN_CNT nan s)

/-- What the rest of a COMBINE does after its writes: the end of its captures, and for COMBINE_ACK the wait for its barrier. -/
def combAfter (c : Comb) (q : W32) (s : State) : State :=
  let s := repServed [0] (rHalf c.r) q (flushCap s)
  if rOp c.r = 0x39 then ackJoin (modRun 7 (fun u => { u with stage := 3 }) s) else s

/-- COMBINE's work once its shared rows are there (R226 to R234). -/
def combJob (s : State) (r : RingRec) : Job :=
  let c := combOf s r.step r.raw
  let cfg := bReg (boundOf s r.step) Reg.COMB_CFG
  let bm := c.bitmaps s
  let p := c.placing s bm
  let miss := c.missing bm p.list
  let base : Job := { reads := c.reads s p.list, busyLo := Reg.COMB_BUSY_LO, bound := combCycles c (if c.wide then 1024 else 512),
                      outs := [rPtr r.raw 1], wait := rOp r.raw == 0x39 }
  if 0 < miss then
    { base with kill := some .missing,
                after := fun s => raiseBit Reg.COMB_STAT 2 (bump Reg.COMB_MISS_CNT miss (raiseIf (decide (0 < p.dup)) Reg.COMB_STAT 1
                  (raiseIf (decide (0 < p.range)) Reg.COMB_STAT 0 (bump Reg.COMB_DROP_CNT (p.range + p.dup) s)))) }
  else if c.wide && (c.arrivals s).any (fun a => !(c.inRange s bm a)) then
    { base with writes := freeWrites s c.dd, rep := combRep bm p (bits cfg 9 2) 0, after := fun s => combAfter c r.step (tick (tick s)) }
  else
    let rows := (List.range c.n).map (fun i => (List.range c.w).map (c.elem s bm p.list i))
    let w := writeVals s c.dd (rSat r.raw) (fun i => ofF32 ((rows.getD (i.getD 1 0) []).getD (i.getD 0 0) 0))
    { base with writes := w.1, fx := w.2, rep := combRep bm p (bits cfg 9 2) (c.nanRows rows), after := combAfter c r.step }

/-- Read what a job of a started command reads from die memory first, or do it at once. -/
def runWork (e : Nat) (j : Job) (s : State) : State :=
  match runOn s e with
  | none => s
  | some u => readThen u j s

/-- A COMBINE that waits for shared rows goes on once they are there (R229); the cycles it waited count as BUSY (R241; log entry 4). -/
def combWake (s : State) : State :=
  match s.running.find? (fun u => u.eng == 7 && u.shWait) with
  | none => s
  | some u =>
    let b := cBlock s u.cmd.raw
    if reached s b.shWait b.shTarget then
      let s := busyFree Reg.COMB_BUSY_LO (modRun 7 (fun u => { u with shWait := false }) s)
      runWork 7 (combJob s u.cmd) s
    else s

/-- What waits on a counter inside a command is looked at again: shared rows (R229), the commit barrier's wait (R235); a
hold of capture does not stop a started command (R368). -/
def combPoll (s : State) : State := if commandsRun s then ackJoin (combWake s) else s

/-- COMBINE or COMBINE_ACK starts: the width and the areas are checked, then the shared rows awaited (R229, R238, R441). -/
def startComb (be : Bool) (op : Nat) (s : State) : State :=
  match startable s 7 be with
  | none => if s.running.any (fun u => u.eng == 7 && rOp u.cmd.raw == op) then combPoll s else s
  | some r =>
    if rOp r.raw ≠ op then s else
    match stepAt s r.step with
    | none => s
    | some x =>
      if op = 0x39 && !(barFree s (commitId s x)) then s else
      let c := combOf s r.step r.raw
      let s := setFld Reg.COMB_STAT 6 6 (b2n c.wide) (startRun 7 r s)
      if widthLimit (bFld x.bound Reg.COMB_CFG 1 0) < c.w then raiseKill .widthBad (some r.step) (raiseBit Reg.COMB_STAT 5 s)
      else if areaBad s r.step c.xb then raiseKill .areaSmall (some r.step) (raiseBit Reg.XCHG_STAT 5 s)
      else if c.b.nsh ≠ 0 ∧ !(reached s c.b.shWait c.b.shTarget) then modRun 7 (fun u => { u with shWait := true }) s
      else runWork 7 (combJob s r) s

/-- COMBINE (R230). -/
def execCombine (be : Bool) (s : State) : Host.Outcome State Fault Refusal := finish (startComb be 0x38 s)
/-- COMBINE_ACK (R235). -/
def execCombineAck (be : Bool) (s : State) : Host.Outcome State Fault Refusal := finish (startComb be 0x39 s)

/-- The step a cluster's SH_DONE is for: each cluster raises it once per half, so the oldest started step, killed ones too (their rows and the counter
stay, R294), with SH_EN bound that the cluster has
raised it for less than twice (R228, R425; DEDUCED, log entry 68). -/
def shStep (c : Nat) (s : State) : Option Step :=
  s.steps.find? (fun x => x.started && bFld x.bound Reg.COMB_SH_SIG 10 10 == 1 && decide (x.shDone.count c < 2))

/-- A cluster's SH_DONE (R228): the counter that UZ_COMB_SH_SIG names as bound to its step, or as it is applied where no step waits for one, when
enabled. -/
def onShDone (c : Nat) (s : State) : State :=
  if !(forwarding s) || fenced s then s else
  match shStep c s with
  | some x => combPoll (signal (bFld x.bound Reg.COMB_SH_SIG 9 0) (modStep x.seq (fun x => { x with shDone := c :: x.shDone }) s))
  | none => if flag s Reg.COMB_SH_SIG 10 then combPoll (signal (fld s Reg.COMB_SH_SIG 9 0) s) else s

/-- SH_DONE (R228). -/
def execShDone (c : Nat) (s : State) : Host.Outcome State Fault Refusal := finish (onShDone c s)

/-- The shared rows did not come in time (R229). -/
def sharedLate (s : State) : State :=
  match s.running.find? (fun u => u.eng == 7 && u.shWait) with
  | none => s
  | some u =>
    let b := cBlock s u.cmd.raw
    if reached s b.shWait b.shTarget then s else timeoutKill u.cmd.step Reg.COMB_STAT 4 s

/-- SHARED_ROWS_TIMEOUT (R229). -/
def execSharedRowsTimeout (s : State) : Host.Outcome State Fault Refusal := finish (sharedLate s)

/-! ### MOVE (R67 to R69) -/

/-- The source coordinates of a destination coordinate: missing dimensions read as 0 (R67). -/
def moveSrc (d : Desc) (i : List Nat) : List Nat := (withIdx 0 i).map (fun e => if e.1 < d.ndim then e.2 else 0)

/-- move_cycles of R69. The spec does not define n_index_reads: it is taken as one index element per destination element for each of the two
descriptors that is indexed (DESIGN CHOICE, log entry 47; it only bounds a free duration). -/
def moveCycles (ds dd : Desc) : Nat :=
  let n := dd.count
  let bmax := max ds.wd dd.wd
  let unit (d : Desc) : Bool := decide ((d.st 0).natAbs = 1) && (d.idxMode == 0 || d.idxDim != 0)
  let ix (d : Desc) : Nat := if d.idxMode = 0 then 0 else n * (if d.idxFmt = 0 then 2 else 4)
  48 + (if unit ds && unit dd then n / (max 1 (dd.sz 0)) * ceilDiv (dd.sz 0 * bmax) 512 else n) + ceilDiv (ix ds + ix dd) 64
    + (if fmtMx ds.fmt || fmtMx dd.fmt then ceilDiv n 2048 else 0)

/-- MOVE (R67). An empty operand leaves nothing to do (R437). Where the destination overlaps the source the spec gives no order of reads and
writes: every source element is read before the first write (DESIGN CHOICE, log entry 51). -/
def moveJob (s : State) (r : RingRec) : Job :=
  let ds := descAt s (rPtr r.raw 1)
  let dd := descAt s (rPtr r.raw 2)
  if ds.empty || dd.empty then { reads := [], bound := moveCycles ds dd, outs := [rPtr r.raw 2] } else
  let coords := (List.range dd.count).map (fun n => moveSrc ds (dd.coord n))
  let clamps := (coords.filter (fun i => (readRaw s ds i).2.2)).length
  let w := if fmtInt dd.fmt then writeCodes s dd (fun i => (readRaw s ds (moveSrc ds i)).1)
    else writeVals s dd (rSat r.raw) (fun i => (readVal s ds (moveSrc ds i)).1)
  let dst := (List.range dd.count).flatMap (fun n => idxTouch dd (dd.coord n))
  { reads := coords.flatMap (elemTouches s ds) ++ dst, bound := moveCycles ds dd, outs := [rPtr r.raw 2],
    writes := w.1, fx := w.2.add { clamp := clamps } }

/-- MOVE (R67). -/
def execMove (be : Bool) (s : State) : Host.Outcome State Fault Refusal := finish (runJob 8 be (fun r => rOp r == 0x40) moveJob s)

end Sys2Proof.Machine
end

