-- ==== Sys2Proof/Machine/Flip.lean ====
section
/-! DEFINITION. The epoch flip, its drain, promotion and warm-up (spec/07 R210, R213 to R216, spec/06 R156 to R158, spec/12 R352,
spec/14 R389 to R391, R394). -/

namespace Sys2Proof.Machine

/-! ### Lines of the next version (R156, R158, R352) -/

/-- The next copies join the version that the flip publishes. -/
def mergeNext (ep : Bool) (s : State) : State :=
  let nx := s.ll.filter LLine.next
  let keep := s.ll.filter (fun x => !x.next && !(x.dir && x.epoch == ep && nx.any (fun y => lineKey y.data == lineKey x.data)))
  { s with ll := keep ++ nx.map (fun x => { x with next := false, epoch := ep }) }

/-- The directory's lines of the version being prepared: those of the other version, as the next copies replace them; lines of leaving models are
left out (R352). -/
def buildDir (ep : Bool) (s : State) : State :=
  let gone (l : BitVec 256) : Bool := s.models.any (fun m => m.leaving && !m.late && m.id == lBits l 0 27 24)
  let old := (s.ll.filter (fun x => x.dir && !x.next && x.epoch != ep && !(gone x.data))).map (fun x => { x with epoch := ep })
  let keep := s.ll.filter (fun x => x.next || x.epoch != ep || !(x.dir || gone x.data))
  mergeNext ep { s with ll := keep ++ old }

/-- Drop the cached lines of a version and ask for its pinned ones again, those whose pin still waits for its line among them; a line this slice is the
directory of is pinned as it stands (R213, R156). -/
def refetchPinned (ep : Bool) (s : State) : State :=
  let pins := (s.ll.filter (fun x => x.pinned && !x.next && x.epoch != ep)).map (fun x => lineKey x.data)
    ++ (s.llReqs.filter (fun r => r.pin && !r.own && r.epoch != ep)).map LLReq.key
  let s := { s with ll := (s.ll.filter (fun x => x.dir || x.next || x.epoch != ep)).map (fun x => if x.epoch = ep then { x with pinned := false } else x) }
  pins.dedup.foldl (fun s key => pinIn ep key s) s

/-- The home maps of a version: those of the other version, and of models that come with it the map of their image (R155). -/
def loadHomes (ep : Bool) (s : State) : State :=
  let old := s.homes.filter (fun h => h.epoch != ep)
  let mapOf (m : Model) : HomeMap :=
    match (if m.resident then old.find? (fun h => h.model == m.id) else none) with
    | some h => { h with epoch := ep }
    | none => { model := m.id, epoch := ep, img := hdrAt m.hdr 8 6, fixed := [] }
  { s with homes := old ++ (s.models.filter (fun m => !m.leaving)).map mapOf }

/-- Rewrite entries of a version's home maps (R389). -/
def fixHomes (ep : Bool) (l : List (BitVec 256)) (s : State) : State :=
  { s with homes := s.homes.map (fun h => if h.epoch = ep then
      { h with fixed := (l.filter (fun x => lBits x 0 27 24 == h.model)).foldl (fun f x => (lineKey x, lineHome x) :: f.filter (fun e => e.1 != lineKey x)) h.fixed }
      else h) }

/-- Every placement line of a version that this slice knows is served by a gateway table (R161). -/
def epochServed (s : State) (ep : Bool) (v : Version) : Bool :=
  ((s.ll.filter (fun x => (x.next || x.epoch == ep) && lBits x.data 0 28 28 == 0 && lineValid x.data)).map LLine.data).all (lineServed s v)

/-! ### Promotion (R389) -/

/-- The placements of a line in order. -/
def placesOf (l : BitVec 256) : List (Nat × Nat × Nat) := [linePlace l 1, linePlace l 2, linePlace l 3]

/-- A line with other placements; freed places become NONE. -/
def setPlaces (l : BitVec 256) (ps : List (Nat × Nat × Nat)) : BitVec 256 :=
  let w (i : Nat) : Nat := match ps[i]? with | some p => p.1 + p.2.1 * 2 ^ 20 + p.2.2 * 2 ^ 22 | none => 0
  lSet (lSet (lSet l 16 47 24 (w 0)) 24 23 0 (w 1)) 24 47 24 (w 2)

/-- promote of R389: the line, whether it was promoted, whether it has no STANDBY left, whether its expert is lost; a lost expert's line loses its
fenced places but keeps its VERSION (log entry 93). -/
def promoteLine (f : List Nat) (l : BitVec 256) : BitVec 256 × Bool × Bool × Bool :=
  let ps := (placesOf l).filter (fun p => p.2.2 != 0 && !f.contains p.1)
  let first (k : Nat) : Option (Nat × Nat × Nat) := ps.find? (fun p => p.2.2 == k)
  let bump' (x : BitVec 256) : BitVec 256 := if x = l then x else lSet x 0 63 56 ((lBits l 0 63 56 + 1) % 256)
  if !(f.contains (lineHome l)) then
    (bump' (setPlaces l ps), false, !(ps.any (fun p => p.2.2 == 2)), false)
  else match (match first 1 with | some p => some p | none => first 2) with
    | none => (setPlaces l ps, false, false, true)
    | some p =>
      let rest := dropFirst (fun q => q == p) ps
      (bump' (lSet (setPlaces l rest) 0 53 32 (p.1 + p.2.1 * 2 ^ 20)), true, !(rest.any (fun q => q.2.2 == 2)), false)

/-- The fenced DAs. -/
def fenceList (s : State) : List Nat :=
  s.fencedMore ++ (List.range 16).filterMap (fun i => let r := reg s (Reg.REL_FENCE i); if bit r 31 then some (bits r 19 0) else none)

/-- Stage 1 of the recovery flip in a slice of a partition that lost a member: every placement line this slice holds, or its image holds, is transformed
in the version being prepared and in the image; lines whose new HOME is this die are directed here (R389). -/
def promote (ep : Bool) (s : State) : State :=
  let f := fenceList s
  if !(assigned s) || !(s.part.members.any (fun d => f.contains d)) then s else
  let held := (s.ll.filter (fun x => !x.next && lBits x.data 0 28 28 == 0 && x.epoch != ep)).map LLine.data
  let newer := (s.ll.filter (fun x => x.dir && !x.next && lBits x.data 0 28 28 == 0 && x.epoch == ep)).map LLine.data
  let img := (s.models.filter Model.resident).flatMap (fun m => (imageLinesOf s (hdrAt m.hdr 8 6) m.id).map (fun l => (hdrAt m.hdr 8 6, l)))
  let pick := (newer ++ held ++ img.map Prod.snd).foldl (fun l x => if l.any (fun y => lineKey y == lineKey x) then l else l ++ [x]) []
  let res := pick.map (fun l => (l, promoteLine f l))
  let mine := res.filter (fun r => r.2.2.1 && lineHome r.2.1 == ownDa s)
  let noStand := (res.filter (fun r => r.2.2.2.1)).length
  let lost := (res.filter (fun r => r.2.2.2.2)).length
  let da := fld s Reg.REL_RECOV 19 0
  let fix (x : LLine) : LLine :=
    if x.epoch != ep || x.next then x
    else if lBits x.data 0 28 28 = 0 then { x with data := (promoteLine f x.data).1 }
    else match res.find? (fun r => bits (lineKey r.1) 27 0 == bits (lineKey x.data) 27 0) with
      | some r => { x with data := lSet x.data 0 51 32 (lineHome r.2.1) }
      | none => x
  let fresh' := (mine.filter (fun r => !(newer.any (fun y => lineKey y == lineKey r.1)))).map (fun r =>
    ({ epoch := ep, data := r.2.1, pinned := false, dir := true, next := false } : LLine))
  let s := fixHomes ep ((res.filter (fun r => r.2.2.1)).map (fun r => r.2.1)) { s with
    ll := s.ll.map fix ++ fresh'
    imgFix := img.map (fun e => (e.1, (promoteLine f e.2).1)) ++ s.imgFix.filter (fun e => !(img.any (fun y => y.1 == e.1 && lineKey y.2 == lineKey e.2))) }
  let s := if mine.isEmpty then s else faultRec 0x11 22 da mine.length 0 noStep s
  let s := if noStand = 0 then s else raiseBit Reg.REL_STAT 11 (faultRec 0x12 22 da noStand 0 noStep s)
  if lost = 0 then s else raiseBit Reg.REL_STAT 12 (faultRec 0x13 22 da lost 0 noStep s)

/-! ### Stage 1 (R213, R214, R216) -/

/-- A routing table and its alternate, read from memory (R192, R387). -/
def loadRt (s : State) (base : Addr) : List (Nat × Nat) :=
  (((List.range 516) ++ (List.range 516).map (· + 544)).map (fun i => (i, rdLe s (base + 2 * i) 2))).filter (fun e => e.2 != 0)

/-- The tables of a version: the routing table and its alternate, the gateway table (R161, R192, R387). -/
def tableRanges (v : Version) : List (Addr × Nat) :=
  [(v.rtBase, 1032), (v.rtBase + 0x440, 1032)] ++ (if v.gwBase = 0 then [] else [(v.gwBase, 640)])

/-- The value a flip register takes: what was staged where its field accepts it, the live one where the comparison failed; LIFT is no value, it is
cleared when it acts (R383, R394, R427). -/
def flipVals (ok : Bool) (s : State) : RegMap :=
  (offsOf .flip).map (fun o =>
    let m := match regRow o with | some r => if o = Reg.REL_FENCE_LIFT then 0xFFFFF else r.rws | none => 0
    (o, BitVec.ofNat 32 (if ok then (screen s o (Nat.land (stg s o) m)).1 else Nat.land (reg s o) m)))

/-- A flip register's value. -/
def flipVal (l : RegMap) (o : Nat) : Nat := match l.find? (fun e => e.1 == o) with | some e => e.2.toNat | none => 0

/-- FLIP_PREP starts stage 1 for version ep (R213); refused while the old version is held (log entry 66). A slice that has taken part in no flip since its
reset takes any version (R215). A gateway table that leaves a placement of the version unserved is not installed: the live one stays where it serves
them all, else the version is refused and no part of it (R161; log entry 67). A GW_BASE that is no multiple of 32 is used as staged (DESIGN CHOICE, log entry 52). -/
def startPrep (ep : Bool) (s : State) : State :=
  if dual s || prep s then s
  else if ep == curEpoch s && !s.flip.fresh then staleFrame s
  else
    let ok := !(cfgMismatch s)
    let s := if ok then cfgRelease s else cfgHold s
    let t := flipVals ok s
    let a (lo : Nat) : Addr := flipVal t lo + flipVal t (lo + 4) * 2 ^ 32
    let s := if ok then (offsOf .flip).foldl (fun s o => if o = Reg.REL_FENCE_LIFT then s else
      noteRefused o (!(screen s o (Nat.land (stg s o) (match regRow o with | some r => r.rws | none => 0))).2.isEmpty) s) s else s
    let lift := if ok && bit (stg s Reg.REL_FENCE_LIFT) 31 then some (bits (stg s Reg.REL_FENCE_LIFT) 19 0) else none
    let v : Version := { held := true, rtBase := a Reg.XCHG_RT_BASE_LO, rt := loadRt s (a Reg.XCHG_RT_BASE_LO), gwBase := a Reg.SORT_GW_BASE_LO,
                         storeBase := a Reg.XCHG_FETCH_STORE_LO, rs := bits (flipVal t Reg.SORT_PLAN_REPL) 8 0,
                         slot4k := bits (flipVal t Reg.SORT_PLAN_REPL) 31 9 }
    let s0 := s
    let s := loadHomes ep (buildDir ep (raiseBit Reg.XCHG_FAB_EPOCH 2 s))
    let v0 := verOf s (curEpoch s)
    let keepGw := !(epochServed s ep v)
    let gwOffs := [Reg.SORT_GW_BASE_LO, Reg.SORT_GW_BASE_HI]
    let t := if keepGw then t.map (fun e => if gwOffs.contains e.1 then (e.1, BitVec.ofNat 32 (reg s e.1)) else e) else t
    let refuse (s : State) : State := gwOffs.foldl (fun s o => noteRefused o (stg s o != reg s o) s) s
    if keepGw && !(epochServed s ep { v with gwBase := v0.gwBase }) then refuse s0 else
    let s := if keepGw then refuse s else s
    let v := if keepGw then { v with gwBase := v0.gwBase } else v
    let s := memRequests tableEng false (dieReads s (tableRanges v)) (if ep then { s with verB := v } else { s with verA := v })
    let s := refetchPinned ep { s with flip := { s.flip with target := ep, taken := t, lift := lift, readyJoined := false, retireJoined := false } }
    let s := if s.recov.flipDue then promote ep { s with recov := { s.recov with flipDue := false, flipping := true } } else s
    if benremin s && assigned s then raiseBit Reg.XCHG_FAB_DRAIN 0 s else s

/-- Epoch work this slice holds (R214), the root's kept requests and a recovery flip that is due among it. -/
def epochWork (s : State) : Bool :=
  pendOf s .flip || s.models.any (fun m => m.leaving || !m.resident) || (flag s Reg.XCHG_BCN_ELECT 3 && (s.flip.wanted || s.recov.flipDue))

/-- The root starts a flip (R214). -/
def rootFlip (s : State) : State :=
  if prep s || dual s then { s with flip := { s.flip with wanted := true } }
  else
    let ep := !(curEpoch s)
    let s := { s with flip := { s.flip with wanted := false } }
    startPrep ep (sendDown 3 (headOf 3 0x06 false true 1024 0 (b2n ep)) none s)

/-- A request reaches the root, or is sent towards it (R214). -/
def requestFlip (da : Nat) (s : State) : State :=
  if flag s Reg.XCHG_BCN_ELECT 3 then rootFlip s
  else sendUp 3 (headOf 3 0x0A false false 1024 0 da) none s

/-! ### Go, warm-up, retire (R213, R215, R390) -/

/-- RECOVER releases: the partition's hold ends (R390, R391). -/
def relRecover (_ : BarId) (_ : Nat) (_ : W64) (s : State) : State :=
  let s := setFld Reg.REL_RECOV 21 20 3 (dropBit Reg.REL_STAT 14 s)
  tick (setReg (Reg.REL_RECOV_T 2) ((fresh s).toNat % 2 ^ 32) { s with recov := { s.recov with active := false, rerunDue := true } })

/-- The partition's RECOVER barrier, of kind KEEPER (R390). -/
def recoverId (s : State) : BarId := { group := partId s, tag := 0, kgen := kgen s }

/-- Every member joins RECOVER once its clusters are warm (R390). -/
def joinRecover (s : State) : State :=
  if s.recov.active && s.recov.warm.isEmpty then joinLocal relRecover (recoverId s) 15 false 0 s else s

/-- A new home reads each promoted expert's WB4K × 4 KiB at WBASE once, through the die memory port (R390; log entry 92). -/
def verifyWeights (new : List (BitVec 256)) (s : State) : State :=
  (new.filter (fun l => lineWb4k l != 0)).foldl (fun s l =>
    let n := lineWb4k l * 4096
    memRequest keeperEng false (lineWbase l) n s) s

/-- After the FLIP_GO of the recovery flip, each new home reads the promoted experts' weights and then asks its clusters to load them (R390). -/
def warmUp (ep : Bool) (s : State) : State :=
  if !s.recov.flipping then s else
  let here (e : Bool) : List (BitVec 256) := (s.ll.filter (fun x => x.dir && !x.next && x.epoch == e && lBits x.data 0 28 28 == 0)).map LLine.data
  let old := here (!ep)
  let new := (here ep).filter (fun l => lineHome l == ownDa s && !(old.any (fun o => lineKey o == lineKey l && lineHome o == ownDa s)))
  let cls := (new.map lineHomeCl).dedup
  let asks := cls.map (fun c => (c, (new.filter (fun l => lineHomeCl l == c)).map (fun l => bits (lineKey l) 15 0)))
  let s := askWarm (verifyWeights new { s with recov := { s.recov with flipping := false, warm := cls, asks := asks } })
  if !s.recov.active then s else
  let s := tick (setReg (Reg.REL_RECOV_T 1) ((fresh s).toNat % 2 ^ 32) (setFld Reg.REL_RECOV 21 20 2 s))
  joinRecover s

/-- A fence lift takes the DA out of the fence list and its hole bit away (R394). -/
def liftFence (d : Nat) (s : State) : State :=
  let s := (List.range 16).foldl (fun s i => if bits (reg s (Reg.REL_FENCE i)) 19 0 = d then setReg (Reg.REL_FENCE i) 0 s else s) s
  let s := if d / 64 ≠ ownDa s / 64 then s
    else if d % 64 < 32 then dropBit Reg.REL_HOLE_LO (d % 64) s else dropBit Reg.REL_HOLE_HI (d % 64 - 32) s
  let s := setReg Reg.REL_FENCE_LIFT d (if stg s Reg.REL_FENCE_LIFT = d + 2 ^ 31 then setStg Reg.REL_FENCE_LIFT d s else s)
  writeGroups { s with fencedMore := s.fencedMore.filter (· != d) }

/-- The version that is not current is held no more, nor its lines and home maps (R156, R213). -/
def dropOld (s : State) : State :=
  let cur := curEpoch s
  let s := { s with ll := s.ll.filter (fun x => x.next || x.epoch == cur), homes := s.homes.filter (fun h => h.epoch == cur) }
  if cur then { s with verA := { s.verA with held := false } } else { s with verB := { s.verB with held := false } }

/-- The replica lines of a version go (R168). -/
def dropReplicas (ep : Bool) (s : State) : State := { s with ll := s.ll.filter (fun x => !(x.dir && lBits x.data 0 28 28 == 1 && x.epoch == ep)) }

/-- FLIP_GO: the prepared version is current (R213, R352). The old one stays held but at a slice that joins, and in a Benremin partition, which takes no part
in stage 4 (R215, R216). Replicas go when the replica slots change (R168). -/
def applyGo (ep : Bool) (s : State) : State :=
  if !(prep s) then staleFrame s else
  let m (o : Nat) : Nat := match regRow o with | some r => r.rws | none => 0
  let s := s.flip.taken.foldl (fun s e => setReg e.1 (Nat.lor (Nat.land (reg s e.1) (0xFFFFFFFF - m e.1)) e.2.toNat) s) s
  let two := !(benremin s && assigned s)
  let alone := s.flip.fresh && !(s.steps.any Step.live)
  let drop := slotsDiffer (verOf s ep) (verOf s (!ep)) || alone
  let s := setReg Reg.XCHG_FAB_EPOCH (b2n ep + b2n two * 2) s
  let s := mergeNext ep s
  let s := if drop then dropReplicas ep s else s
  let s := if two && !alone then s else dropOld s
  let s := match s.flip.lift with | some d => liftFence d s | none => s
  let gone := s.models.filter (fun x => x.leaving && !x.late)
  let live := (s.models.filter (fun x => !x.leaving)).map (fun x => { x with resident := true })
  let wait := (s.models.filter (fun x => x.late)).map (fun x => { x with late := false })
  let s := setReg Reg.PART_MODEL (maskOf (live.map Model.id)) { s with models := live ++ wait }
  let s := if gone.any (fun x => activeModel s == some x.id) then raiseBit Reg.PART_ACTIVE 4 s else s
  let s := { s with flip := { s.flip with taken := [], lift := none, fresh := false } }
  warmUp ep (logEpoch (writeGroups (rewritePcnt s)))

/-- FLIP_READY releases: the root sends FLIP_GO (R213). -/
def relFlipReady (_ : BarId) (_ : Nat) (_ : W64) (s : State) : State :=
  if flag s Reg.XCHG_BCN_ELECT 3 && prep s then
    let ep := s.flip.target
    applyGo ep (sendDown 3 (headOf 3 0x07 false true 1024 0 (b2n ep)) none s)
  else s

/-- FLIP_RETIRE releases: the old version and its lines are gone; the root starts a flip it kept a request for (R213, R214, R156). -/
def relFlipRetire (_ : BarId) (_ : Nat) (_ : W64) (s : State) : State :=
  let s := logEpoch (dropOld (dropBit Reg.XCHG_FAB_EPOCH 1 s))
  if flag s Reg.XCHG_BCN_ELECT 3 && s.flip.wanted then rootFlip s else s

/-- Stage 1 is complete: the tables are read, pinned lines are here, ownership is given back and every LL_WB acknowledged, no drain, no mismatch left (R213, R383). -/
def stage1Done (s : State) : Bool :=
  prep s && !s.flip.readyJoined && s.llReqs.all (fun r => !(r.own && !r.retry) && (r.own || r.epoch != s.flip.target || !r.pin))
    && !(s.ownAcks.any (fun a => a.1 == 6)) && !(readsOut s tableEng)
    && !(flag s Reg.XCHG_FAB_DRAIN 0) && !(flag s Reg.REL_STAT 8 && cfgMismatch s)

/-- The pod's flip barriers (R267). -/
def flipReadyId : BarId := { group := 1024, tag := 4, kgen := 0 }
def flipRetireId : BarId := { group := 1024, tag := 5, kgen := 0 }

/-- FLIP_STAGE1_DONE (R213). -/
def onStage1Done (s : State) : State :=
  if forwarding s && !fenced s && stage1Done s then
    joinLocal relFlipReady flipReadyId 15 false 0 { s with flip := { s.flip with readyJoined := true } }
  else s

/-- No step of the old epoch runs and none of its packets waits for an acknowledgement (R213). -/
def oldSettled (s : State) : Bool :=
  !(s.steps.any (fun x => x.live && x.epoch != curEpoch s)) && s.abortAcks.isEmpty
    && !(s.ownAcks.any (fun a => a.2.2 != curEpoch s))

/-- FLIP_RETIRE_JOIN (R213). -/
def onRetireJoin (s : State) : State :=
  if forwarding s && !fenced s && dual s && !s.flip.retireJoined && oldSettled s then
    joinLocal relFlipRetire flipRetireId 15 false 0 { s with flip := { s.flip with retireJoined := true } }
  else s

/-- DRAIN_TIMEOUT (R216). -/
def onDrainTimeout (s : State) : State := if keeperUp s && flag s Reg.XCHG_FAB_DRAIN 0 then raiseKill .drain none s else s

/-- DRAIN_DONE: the Benremin partition changes to the prepared version at once; its replicas go where its slots change (R168, R216). -/
def onDrainDone (s : State) : State :=
  if keeperUp s && flag s Reg.XCHG_FAB_DRAIN 0 && prep s && !(s.steps.any Step.live) && s.abortAcks.isEmpty && s.ownAcks.isEmpty && s.killDone then
    let ep := !(curEpoch s)
    let s := if slotsDiffer (verOf s ep) (verOf s (!ep)) then dropReplicas ep s else s
    rewritePcnt (setFld Reg.XCHG_FAB_EPOCH 0 0 (b2n ep) (dropBit Reg.XCHG_FAB_DRAIN 0 s))
  else s

/-- FLIP_STAGE1_DONE (R213). -/
def execFlipStage1Done (s : State) : Host.Outcome State Fault Refusal := finish (onStage1Done s)
/-- FLIP_RETIRE_JOIN (R213). -/
def execFlipRetireJoin (s : State) : Host.Outcome State Fault Refusal := finish (onRetireJoin s)
/-- DRAIN_TIMEOUT (R216). -/
def execDrainTimeout (s : State) : Host.Outcome State Fault Refusal := finish (onDrainTimeout s)
/-- DRAIN_DONE (R216). -/
def execDrainDone (s : State) : Host.Outcome State Fault Refusal := finish (onDrainDone s)

/-- FLIP_REQ_TIMER (R214): sent only once elected. -/
def execFlipReqTimer (s : State) : Host.Outcome State Fault Refusal :=
  finish (if keeperUp s && flag s Reg.XCHG_BCN_ELECT 2 && epochWork s then requestFlip (ownDa s) s else s)

end Sys2Proof.Machine
end

