-- ==== Sys2Proof/Machine/Reset.lean ====
section
/-! DEFINITION. Resets and wake sources, shared by the beacon, the mailbox and the power rows (spec/15 R398, R407, R408). -/

namespace Sys2Proof.Machine

/-- The kinds of reset (R398). -/
inductive ResetKind where
  | cold | warm | wake
deriving DecidableEq, Repr

/-- The AON registers a warm or wake reset keeps (R398): the margins' MIN, VOFS, WAKE_REASON, RESET_CAUSE; PWR_CFG after a wake. -/
def keptRegs (k : ResetKind) : List Nat :=
  if k = .cold then [] else
  (List.range 5).map Reg.REL_SND_M ++ [Reg.REL_SND_VOFS, Reg.REL_WAKE_REASON, Reg.REL_RESET_CAUSE]
    ++ (if k = .wake then [Reg.REL_PWR_CFG] else [])

/-- A kept register's value: of a margin register only MIN. -/
def keptValue (s : State) (off : Nat) : Nat :=
  if (List.range 5).any (fun i => Reg.REL_SND_M i == off) then setBits (reg s off) 7 0 0xFF else reg s off

/-- A reset: everything as at power-up but what the kind keeps, the die's memory outside the slice, the store, and the model's own fields (R398). -/
def resetTo (k : ResetKind) (s : State) : State :=
  let r := State.reset
  let r := (keptRegs k).foldl (fun t o => setStg o (if o = Reg.REL_SND_VOFS || o = Reg.REL_PWR_CFG then stg s o else 0) (setReg o (keptValue s o) t)) r
  let r := raiseBit Reg.REL_RESET_CAUSE (match k with | .cold => 0 | .warm => 1 | .wake => 2) r
  let r := if k = .wake then setFld Reg.REL_PWR_STAT 1 0 3 r else r
  let p := s.power
  { r with
    da := s.da, nvm := s.nvm, out := s.out, free := s.free, clock := s.clock, pending := s.pending
    mem := s.mem, poison := s.poison
    links := (s.links.filter (fun e => e.2.dark)).map (fun e => (e.1, { linkReset with dark := true }))
    power := { r.power with shadow := if k = .wake then p.shadow else [], poolBody := if k = .wake then p.poolBody else none,
                            waking := decide (k = .wake), vofsSet := decide (k ≠ .cold) && p.vofsSet, full := p.full, fwd := if k = .wake then p.fwd else [] } }

/-- Record a wake source (R407, R408). -/
def recordWake (w : Wake) (s : State) : State :=
  let s := raiseBit Reg.REL_WAKE_REASON w.bit s
  if w.bit = 1 then setFld Reg.REL_WAKE_REASON 15 12 w.link (setFld Reg.REL_WAKE_REASON 11 4 w.reason s) else s

/-- A wake reset started by a wake source (R407): FULL_BIST from a RESUME, else from PWR_CFG.WAKE_FULL. -/
def wakeReset (w : Wake) (s : State) : State :=
  let full := w.full.getD (flag s Reg.REL_PWR_CFG 0)
  let s := setFld Reg.REL_WAKE_REASON 16 16 (b2n full) (recordWake w s)
  resetTo .wake { s with power := { s.power with full := full } }

/-- A wake source in the state the slice is in: from IDLE the exit starts, from DARK the wake reset; while waking it is only recorded; on the way to
DARK it is held (R407, R408). -/
def wakeUp (w : Wake) (s : State) : State :=
  match s.power.susp with
  | .fencing => { s with power := { s.power with heldWakes := s.power.heldWakes ++ [w] } }
  | .draining => { s with power := { s.power with heldWakes := s.power.heldWakes ++ [w] } }
  | .leavingIdle _ => recordWake w s
  | .none =>
    if pwrState s = 1 then { recordWake w s with power := { s.power with susp := .leavingIdle none } }
    else if pwrState s = 2 then wakeReset w s
    else if pwrState s = 3 then recordWake w s
    else s

/-- The slice takes wake sources: it is not in RUN, or is on its way to DARK (R407, R408). -/
def sleepy (s : State) : Bool := decide (pwrState s ≠ 0) || decide (s.power.susp = .fencing) || decide (s.power.susp = .draining)

end Sys2Proof.Machine
end

