-- ==== Sys2Proof/Machine/Beacon.lean ====
section
/-! DEFINITION. The beacon rows: barriers, kills, fences, alarms, wakes, heartbeats, the election, discovery, and the link layer (spec/09
R258 to R277, R442, spec/07 R213 to R215, spec/14 R385, R386, R388). -/

namespace Sys2Proof.Machine

/-! ### Election and trees (R275, R388, R442) -/

/-- The device identity (R410). -/
def identity (s : State) : W64 := BitVec.ofNat 64 (reg64 s Reg.CORE_DEVID_LO)

/-- The tree whose root seat this slice is (R265, R388). -/
def seatTree (s : State) : Option Nat := (List.range 4).find? (fun r => bit (reg s (Reg.XCHG_BCN_TREE r)) 9)

/-- The election's state: 0 IDLE, 1 CLAIMING, 2 LOST, 3 DONE. -/
def electState (s : State) : Nat := fld s Reg.XCHG_BCN_ELECT 5 4

/-- Set the election's state. -/
def setElect (n : Nat) (s : State) : State := setFld Reg.XCHG_BCN_ELECT 5 4 n s

/-- A kill's or fence's sender tells every other tree slice: INFO FENCE for a DA goes towards the root (R386). -/
def fenceHead (down : Bool) (d : Nat) : Nat := headOf 3 0x09 false down (if Config.manyPods then 1025 else 1024) 0 d

/-- ELECT_DONE of a tree (R267). -/
def electId (r : Nat) : BarId := { group := 1024, tag := 7 + r * 2 ^ 3, kgen := 0 }

/-- ELECT_DONE releases: the election is complete (R275). -/
def relElect (_ : BarId) (_ : Nat) (_ : W64) (s : State) : State := writeGroups (raiseBit Reg.XCHG_BCN_ELECT 2 (setElect 3 s))

/-- Select a tree and record the root's identity (R275 step 4). -/
def selectTree (r : Nat) (id : W64) (s : State) : State :=
  let s := setReg Reg.XCHG_BCN_ROOT_HI (id.toNat / 2 ^ 32) (setReg Reg.XCHG_BCN_ROOT_LO (id.toNat % 2 ^ 32) s)
  let s := setFld Reg.XCHG_BCN_ELECT 1 0 r s
  let s := setFld Reg.XCHG_BCN_ELECT 3 3 (b2n (id == identity s && bit (reg s (Reg.XCHG_BCN_TREE r)) 9)) s
  writeGroups { s with elect := { s.elect with rootSeen := true, waitRoot := false } }

/-- Adopt a ROOT and join ELECT_DONE (R275 step 4); a claimant that adopts another's root has withdrawn. -/
def adoptRoot (r : Nat) (id : W64) (s : State) : State :=
  let s := selectTree r id s
  let s := if electState s = 1 ∧ id ≠ identity s then setElect 2 s else s
  joinLocal relElect (electId r) 15 false 0 s

/-- The slice sends ROOT for the tree whose seat it is and adopts it (R275 step 3, R388). -/
def becomeRoot (r : Nat) (s : State) : State := adoptRoot r (identity s) (sendAll 16 3 (headOf 3 0x03 true false 0 0 r) (some (identity s)) s)

/-- The slice becomes ready: the kept identity is cleared, and a candidate starts claiming (R275 step 1). -/
def startElection (s : State) : State :=
  let s := { s with elect := { s.elect with lowest := none } }
  if flag s Reg.XCHG_BCN_CFG 15 && (seatTree s).isSome && !s.elect.rootSeen then
    sendEvery 16 3 (headOf 3 0x02 true false 0 0 0) (some (identity s)) (setElect 1 s)
  else s

/-- Four dead trees: POD_BEACON_LOST, with the alarm output (R273, R388). -/
def podLost (s : State) : State :=
  let s := faultRec 0x88 17 (ownDa s) 0xF 0 noStep s
  raiseKill .memberLost none (sendAll 16 0 (headOf 0 0x01 false false 0 0 (ownDa s + 0x88 * 2 ^ 20)) none { s with alarm := true })

/-- The root is lost: select the lowest tree that is not dead; its seat sends ROOT, without claiming; the election is no longer DONE, the kept
identity is cleared, and another candidate starts claiming (R275, R388). -/
def nextTree (s : State) : State :=
  match (List.range 4).find? (fun r => !(flag s Reg.REL_TREE r)) with
  | none => podLost s
  | some r =>
    let s := setElect 0 (setFld Reg.XCHG_BCN_ELECT 3 0 r s)
    let s := { s with elect := { lowest := none, rootSeen := false, waitRoot := true } }
    if bit (reg s (Reg.XCHG_BCN_TREE r)) 9 then becomeRoot r s else startElection s

/-- TREE_CUT for a tree (R388). -/
def cutTree (r : Nat) (s : State) : State :=
  let s := raiseBit Reg.REL_TREE r s
  if fld s Reg.XCHG_BCN_ELECT 1 0 = r then nextTree s else s

/-! ### The outcome of a barrier, by its kind (R267) -/

/-- A RELEASE is delivered to the member. -/
def onRelease (id : BarId) (op : Nat) (v : W64) (s : State) : State :=
  match id.tag % 8 with
  | 0 => relRecover id op v s
  | 1 => relCount id op v s
  | 2 => relCommit id op v s
  | 3 => relReduce id op v s
  | 4 => relFlipReady id op v s
  | 5 => relFlipRetire id op v s
  | 6 => relKillDone id op v s
  | _ => relElect id op v s

/-- The KGEN a slice holds for a group: a member its partition's, any other its table entry's (R271). -/
def heldKgen (s : State) (g : Nat) : Nat := if assigned s && g == partId s then kgen s else (groupAt s g).kgen

/-- The barrier a SYNC frame names. -/
def frameBar (f : Frame) : BarId := { group := fGroup f, tag := fTag f, kgen := fKgen f }

/-- JOIN (R268): counted unless no member lies below, or its KGEN is an older one (R271). -/
def onJoin (l : Nat) (f : Frame) (s : State) : State :=
  let g := fGroup f
  let h := heldKgen s g
  if (groupAt s g).subtree = 0 || !(fKgen f == h || fKgen f == (h + 1) % 16) then staleFrame s
  else joinInst onRelease (frameBar f)
    { link := l, da := ((linkAt s l).neighbour).getD 0, op := fOp f, lanes := fLanes f, count := fCount f, pay := fPay f } s

/-- RELEASE (R268): stale without an open instance. -/
def onReleaseFrame (f : Frame) (s : State) : State :=
  match s.insts.find? (fun i => i.id == frameBar f) with
  | none => staleFrame s
  | some i => releaseInst onRelease i (fOp f) (fLanes f) (fCount f) (fPay f) s

/-- JOIN (R268). -/
def execJoin (link : Nat) (f : Frame) (s : State) : Host.Outcome State Fault Refusal :=
  finish (if fCls f = 1 && fTyp f = 1 then recvFrame link f false (onJoin link f) s else s)
/-- RELEASE (R268). -/
def execRelease (link : Nat) (f : Frame) (s : State) : Host.Outcome State Fault Refusal :=
  finish (if fCls f = 1 && fTyp f = 2 then recvFrame link f false (onReleaseFrame f) s else s)

/-! ### KILL (R271) -/

/-- Whether the member stands between the RELEASE of COMMIT_READY and its COMMIT (R293). -/
def committing (s : State) : Bool := s.steps.any (fun x => x.phase == .joined && x.released)

/-- A KILL with the next generation: applied, held until COMMIT, or only noted by a slice that is no member (R271, R293). -/
def takeKill (g kg : Nat) (s : State) : State :=
  if assigned s && g == partId s then
    if fenced s then setFld Reg.KEEP_KGEN 3 0 kg s
    else if committing s then { s with heldKg := some kg } else memberKill kg s
  else if s.groups.any (fun x => x.id == g) then { s with groups := s.groups.map (fun x => if x.id = g then { x with kgen := kg } else x) }
  else { s with groups := s.groups ++ [{ groupAt s g with kgen := kg }] }

/-- KILL: upward to the apex, which applies it first; every KILL going down closes the instances of another generation, then is judged (R271). -/
def onKill (f : Frame) (s : State) : State :=
  let g := fGroup f
  let kg := fKgen f
  let h := match (if assigned s && g == partId s then s.heldKg else none) with | some k => k | none => heldKgen s g
  let next := decide (kg = (h + 1) % 16)
  let down (s : State) : State := sendDown 3 (headOf 3 0x08 false true g kg 0) none s
  let dup (s : State) : State := raiseBit Reg.XCHG_BCN_STAT 7 (bump Reg.XCHG_BCN_STALE_CNT 1 s)
  let s := capBeacon f.head.toNat (fPay f) s
  if !(fDir f) then
    if !(groupAt s g).apex then sendUp 3 (headOf 3 0x08 false false g kg 0) none s
    else if next then takeKill g kg (down (closeInsts g kg s))
    else if kg = h then dup s else staleFrame s
  else
    let s := closeInsts g kg (down s)
    if next then takeKill g kg s else if kg = h then dup s else staleFrame s

/-- KILL_FRAME (R271). -/
def execKillFrame (link : Nat) (f : Frame) (s : State) : Host.Outcome State Fault Refusal :=
  finish (if fCls f = 3 && fTyp f = 8 then recvFrame link f false (onKill f) s else s)

/-! ### FENCE (R386) -/

/-- Judge every open instance again, oldest first. -/
def judgeAll (s : State) : State := (s.insts.map Inst.id).foldl (fun s id => judgeInst onRelease id s) s

/-- The first free place of the fence list. -/
def freeFence (s : State) : Option Nat := (List.range 16).find? (fun i => !(flag s (Reg.REL_FENCE i) 31))

/-- A queued packet goes to a DA, or finally to it (R386 step 4). -/
def boundFor (d : Nat) (p : Packet) : Bool := pDst p == d || (pTyp p == 1 && pTs p 28 19 0 == d)

/-- A member is lost: COMMIT_READY does not complete, which ends the hold of a kill of the steps that joined it; one whose RELEASE has come goes on to
its COMMIT (R235, R293; log entry 110). -/
def closeCommit (s : State) : State :=
  { s with insts := s.insts.filter (fun i => i.id.group != partId s || i.id.tag % 8 != 2)
           steps := s.steps.map (fun x => if x.phase == .joined && !x.released then { x with phase := .enqueued } else x) }

/-- The FENCE of another slice (R386). -/
def fenceOther (d : Nat) (s : State) : State :=
  if isFenced s d then s else
  let s := match freeFence s with
    | some i => setReg (Reg.REL_FENCE i) (d + 2 ^ 31) s
    | none => raiseBit Reg.REL_STAT 10 { s with fencedMore := s.fencedMore ++ [d] }
  let s := if d / 64 ≠ ownDa s / 64 then s
    else if d % 64 < 32 then raiseBit Reg.REL_HOLE_LO (d % 64) s else raiseBit Reg.REL_HOLE_HI (d % 64 - 32) s
  let s := setFld Reg.REL_RECOV 19 0 d (withdraw (fun p => !(boundFor d p)) (fun p => !(boundFor d p)) s)
  let s := writeGroups { s with recov := { s.recov with flipDue := true } }
  if assigned s && isMember s d && !(fenced s) then
    let s := faultRec 0x10 22 d (partId s) 0 noStep (raiseBit Reg.REL_STAT 14 (setFld Reg.REL_RECOV 21 20 1 s))
    judgeAll (raiseKill .memberLost none (closeCommit { s with recov := { s.recov with active := true } }))
  else judgeAll s

/-- The FENCE that names this slice puts it in the fenced state, unless it is going dark (R386, R406). -/
def applyFence (d : Nat) (s : State) : State :=
  if d = ownDa s then (match s.power.susp with | .fencing => s | .draining => s | _ => enterFenced s) else fenceOther d s

/-- Send a FENCE: the apex applies it and sends it down, any other slice sends it up (R386). -/
def sendFence (d : Nat) (s : State) : State :=
  if (groupAt s (if Config.manyPods then 1025 else 1024)).apex then applyFence d (sendDown 3 (fenceHead true d) none s)
  else sendUp 3 (fenceHead false d) none s

/-- FENCE travels to the apex and down every child link; every slice it goes down through applies it (R261, R386). -/
def onFence (f : Frame) (s : State) : State :=
  let d := fArg f 19 0
  let s := capBeacon f.head.toNat (fPay f) s
  if !(fDir f) && !(groupAt s (fGroup f)).apex then sendUp 3 (headOf 3 0x09 false false (fGroup f) 0 d) none s
  else applyFence d (sendDown 3 (headOf 3 0x09 false true (fGroup f) 0 d) none s)

/-- FENCE (R386). -/
def execFence (link : Nat) (f : Frame) (s : State) : Host.Outcome State Fault Refusal :=
  finish (if fCls f = 3 && fTyp f = 9 then recvFrame link f false (onFence f) s else s)

/-! ### ALARM and WAKE (R264, R272, R273, R407) -/

/-- A neighbour's loss that its Keeper learned of: FENCE, unless it is fenced already (R386 step 1). -/
def lossOf (d : Nat) (s : State) : State := if isFenced s d || fenced s || !(ready s) then s else sendFence d s

/-- A DA is the neighbour on some link. -/
def isNeighbour (s : State) (d : Nat) : Bool := s.links.any (fun e => e.2.neighbour == some d)

/-- Forward an ALARM on every other link unless it was forwarded within the last 1 ms (R273). -/
def floodAlarm (l : Nat) (f : Frame) (s : State) : State :=
  let key := fArg f 27 0
  if s.fogs.any (fun e => e.1 == key && decide (s.clock < e.2 + msTicks)) then s
  else sendAll l 0 (headOf 0 0x01 false false 0 0 key) none { s with fogs := (key, s.clock) :: s.fogs.filter (fun e => e.1 != key) }

/-- What an ALARM does in a slice that is awake (R273, R386, R388). -/
def onAlarm (l : Nat) (f : Frame) (s : State) : State :=
  let d := fArg f 19 0
  let code := fArg f 27 20
  let s := raiseBit Reg.XCHG_BCN_STAT 5 (setReg Reg.XCHG_BCN_FOG (fArg f 27 0) (capBeacon f.head.toNat 0 s))
  let s := floodAlarm l f s
  if 0xA0 ≤ code ∧ code ≤ 0xA3 then cutTree (code - 0xA0) s
  else if 0x80 ≤ code && isNeighbour s d then lossOf d s else s

/-- ALARM: a wake source for a slice not in RUN, which forwards it once it is awake (R264, R273, R407). -/
def alarmFrame (l : Nat) (f : Frame) (s : State) : State :=
  let w : Wake := { bit := 2, reason := 0, link := l, full := none, reply := none }
  if pwrState s = 2 then wakeUp w { s with power := { s.power with fwd := s.power.fwd ++ [(l, f)] } }
  else onAlarm l f (if sleepy s then wakeUp w s else s)

/-- ALARM (R273). -/
def execAlarm (link : Nat) (f : Frame) (s : State) : Host.Outcome State Fault Refusal :=
  finish (if fCls f = 0 && fTyp f = 1 then recvFrame link f true (alarmFrame link f) s else s)

/-- A WAKE travels up to the apex, then down every child link, with its group's KGEN (R260, R261). -/
def passWake (f : Frame) (s : State) : State :=
  let s := capBeacon f.head.toNat 0 s
  if !(fDir f) && !(groupAt s (fGroup f)).apex then sendUp 2 (headOf 2 0x01 false false (fGroup f) (fKgen f) (fArg f 27 0)) none s
  else sendDown 2 (headOf 2 0x01 false true (fGroup f) (fKgen f) (fArg f 27 0)) none s

/-- WAKE: a wake source in any state other than RUN, whether or not it names the slice; stale during a bring-up that no wake started
(R264, R400, R407). -/
def wakeFrame (l : Nat) (f : Frame) (s : State) : State :=
  let w : Wake := { bit := 1, reason := fArg f 27 20, link := l, full := none, reply := none }
  if pwrState s = 2 then wakeUp w { s with power := { s.power with fwd := s.power.fwd ++ [(l, f)] } }
  else if pwrState s = 3 then wakeUp w s
  else if !(ready s) then staleFrame s
  else passWake f (if sleepy s then wakeUp w s else s)

/-- WAKE (R264). -/
def execWake (link : Nat) (f : Frame) (s : State) : Host.Outcome State Fault Refusal :=
  finish (if fCls f = 2 && fTyp f = 1 then recvFrame link f true (wakeFrame link f) s else s)

/-- Frames held while the slice was dark are forwarded once it is awake (R264). -/
def forwardHeld (s : State) : State :=
  s.power.fwd.foldl (fun s e => if fCls e.2 = 0 then onAlarm e.1 e.2 s else passWake e.2 s) { s with power := { s.power with fwd := [] } }

/-! ### Heartbeats (R272, R403, R442) -/

/-- The ROOT a slice in DONE answers with, at most once per link per 100 µs (R442). -/
def answerRoot (l : Nat) (s : State) : State :=
  let k := linkAt s l
  if electState s ≠ 3 || !(mayAgain k.answeredRoot s) then s
  else sendFrame l 3 (headOf 3 0x03 true false 0 0 (fld s Reg.XCHG_BCN_ELECT 1 0 + 4)) (some (BitVec.ofNat 64 (reg64 s Reg.XCHG_BCN_ROOT_LO)))
    (setLink l { k with answeredRoot := some s.clock } s)

/-- HEARTBEAT (R272, R403, R442). -/
def onHeartbeat (l : Nat) (f : Frame) (s : State) : State :=
  let s := setLink l { linkAt s l with neighbour := some (fArg f 19 0), monitored := true, heard := true, missed := 0 } s
  let s := dropBit Reg.XCHG_BCN_HB_LOST l s
  if ready s && fArg f 22 22 = 0 then answerRoot l s else s

/-- HEARTBEAT (R272). -/
def execHeartbeat (link : Nat) (f : Frame) (s : State) : Host.Outcome State Fault Refusal :=
  finish (if fCls f = 3 && fTyp f = 1 then recvFrame link f true (onHeartbeat link f) s else s)

/-- The links a HEARTBEAT goes out on: parent and children once elected, every link that is up before (R272). -/
def beatLinks (s : State) : List Nat :=
  if flag s Reg.XCHG_BCN_ELECT 2 then (match upLink s with | some l => l :: childLinks s | none => childLinks s)
  else (List.range 16).filter (linkUp s)

/-- The parent in the tree in use is lost: parent link, and the spare where it is wired, report HB_MISS (R388). -/
def parentLost (s : State) : Bool :=
  let t := treeReg s
  let lost (l : Nat) : Bool := flag s Reg.XCHG_BCN_HB_LOST l
  flag s Reg.XCHG_BCN_ELECT 2 && !(bit t 9) && lost (bits t 3 0) && (!(bit t 8) || lost (bits t 7 4))

/-- The neighbour's HEARTBEATs still come on another link, as a parent's do on the spare: it is not lost (R265, R272; DEDUCED, log entry 71). -/
def heardElse (l d : Nat) (s : State) : Bool :=
  s.links.any (fun e => e.1 != l && e.2.neighbour == some d && e.2.monitored && !(flag s Reg.XCHG_BCN_HB_LOST e.1))

/-- A period on one link: heard, or one more missed; at HB_MISS the neighbour is reported and its loss handled (R272, R386). -/
def countMiss (l : Nat) (s : State) : State :=
  let k := linkAt s l
  if !k.monitored || k.dark then s
  else if k.heard then setLink l { k with heard := false, missed := 0 } s
  else
    let s := setLink l { k with missed := k.missed + 1 } s
    if k.missed + 1 < fld s Reg.XCHG_BCN_CFG 10 8 || flag s Reg.XCHG_BCN_HB_LOST l then s
    else
      let s := raiseBit Reg.XCHG_BCN_STAT 4 (raiseBit Reg.XCHG_BCN_HB_LOST l s)
      match k.neighbour with
      | some d => if heardElse l d s then s else lossOf d s
      | none => s

/-- TREE_CUT raised by a slice whose parent is lost, with its alarm output (R273, R388). -/
def treeCut (s : State) : State :=
  let r := fld s Reg.XCHG_BCN_ELECT 1 0
  if !(parentLost s) || flag s Reg.REL_TREE r || !(ready s) then s else
  let d := ((linkAt s (bits (treeReg s) 3 0)).neighbour).getD 0
  let s := faultRec (0xA0 + r) 22 d r 0 noStep s
  cutTree r (sendAll 16 0 (headOf 0 0x01 false false 0 0 (d + (0xA0 + r) * 2 ^ 20)) none { s with alarm := true })

/-- HEARTBEAT_PERIOD (R272): the slice's own HEARTBEATs, and one period on every link. -/
def onPeriod (s : State) : State :=
  if !(bcnTx s) then s else
  let arg := ownDa s + fld s Reg.XCHG_BCN_ELECT 1 0 * 2 ^ 20 + fld s Reg.XCHG_BCN_ELECT 2 2 * 2 ^ 22
  let s := (beatLinks s).foldl (fun s l => sendFrame l 3 (headOf 3 0x01 false false 0 0 arg) none s) s
  let s := (List.range 16).foldl (fun s l => countMiss l s) s
  treeCut s

/-- HEARTBEAT_PERIOD (R272). -/
def execHeartbeatPeriod (s : State) : Host.Outcome State Fault Refusal := finish (onPeriod s)

/-! ### The election's rows (R275, R388, R442) -/

/-- CLAIM (R275 step 2, R442). Frames carry no source: whether a claimant's own identity comes back to it or comes from another source with the same
one is a free value, and only the second is a duplicate that withdraws it (log entry 30). -/
def onClaim (l : Nat) (f : Frame) (s : State) : State :=
  let id := fPay f
  if electState s = 3 then answerRoot l s
  else if s.elect.rootSeen then s
  else
    let s := if electState s = 1 && id == identity s then (if bit (fresh s).toNat 0 then raiseBit Reg.XCHG_BCN_STAT 8 (setElect 2 (tick s)) else tick s) else s
    let lower := match s.elect.lowest with | none => true | some x => decide (id.toNat < x.toNat)
    if !lower then s else
    let s := { s with elect := { s.elect with lowest := some id } }
    let s := if electState s = 1 && decide (id.toNat < (identity s).toNat) then setElect 2 s else s
    sendEvery l 3 (headOf 3 0x02 true false 0 0 0) (some id) s

/-- CLAIM (R275). -/
def execClaim (link : Nat) (f : Frame) (s : State) : Host.Outcome State Fault Refusal :=
  finish (if fCls f = 3 && fTyp f = 2 then recvFrame link f false (onClaim link f) s else s)

/-- ROOT (R275 step 4, R442). -/
def onRoot (l : Nat) (f : Frame) (s : State) : State :=
  let r := fArg f 1 0
  let id := fPay f
  let s := capBeacon f.head.toNat (fPay f) s
  if fArg f 2 2 = 1 then
    if electState s = 3 then s else writeGroups (raiseBit Reg.XCHG_BCN_ELECT 2 (setElect 3 (selectTree r id s)))
  else if s.elect.rootSeen && decide (reg64 s Reg.XCHG_BCN_ROOT_LO = id.toNat) then s
  else adoptRoot r id (sendAll l 3 (headOf 3 0x03 true false 0 0 r) (some id) s)

/-- ROOT (R275). -/
def execRoot (link : Nat) (f : Frame) (s : State) : Host.Outcome State Fault Refusal :=
  finish (if fCls f = 3 && fTyp f = 3 then recvFrame link f false (onRoot link f) s else s)

/-- ELECT_SETTLE (R275 step 3). -/
def onSettle (s : State) : State :=
  match seatTree s with
  | some r => if forwarding s && electState s = 1 && !s.elect.rootSeen then becomeRoot r s else s
  | none => s

/-- ELECT_SETTLE (R275). -/
def execElectSettle (s : State) : Host.Outcome State Fault Refusal := finish (onSettle s)

/-- TREE_ROOT_TIMEOUT (R388). -/
def execTreeRootTimeout (s : State) : Host.Outcome State Fault Refusal :=
  finish (if forwarding s && s.elect.waitRoot then nextTree (raiseBit Reg.REL_TREE (fld s Reg.XCHG_BCN_ELECT 1 0) s) else s)

/-! ### Discovery (R274) -/

/-- The DISCOVER_REPLY of a link. -/
def sendReply (l : Nat) (s : State) : State :=
  sendFrame l 3 (headOf 3 0x05 true false 0 0 (ownDa s)) (some (identity s)) (setLink l { linkAt s l with replied := some s.clock, discovered := false } s)

/-- DISCOVER: recorded before readiness, answered after it at most once per 100 µs (R274, R400). -/
def onDiscover (l : Nat) (f : Frame) (s : State) : State :=
  let k := linkAt s l
  let s := setLink l { k with neighbour := some (fArg f 19 0) } s
  if !(ready s) then setLink l { linkAt s l with discovered := true } s
  else if mayAgain k.replied s then sendReply l s else s

/-- DISCOVER (R274). -/
def execDiscover (link : Nat) (f : Frame) (s : State) : Host.Outcome State Fault Refusal :=
  finish (if fCls f = 3 && fTyp f = 4 then recvFrame link f true (onDiscover link f) s else s)

/-- DISCOVER_REPLY (R261). -/
def execDiscoverReply (link : Nat) (f : Frame) (s : State) : Host.Outcome State Fault Refusal :=
  finish (if fCls f = 3 && fTyp f = 5 then
    recvFrame link f false (fun s => setLink link { linkAt s link with neighbour := some (fArg f 19 0), identity := fPay f } s) s else s)

/-! ### Flip frames (R213, R214) -/

/-- FLIP_REQ: towards the root, which starts a flip when none is under way and keeps the request otherwise (R214). -/
def execFlipReq (link : Nat) (f : Frame) (s : State) : Host.Outcome State Fault Refusal :=
  finish (if fCls f = 3 && fTyp f = 0xA then recvFrame link f false (fun s => if fenced s then sendUp 3 (headOf 3 0x0A false false 1024 0 (fArg f 19 0)) none s else requestFlip (fArg f 19 0) s) s else s)

/-- FLIP_PREP goes down every child link and starts stage 1 (R213). -/
def execFlipPrep (link : Nat) (f : Frame) (s : State) : Host.Outcome State Fault Refusal :=
  finish (if fCls f = 3 && fTyp f = 6 then recvFrame link f false (fun s =>
    let s := sendDown 3 (headOf 3 0x06 false true 1024 0 (fArg f 0 0)) none (capBeacon f.head.toNat 0 s)
    if fenced s then s else startPrep (fArg f 0 0 == 1) s) s else s)

/-- FLIP_GO goes down every child link and makes the version current (R213). -/
def execFlipGo (link : Nat) (f : Frame) (s : State) : Host.Outcome State Fault Refusal :=
  finish (if fCls f = 3 && fTyp f = 7 then recvFrame link f false (fun s =>
    let s := sendDown 3 (headOf 3 0x07 false true 1024 0 (fArg f 0 0)) none (capBeacon f.head.toNat 0 s)
    if fenced s then s else applyGo (fArg f 0 0 == 1) s) s else s)

/-- WARM_DONE of a cluster; after the last the member joins RECOVER (R390). -/
def execWarmDone (cluster : Nat) (s : State) : Host.Outcome State Fault Refusal :=
  finish (if keeperUp s && s.recov.warm.contains cluster then
    joinRecover { s with recov := { s.recov with warm := s.recov.warm.filter (· != cluster) } } else s)

/-! ### The link layer (R262 to R265) -/

/-- BEACON_FRAME_ACK: the class's frame is acknowledged and the next one goes (R263). -/
def onFrameAck (l cls : Nat) (s : State) : State :=
  if !s.powered || s.power.clkStopped then s else
  let k := linkAt s l
  if !(k.tx.any (fun t => t.cls == cls && t.sent)) then s
  else pumpClass l cls (setFld Reg.XCHG_BCN_LINK l l 1 (setLink l { k with up := true, tx := dropFirst (fun t => t.cls == cls && t.sent) k.tx } s))

/-- BEACON_FRAME_ACK (R263). -/
def execBeaconFrameAck (link cls : Nat) (s : State) : Host.Outcome State Fault Refusal := finish (onFrameAck link cls s)

/-- The Keeper kills the steps of every other partition whose tree path goes up through this slice: a KILL with the next generation towards the
apex (R265, R271; DEDUCED, log entry 70). -/
def killOthers (s : State) : State :=
  let gs := s.groups.filter (fun g => decide (g.id < 1024) && !(assigned s && g.id == partId s) && decide (0 < g.subtree) && !g.apex)
  gs.foldl (fun s g => sendUp 3 (headOf 3 0x08 false false g.id ((g.kgen + 1) % 16) 0) none s) s

/-- A link fails (R263): the parent's traffic moves to the spare and the steps are killed; without a spare the slice is lost (R265, R384). -/
def linkFail (l : Nat) (s : State) : State :=
  let t := treeReg s
  let was := upLink s
  let waiting := (linkAt s l).tx
  let s := raiseBit Reg.XCHG_BCN_STAT 2 (raiseBit Reg.XCHG_BCN_LINK (16 + l) s)
  let s := setLink l { linkAt s l with tx := [] } s
  if was ≠ some l then s
  else if l = bits t 3 0 && bit t 8 && !(linkFailed s (bits t 7 4)) then
    let sp := bits t 7 4
    let s := waiting.foldl (fun s x => sendFrame sp x.cls (setBits x.frame.head.toNat 3 3 0) (if fPld x.frame then some x.frame.pay else none) s) s
    let s := faultRec 0x0B 17 (ownDa s) l 0 noStep (raiseBit Reg.XCHG_BCN_STAT 3 s)
    let s := killOthers s
    if fenced s then s else raiseKill .unitFailure none s
  else ownLoss 0x84 17 l 0 s

/-- BEACON_RESEND: the frame goes again; after RETRY_MAX resends the link is failed (R263, R264). -/
def onResend (l cls : Nat) (s : State) : State :=
  if !(bcnTx s) || linkFailed s l then s else
  let k := linkAt s l
  match k.tx.find? (fun t => t.cls == cls && t.sent) with
  | none => s
  | some t =>
    if k.dark && cls != 0 && cls != 2 then raiseBit Reg.XCHG_BCN_STAT 9 s
    else if fld s Reg.XCHG_BCN_CFG 14 11 ≤ t.resends then linkFail l s
    else emit (.frame l (frameBeats s t.frame)) (bump Reg.XCHG_BCN_RETRY_CNT 1
      (setLink l { k with tx := modFirst (fun t => t.cls == cls && t.sent) (fun t => { t with resends := t.resends + 1 }) k.tx } s))

/-- BEACON_RESEND (R263). -/
def execBeaconResend (link cls : Nat) (s : State) : Host.Outcome State Fault Refusal := finish (onResend link cls s)

/-- DARK_SIDEBAND_CHANGE: frames are held, or go again; monitoring waits for the next HEARTBEAT (R264, R403). -/
def onDark (l : Nat) (dark : Bool) (s : State) : State :=
  if !s.powered then s else
  let k := linkAt s l
  let s := setLink l { k with dark := dark, monitored := if dark then k.monitored else false, heard := false, missed := 0 } s
  if dark || !(bcnTx s) then s else (List.range 4).foldl (fun s c => pumpClass l c s) s

/-- DARK_SIDEBAND_CHANGE (R264). -/
def execDarkSidebandChange (link : Nat) (dark : Bool) (s : State) : Host.Outcome State Fault Refusal := finish (onDark link dark s)

/-- The frame types the slice accepts (R261). -/
def listedFrame (f : Frame) : Bool :=
  match fCls f with
  | 0 => fTyp f == 1
  | 1 => fTyp f == 1 || fTyp f == 2
  | 2 => fTyp f == 1
  | _ => decide (1 ≤ fTyp f) && decide (fTyp f ≤ 0xA)

/-- UNLISTED_BEACON_FRAME (R261): acknowledged, discarded, counted; the count alone, no status bit is named (R261). -/
def execUnlistedBeaconFrame (link : Nat) (f : Frame) (s : State) : Host.Outcome State Fault Refusal :=
  finish (if listedFrame f then s else recvFrame link f true (fun s => bump Reg.XCHG_BCN_STALE_CNT 1 s) s)

end Sys2Proof.Machine
end

