-- ==== Sys2Proof/Machine/Capture.lean ====
section
/-! DEFINITION. The record/replay unit: the state digest, the start and the end of capture, copying to the ring, and the supply of a replay
stream (spec/13 R364 to R372). -/

namespace Sys2Proof.Machine

/-! ### The state digest (R370) -/

/-- The STEP_SEQ of the next step: the oldest accepted one not yet enqueued, else the next number (R364). -/
def nextStep (s : State) : W32 := match s.steps.find? (fun x => x.phase == .accepted) with | some x => x.seq | none => s.nextSeq

/-- The BYTES_OUT region of a model: its bias vectors and window accumulators (R353, R370; log entry 10). -/
def outBytes (s : State) (h : BitVec 1024) : List Byte :=
  let l := Config.packOut h (s.loops.map (fun x => (x.layer, x.acc, x.steps, x.bias))) (rd8 s)
  let n := hdrAt h 20 4
  l.take n ++ List.replicate (n - l.length) 0

/-- The bytes the state digest covers (R370). -/
def digestBytes (s : State) : List Byte :=
  let slots := (verOf s (curEpoch s)).rs
  leBytes 1 (kgen s) ++ leBytes 4 (nextStep s).toNat ++ leBytes 1 ((activeModel s).getD 0xFF)
    ++ (List.range 64).flatMap (fun e => leBytes 8 (cellGet (fun _ => 0) s.pub e))
    ++ (List.range slots).flatMap (fun i => leBytes 32 (match residentIn s i with | some l => l.toNat | none => 0))
    ++ (match (activeModel s).bind (modelHdr s) with | some h => outBytes s h | none => [])

/-- The state digest of R370. -/
def stateDigest (s : State) : Nat := (crc32c (digestBytes s)).toNat

/-! ### Capture: start, stop and the ring (R364, R368) -/

/-- Bytes written to the ring, or consumed from it. -/
def capDone (s : State) : Nat := reg64 s Reg.PART_CAP_DONE_LO

/-- Free bytes of the ring (R368). -/
def ringFree (s : State) : Nat := s.cap.ringSize - (capDone s - s.cap.sw.toNat)

/-- HOLD of a capture follows the ring's free space until the last record is copied, also when the capture was asked to stop or ended incomplete
(R368). -/
def capMargin (s : State) : State :=
  if capMode s = 1 ∨ (capMode s = 0 ∧ (s.cap.stop.isSome ∨ !s.cap.bufs.isEmpty)) then
    setFld Reg.PART_CAP_STAT 2 2 (b2n (decide (ringFree s < fld s Reg.PART_CAP_MARGIN 15 0 * 0x10000))) s
  else s

/-- The TDC source counts from which a COMMIT record counts (R366). -/
def markTdc (s : State) : State := { s with cap := { s.cap with tdcAt := (List.range 6).map (fun i => (reg s (Reg.PART_TDC_SRC i) : Int)) } }

/-- A capture that was requested starts: no step is enqueued, the START record is written, MODE = 1, the reply is queued (R364, R366). -/
def capStart (s : State) : State :=
  if capMode s ≠ 3 ∨ s.steps.any (fun x => x.phase != .accepted) then s else
  match s.cap.start with
  | none => s
  | some r =>
    let q := nextStep s
    let flags := b2n s.cap.digest + b2n (flag s Reg.PART_DET_CTL 0) * 2
    let b := leBytes 4 (stateDigest s) ++ leBytes 4 (kgen s) ++ leBytes 4 q.toNat ++ leBytes 4 flags
    let s := setReg Reg.PART_CAP_SEQNO 0 (setFld Reg.PART_CAP_STAT 1 0 1 { s with cap := { s.cap with start := none } })
    capMargin (queueReply { r with r0 := q } (capPush 1 0 false q.toNat b (markTdc s)))

/-- The end of a capture that was asked to stop, once every accepted step has ended: the STOP record (R364, R366). -/
def capStop (s : State) : State :=
  if capMode s ≠ 1 ∨ s.cap.stop.isNone ∨ !s.steps.isEmpty then s else
  setFld Reg.PART_CAP_STAT 1 0 0 (setFld Reg.PART_CAP_STAT 3 3 0 (capPush 2 0 false (nextStep s).toNat (leBytes 8 (reg64 s Reg.PART_TDC_LO)) s))

/-- The capture is over and copied: its buffers return, and a STOP is answered with the bytes written (R364). -/
def capEnd (s : State) : State :=
  if capMode s ≠ 0 ∨ !s.cap.staged.isEmpty ∨ s.cap.bufs.isEmpty then s else
  let done := capDone s
  let s1 := dropBit Reg.PART_CAP_STAT 2 (freeBufs s.cap.bufs { s with cap := { s.cap with bufs := [], stop := none, sent := 0, keepUsed := 0 } })
  match s.cap.stop with
  | none => s1
  | some r => queueReply { r with r0 := BitVec.ofNat 32 done, r1 := BitVec.ofNat 32 (done / 2 ^ 32) } s1

/-- Drop the records wholly copied: what is left, and the bytes of its first record already copied. -/
def dropCopied : Nat → List (List Byte) → Nat × List (List Byte)
  | n, [] => (n, [])
  | n, r :: t => if r.length ≤ n then dropCopied (n - r.length) t else (n, r :: t)

/-- Write bytes into the ring from a stream position on, continuing at RING_BASE at its end; the MEM bucket is charged (R344, R365). -/
def ringWrite (pos : Nat) (l : List Byte) (s : State) : State :=
  let s := chargeMem (dieCells s ((List.range l.length).map (fun i => s.cap.ringBase + (pos + i) % (max 1 s.cap.ringSize)))) s
  (withIdx 0 l).foldl (fun s e => wr8 (s.cap.ringBase + (pos + e.1) % (max 1 s.cap.ringSize)) e.2 s) s

/-- Copy staged records into the ring's free space (R368). -/
def ringCopy (s : State) : State :=
  if capMode s = 2 ∨ s.cap.bufs.isEmpty then s else
  let l := ((s.cap.staged.flatten).drop s.cap.sent).take (ringFree s)
  let p := capDone s
  let left := dropCopied (s.cap.sent + l.length) s.cap.staged
  let s := ringWrite p l s
  let s := bump64 Reg.PART_CAP_DONE_LO l.length s
  let keep := ((left.2.filter (fun r => capKeeps (leAt r 0 1))).map List.length).foldl (· + ·) 0
  let s := { s with cap := { s.cap with staged := left.2, sent := left.1, keepUsed := keep } }
  capEnd (capMargin (capCred s))

/-! ### Replay: the stream (R370, R371) -/

/-- The byte of the ring at a stream position. -/
def ringByte (s : State) (pos : Nat) : Byte := rd8 s (s.cap.ringBase + pos % (max 1 s.cap.ringSize))

/-- Where n bytes of the stream from a position on stand: they go on at RING_BASE at the ring's end (R365). -/
def ringRanges (s : State) (pos n : Nat) : List (Addr × Nat) :=
  let size := max 1 s.cap.ringSize
  let k := min n (size - pos % size)
  [(s.cap.ringBase + pos % size, k)] ++ (if n ≤ k then [] else [(s.cap.ringBase, n - k)])

/-- Bytes of the ring from a stream position on. -/
def ringRead (s : State) (pos n : Nat) : List Byte := (List.range n).map (fun i => ringByte s (pos + i))

/-- The whole records supplied from a stream position on; k bounds their number. -/
def ringRecords (s : State) : Nat → Nat → Nat → List (List Byte)
  | 0, _, _ => []
  | k + 1, pos, top =>
    if top < pos + 16 then [] else
    let n := 16 + 16 * leNat (ringRead s (pos + 2) 2)
    if top < pos + n then [] else ringRead s pos n :: ringRecords s k (pos + n) top

/-- Apply what the stream's front imposes: a captured KILL when it is reached; records that nothing compares go by (R371). -/
def repImpose : Nat → State → State
  | 0, s => s
  | k + 1, s =>
    match s.cap.staged with
    | [] => s
    | r :: _ =>
      let next (s : State) : State := { s with cap := { s.cap with staged := s.cap.staged.drop 1 } }
      let head := leAt r 16 8
      if repKill r then
        let kg := bits head 25 22
        repImpose k (if kg = (kgen s + 1) % 16 ∧ bits head 21 11 = partId s then next (memberKill kg s) else next s)
      else if (leAt r 0 1 = 9 ∧ !(repIs 9 r)) ∨ leAt r 0 1 = 1 ∨ leAt r 0 1 = 2 then repImpose k (next s)
      else s

/-- The stream moves on: what its front imposes, and STARVE when nothing is left (R371). -/
def repAdvance (s : State) : State := if capMode s = 2 then repStarve (repImpose s.cap.staged.length s) else s

/-- Read the records supplied since the last time; STARVE ends, and the hold with it unless a difference holds the partition (R371, R372). -/
def repSupply (s : State) : State :=
  if capMode s ≠ 2 then s else
  let pos := capDone s
  let rs := ringRecords s ((s.cap.sw.toNat - pos) / 16) pos s.cap.sw.toNat
  if rs.isEmpty then s else
  let s := keeperRead (ringRanges s pos rs.flatten.length) s
  let s := bump64 Reg.PART_CAP_DONE_LO rs.flatten.length { s with cap := { s.cap with staged := s.cap.staged ++ rs } }
  repAdvance (repCompareWaiting (setFld Reg.PART_CAP_STAT 2 2 (b2n s.cap.divSeq.isSome) (dropBit Reg.PART_CAP_STAT 6 s)))

/-- Replay starts: the START record is consumed and gives DIG_EN and DLB_EN (R370, R371). -/
def repStart (s : State) : State :=
  let first := ringRead s 0 32
  let flags := leAt first 28 1
  let s := setReg Reg.PART_CAP_DONE_HI 0 (setReg Reg.PART_CAP_DONE_LO first.length s)
  let s := setFld Reg.PART_CAP_STAT 1 0 2 s
  repStarve (repSupply (markTdc { s with cap := { s.cap with digest := bit flags 0, dlb := bit flags 1, staged := [], divSeq := none, workPos := 0, arr := [], waiting := [] } }))

/-- Replay ends; what waited for its captured place is placed at the next tick (R371, R372; log entry 97). -/
def repStop (s : State) : State :=
  let s := freeBufs s.cap.bufs { s with cap := { s.cap with bufs := [], staged := [], divSeq := none, workPos := 0, arr := [], waiting := [] } }
  dropBit Reg.PART_CAP_STAT 6 (dropBit Reg.PART_CAP_STAT 2 (setFld Reg.PART_CAP_STAT 1 0 0 s))

/-! ### The commands -/

/-- CAPTURE_START_APPLY. -/
def execCaptureStartApply (s : State) : Host.Outcome State Fault Refusal := finish (if keeperUp s then capStart s else s)
/-- CAPTURE_STOP_APPLY. -/
def execCaptureStopApply (s : State) : Host.Outcome State Fault Refusal := finish (if keeperUp s then capStop s else s)
/-- CAPTURE_RING_COPY. -/
def execCaptureRingCopy (s : State) : Host.Outcome State Fault Refusal := finish (if keeperUp s then ringCopy s else s)

/-- A write of CAP_SW_HI: the count of bytes consumed or supplied takes effect (R368, R371, R373). -/
def capSw (v : W32) (s : State) : State :=
  let s := setReg Reg.PART_CAP_SW_HI v.toNat s
  let s := { s with cap := { s.cap with sw := BitVec.ofNat 64 (reg64 s Reg.PART_CAP_SW_LO) } }
  if capMode s = 2 then repSupply s else capMargin s

end Sys2Proof.Machine
end

