-- ==== Sys2Proof/Machine/Sfu.lean ====
section
/-! DEFINITION. The special-function unit: kernels, exact rounding, row statistics, RENORM, Benremin mode (spec/04). -/

namespace Sys2Proof.Machine

/-! ### Exact dyadic reals (R107) -/

/-- The real n × 2^e. -/
structure Dy where
  n : Int
  e : Int
deriving DecidableEq, Repr

def dyMul (a b : Dy) : Dy := { n := a.n * b.n, e := a.e + b.e }
def dyNeg (a : Dy) : Dy := { n := -a.n, e := a.e }
def dyAdd (a b : Dy) : Dy :=
  let lo := min a.e b.e
  { n := a.n * 2 ^ (a.e - lo).toNat + b.n * 2 ^ (b.e - lo).toNat, e := lo }
def dySub (a b : Dy) : Dy := dyAdd a (dyNeg b)
def dyInt (n : Int) : Dy := { n := n, e := 0 }
/-- Times an integer. -/
def dyTimes (k : Int) (a : Dy) : Dy := { n := k * a.n, e := a.e }
/-- Times 2^k. -/
def dyShift (k : Int) (a : Dy) : Dy := { n := a.n, e := a.e + k }
def dyFloor (a : Dy) : Int := if 0 ≤ a.e then a.n * 2 ^ a.e.toNat else a.n / 2 ^ (-a.e).toNat
def dyLt (a b : Dy) : Bool := decide ((dySub a b).n < 0)
/-- The finite value of a dyadic real. -/
def dyVal (a : Dy) : Val := ofInt a.n a.e
/-- The real of a finite value; 0 for any other. -/
def valDy : Val → Dy
  | .fin neg m e => { n := if neg then -(m : Int) else m, e := e }
  | _ => { n := 0, e := 0 }

/-- (a / d) truncated toward zero to p significant bits (R107: q at p = 48). -/
def truncTo (p : Nat) (a : Dy) (d : Nat) : Dy :=
  let m := a.n.natAbs
  if m = 0 then { n := 0, e := 0 } else
  let s := p + 2 + Nat.log2 d - min (p + 1 + Nat.log2 d) (Nat.log2 m)
  let v := m * 2 ^ s / d
  let k := Nat.log2 v + 1 - p
  let r : Int := ((v / 2 ^ k : Nat) : Int)
  { n := if a.n < 0 then -r else r, e := a.e - (s : Int) + (k : Int) }

/-- (m, e) with x = m × 2^e and 1 ≤ m < 2, for x > 0 (R107). -/
def dySplit (x : Dy) : Dy × Int :=
  let t : Int := (Nat.log2 x.n.natAbs : Int) + x.e
  ({ n := x.n, e := x.e - t }, t)

/-- rn64(log2 e) and rn64(ln 2) (R107). -/
def dyLog2e : Dy := { n := 0xB8AA3B295C17F0BC, e := -63 }
def dyLn2 : Dy := { n := 0xB17217F7D1CF79AC, e := -64 }

/-! ### High-precision functions, in units of 2^-400 -/

def hpP : Nat := 400

/-- Sum of t^(2j+1)/(2j+1) from term j on. -/
def atanhSum (t2 : Nat) : Nat → Nat → Nat → Nat
  | 0, _, _ => 0
  | k + 1, j, t => t / (2 * j + 1) + atanhSum t2 k (j + 1) (t * t2 / 2 ^ hpP)

/-- ln(a / b) for b ≤ a ≤ 2b. -/
def hpLnRatio (a b : Nat) : Nat :=
  let t := (a - b) * 2 ^ hpP / (a + b)
  2 * atanhSum (t * t / 2 ^ hpP) 130 0 t

/-- ln 2. -/
def hpLn2 : Nat := hpLnRatio 2 1

/-- ln x for x > 0. -/
def hpLn (x : Dy) : Int :=
  let k := Nat.log2 x.n.natAbs
  ((k : Int) + x.e) * (hpLn2 : Int) + (hpLnRatio x.n.natAbs (2 ^ k) : Int)

/-- Taylor terms of e^r from term j on. -/
def expSum (r : Nat) : Nat → Nat → Nat → Nat
  | 0, _, _ => 0
  | k + 1, j, t => t + expSum r k (j + 1) (t * r / 2 ^ hpP / (j + 1))

/-- x in units of 2^-400, rounded down. -/
def hpOf (x : Dy) : Int := dyFloor (dyShift hpP x)

/-- e^x as (m, n): m × 2^(n − 400). -/
def hpExp (x : Dy) : Nat × Int :=
  let v := hpOf x
  let n := v / (hpLn2 : Int)
  let r := (v - n * (hpLn2 : Int)).toNat
  (expSum r 100 0 (2 ^ hpP), n)

/-- e^x in units of 2^-400. -/
def hpExpFix (x : Dy) : Nat :=
  let p := hpExp x
  if 0 ≤ p.2 then p.1 * 2 ^ p.2.toNat else p.1 / 2 ^ (-p.2).toNat

/-- ⌊√n⌋, built bit by bit from bit b down. -/
def isqrtFrom (n : Nat) : Nat → Nat → Nat
  | 0, r => if (r + 1) * (r + 1) ≤ n then r + 1 else r
  | b + 1, r => isqrtFrom n b (if (r + 2 ^ (b + 1)) * (r + 2 ^ (b + 1)) ≤ n then r + 2 ^ (b + 1) else r)

/-- ⌊√n⌋. -/
def isqrt (n : Nat) : Nat := isqrtFrom n (Nat.log2 n / 2 + 1) 0

/-! ### Seeds and companion tables (R108, R118) -/

/-- The greatest k, built from bit b down, that p holds of; p holds of 0 and of every smaller one. -/
def greatest (p : Nat → Bool) : Nat → Nat → Nat
  | 0, r => if p (r + 1) then r + 1 else r
  | b + 1, r => greatest p b (if p (r + 2 ^ (b + 1)) then r + 2 ^ (b + 1) else r)

/-- rcp_seed[i] in units of 2^-12. -/
def rcpSeed (ben : Bool) (i : Nat) : Nat := if ben then 4096 * 256 / (256 + i) else (8192 * 512 / (513 + 2 * i) + 1) / 2

/-- rsq_seed[i] in units of 2^-12. -/
def rsqSeed (ben : Bool) (i : Nat) : Nat :=
  if ben then
    let den := if i < 128 then (128, 128 + i) else (64, 128 + (i - 128))
    isqrt (2 ^ 24 * den.1 / den.2)
  else
    let den := if i < 128 then (256, 257 + 2 * i) else (128, 256 + 2 * (i - 128) + 1)
    (isqrt (2 ^ 26 * den.1 / den.2) + 1) / 2

/-- exp_seed[i] in units of 2^-12. -/
def expSeed (ben : Bool) (i : Nat) : Nat :=
  if ben then greatest (fun k => decide (k ^ 256 ≤ 2 ^ (12 * 256 + i))) 13 0
  else (greatest (fun k => decide (k ^ 512 ≤ 2 ^ (13 * 512 + (2 * i + 1)))) 14 0 + 1) / 2

/-- A nonzero v × 2^-400 rounded to 48 significant bits, ties to even. -/
def rn48 (v : Nat) : Dy :=
  let k := Nat.log2 v + 1 - 48
  { n := (halfEven v k : Nat), e := (k : Int) - (hpP : Int) }

/-- A logarithm in units of 2^-400 as the mode holds it in its companion table. -/
def holdLog (ben : Bool) (v : Nat) : Dy :=
  if v = 0 then { n := 0, e := 0 }
  else if ben then { n := (v / 2 ^ (hpP - 24) : Nat), e := -24 }
  else rn48 v

/-- log2 of a/b, b ≤ a ≤ 2b, in units of 2^-400. -/
def hpLog2 (a b : Nat) : Nat := hpLnRatio a b * 2 ^ hpP / hpLn2

/-- exp_log[i]. -/
def expLog (ben : Bool) (i : Nat) : Dy := holdLog ben (hpLog2 (expSeed ben i) 4096)
/-- log_log[i]. -/
def logLog (ben : Bool) (i : Nat) : Dy := holdLog ben (hpLog2 4096 (rcpSeed ben i))

/-! ### Kernels (R109, R118) -/

/-- Significant bits of q. -/
def qBits (ben : Bool) : Nat := if ben then 24 else 48
/-- q. -/
def dyQ (ben : Bool) (a : Dy) : Dy := truncTo (qBits ben) a 1
/-- One iteration in Benremin mode, two otherwise. -/
def newton (ben : Bool) (f : Dy → Dy) (y : Dy) : Dy := if ben then f y else f (f y)
/-- A seed. -/
def dySeed (n : Nat) : Dy := { n := (n : Int), e := -12 }
def dyOne : Dy := { n := 1, e := 0 }

/-- k_rcp; from m = 2 on it halves m first, as R110 does (R109, R111; log entry 17). -/
def kRcp (ben : Bool) (m0 : Dy) : Dy :=
  let big := !(dyLt m0 (dyInt 2))
  let m := if big then dyShift (-1) m0 else m0
  let i := (dyFloor (dyTimes 256 (dySub m dyOne))).toNat
  let y := newton ben (fun y => dyQ ben (dyMul y (dySub (dyInt 2) (dyQ ben (dyMul m y))))) (dySeed (rcpSeed ben i))
  if big then dyShift (-1) y else y

/-- k_rsq. -/
def kRsq (ben : Bool) (m : Dy) : Dy :=
  let i := if dyLt m (dyInt 2) then (dyFloor (dyTimes 128 (dySub m dyOne))).toNat
    else 128 + (dyFloor (dyTimes 64 (dySub m (dyInt 2)))).toNat
  newton ben (fun y => dyQ ben (dyShift (-1) (dyMul y (dySub (dyInt 3) (dyQ ben (dyMul m (dyQ ben (dyMul y y)))))))) (dySeed (rsqSeed ben i))

/-- Twelve times L4(w), or L2(w) in Benremin mode. -/
def seriesL (ben : Bool) (w : Dy) : Dy :=
  let w2 := dyMul w w
  if ben then dySub (dyTimes 12 w) (dyTimes 6 w2)
  else dySub (dyAdd (dySub (dyTimes 12 w) (dyTimes 6 w2)) (dyTimes 4 (dyMul w2 w))) (dyTimes 3 (dyMul w2 w2))

/-- Twenty-four times E4(z), or E2(z) in Benremin mode. -/
def seriesE (ben : Bool) (z : Dy) : Dy :=
  let z2 := dyMul z z
  let lo := dyAdd (dyAdd (dyInt 24) (dyTimes 24 z)) (dyTimes 12 z2)
  if ben then lo else dyAdd (dyAdd lo (dyTimes 4 (dyMul z2 z))) (dyMul z2 z2)

/-- k_exp. -/
def kExp (ben : Bool) (x : Dy) : Dy :=
  let t := dyQ ben (dyMul x dyLog2e)
  let n := dyFloor t
  let f := dySub t (dyInt n)
  let i := (dyFloor (dyTimes 256 f)).toNat
  let d := dyQ ben (dyMul (dySub f (expLog ben i)) dyLn2)
  let w := newton ben (fun w =>
    truncTo (qBits ben) (dyAdd (dyTimes 12 w) (dyMul (dyAdd dyOne w) (dySub (dyTimes 12 d) (seriesL ben w)))) 12) d
  dyShift n (dyQ ben (dyMul (dySeed (expSeed ben i)) (dyAdd dyOne w)))

/-- k_ln. -/
def kLn (ben : Bool) (x : Dy) : Dy :=
  let z := dySub x dyOne
  let direct := !ben && dyLt { n := (z.n.natAbs : Int), e := z.e } { n := 1, e := -8 }
  let me := dySplit x
  let i := (dyFloor (dyTimes 256 (dySub me.1 dyOne))).toNat
  let u := if direct then z else dySub (dyQ ben (dyMul me.1 (dySeed (rcpSeed ben i)))) dyOne
  let v := newton ben (fun v =>
    truncTo (qBits ben) (dyAdd (dyTimes 24 (dySub v dyOne)) (dyMul (dyAdd dyOne u) (seriesE ben (dyNeg v)))) 24) u
  if direct then v
  else dyQ ben (dyMul (dyAdd (dyAdd (dyInt me.2) (logLog ben i)) (dyMul v dyLog2e)) dyLn2)

/-- RSQRT's kernel with its exponent (R110). -/
def rsqOf (ben : Bool) (x : Dy) : Dy :=
  let me := dySplit x
  let odd := decide (me.2 % 2 = 1)
  let m := if odd then dyShift 1 me.1 else me.1
  let e := if odd then me.2 - 1 else me.2
  dyShift (-(e / 2)) (kRsq ben m)

/-- The kernel result of 1/x, x > 0. -/
def rcpOf (ben : Bool) (x : Dy) : Dy :=
  let me := dySplit x
  dyShift (-me.2) (kRcp ben me.1)

/-- x is at most the integer k. -/
def dyLeInt (x : Dy) (k : Int) : Bool := !(dyLt (dyInt k) x)

/-- sfu_y2, or y1 in Benremin mode (R110); SOFTPLUS from 104 on adds nothing to x (R106, R111; log entry 17). -/
def sfuY (ben : Bool) (fn : Nat) (x : Dy) : Dy :=
  match fn with
  | 0 => kExp ben x
  | 1 => if 0 < x.n then kRcp ben (dyAdd dyOne (kExp ben (dyNeg x)))
         else let z := kExp ben x; dyQ ben (dyMul z (kRcp ben (dyAdd dyOne z)))
  | 2 => let a := rcpOf ben { n := (x.n.natAbs : Int), e := x.e }; if x.n < 0 then dyNeg a else a
  | 3 => rsqOf ben x
  | 4 => kLn ben x
  | _ => if x.n < 0 then kLn ben (dyAdd dyOne (kExp ben x))
         else if x.n = 0 then kLn ben (dyInt 2)
         else if dyLeInt (dyNeg x) (-104) then x
         else dyQ ben (dyAdd x (kLn ben (dyAdd dyOne (kExp ben (dyNeg x)))))

/-! ### Rounding results -/

/-- The rational n/d × 2^e, d > 0, converted by R44 to R46. -/
def convertRat (f : Fp) (sat neg : Bool) (n d : Nat) (e : Int) : Conv :=
  let k := 130 + Nat.log2 d - min (129 + Nat.log2 d) (Nat.log2 n)
  let v := n * 2 ^ k / d
  if n * 2 ^ k % d = 0 then convert f sat (.fin neg v (e - k)) else convertSticky f sat neg v (e - k)

/-- A magnitude cut toward zero; a finite overflow gives the largest finite value (R118). -/
def convertCut (f : Fp) (neg : Bool) (m : Nat) (e : Int) : Conv :=
  if m = 0 then { code := signed f neg 0 } else
  let qmin : Int := 1 - (f.bias : Int) - f.mb
  let q : Int := max ((Nat.log2 m : Int) + e - f.mb) qmin
  let n : Nat := if q ≤ e then m * 2 ^ (e - q).toNat else m / 2 ^ (q - e).toNat
  let c := if n < 2 ^ f.mb then n else (q - qmin).toNat * 2 ^ f.mb + n
  { code := signed f neg (min c f.maxCode) }

/-- f(x) as a magnitude (m + d) × 2^e, with d = 0, or 0 < d < 1 when the last part holds: for the arguments R106 does not settle (R104). -/
def sfuExact (fn : Nat) (x : Dy) : Bool × Nat × Int × Bool :=
  let p : Int := -(hpP : Int)
  match fn with
  | 0 => let v := hpExp x; (false, v.1 - 8, v.2 + p, true)
  | 1 =>
    let z := hpExpFix { n := -(x.n.natAbs : Int), e := x.e }
    let one := 2 ^ hpP
    (false, (if 0 < x.n then one * one / (one + z) else z * one / (one + z)) - 8, p, true)
  | 2 => (decide (x.n < 0), 2 ^ 200 / x.n.natAbs, -200 - x.e, decide (2 ^ 200 % x.n.natAbs ≠ 0))
  | 3 =>
    let odd := decide (x.e % 2 = 1)
    let n := if odd then 2 * x.n.natAbs else x.n.natAbs
    let e := if odd then x.e - 1 else x.e
    let r := isqrt (2 ^ 400 / n)
    (false, r, -200 - e / 2, decide (r * r * n ≠ 2 ^ 400))
  | 4 => let v := hpLn x; (decide (v < 0), v.natAbs - 8, p, true)
  | _ =>
    let one := 2 ^ hpP
    if x.n ≤ 0 then (false, hpLnRatio (one + hpExpFix x) one - 8, p, true)
    else if dyLeInt (dyNeg x) (-104) then (false, x.n.natAbs * 2 ^ 64, x.e - 64, true)
    else (false, (hpOf x).toNat + hpLnRatio (one + hpExpFix (dyNeg x)) one - 8, p, true)

/-- |y − M| ≤ 2^-32 × |M| for the midpoint M of the two output values around y (R111). Beyond the largest finite value, where there are no two
such values, the spacing of the top binade goes on (DESIGN CHOICE, log entry 58). -/
def inBand (f : Fp) (y : Dy) : Bool :=
  let m := y.n.natAbs
  if m = 0 then false else
  let q : Int := max ((Nat.log2 m : Int) + y.e - f.mb) (1 - (f.bias : Int) - f.mb)
  let lo := min (y.e) (q - 1)
  let v := m * 2 ^ (y.e - lo).toNat
  let w := 2 ^ (q - lo).toNat
  let mid := v / w * w + w / 2
  decide ((max v mid - min v mid) * 2 ^ 32 ≤ mid)

/-- One result: what was written, and the flags it sets. -/
structure SfuRes where
  conv : Conv
  invalid : Bool := false
  divzero : Bool := false
  resid : Bool := false
deriving DecidableEq, Repr

/-- A settled finite result. -/
def settled (f : Fp) (neg : Bool) (m : Nat) (e : Int) : SfuRes := { conv := convert f false (.fin neg m e) }

/-- The result of an argument that R106 does not settle. -/
def sfuRest (ben sat : Bool) (fn : Nat) (f : Fp) (x : Dy) : SfuRes :=
  let y := sfuY ben fn x
  if ben then { conv := convertCut f (decide (y.n < 0)) y.n.natAbs y.e }
  else if f.mb = 23 then { conv := convert f sat (dyVal y) }
  else
    let r := sfuExact fn x
    { conv := if r.2.2.2 then convertSticky f sat r.1 r.2.1 r.2.2.1 else convert f sat (.fin r.1 r.2.1 r.2.2.1), resid := inBand f y }

/-- The result of a function at an argument (R104 to R106). In Benremin mode too an EXP of a finite x of 89 or more is the +∞ of R106, which R118
lets apply, and not the largest finite value of its row for overflow (DESIGN CHOICE, log entry 56). -/
def sfuElem (ben sat : Bool) (fn : Nat) (f : Fp) (v : Val) : SfuRes :=
  let inf (neg fin : Bool) : SfuRes := { conv := overflowTo f neg fin sat }
  match v with
  | .nan => { conv := { code := f.nanCode } }
  | .inf neg =>
    match fn with
    | 0 => if neg then settled f false 0 0 else inf false false
    | 1 => if neg then settled f false 0 0 else settled f false 1 0
    | 2 => settled f neg 0 0
    | 3 => if neg then { conv := { code := f.nanCode }, invalid := true } else settled f false 0 0
    | 4 => if neg then { conv := { code := f.nanCode }, invalid := true } else inf false false
    | _ => if neg then settled f false 0 0 else inf false false
  | .fin neg m e =>
    let x := valDy (.fin neg m e)
    let zero := decide (m = 0)
    let low := neg && !zero && dyLeInt x (-104)
    match fn with
    | 0 => if zero then settled f false 1 0 else if low then settled f false 0 0
           else if !(dyLt x (dyInt 89)) then inf false true else sfuRest ben sat 0 f x
    | 1 => if zero then settled f false 1 (-1) else if low then settled f false 0 0
           else if !(dyLt x (dyInt 32)) then settled f false 1 0 else sfuRest ben sat 1 f x
    | 2 => if zero then { inf neg false with divzero := true } else sfuRest ben sat 2 f x
    | 3 => if zero then { inf neg false with divzero := true }
           else if neg then { conv := { code := f.nanCode }, invalid := true } else sfuRest ben sat 3 f x
    | 4 => if zero then { inf true false with divzero := true }
           else if neg then { conv := { code := f.nanCode }, invalid := true }
           else if (dySub x dyOne).n = 0 then settled f false 0 0 else sfuRest ben sat 4 f x
    | _ => if low then settled f false 0 0 else sfuRest ben sat 5 f x

/-! ### Row operations (R112 to R116) -/

/-- The greatest of a row as a binary32 code: NaN with a NaN, +0 over −0 (R112). -/
def rowMaxCode (l : List Val) : Nat :=
  if l.any Val.isNan then fpF32.nanCode
  else toF32 (l.foldl (fun m v => if ltVal m v || (m.isZero && v.isZero && m == .fin true 0 0) then v else m) (l.headD .nan))

/-- A zero of one shape, so that zeros compare by sign alone. -/
def normZero : Val → Val
  | .fin n 0 _ => .fin n 0 0
  | v => v

/-- The value is finite. -/
def Val.isFin : Val → Bool
  | .fin _ _ _ => true
  | _ => false

/-- The term of an entry against M, in units of 2^-48 (R113). -/
def expTerm (m x : Val) : Nat :=
  match x with
  | .nan => 0
  | .inf neg => if neg then 0 else 2 ^ 48
  | .fin _ _ _ =>
    let d := dySub (valDy x) (valDy m)
    if 0 ≤ d.n then 2 ^ 48
    else if dyLeInt d (-104) then 0
    else min (2 ^ 48) (dyFloor (dyShift 48 (kExp false d))).toNat

/-- The term as a binary32 code of the Benremin EXP (R118). -/
def expTermBen (m x : Val) : Nat :=
  match x with
  | .nan => 0
  | .inf neg => if neg then 0 else 0x3F800000
  | .fin _ _ _ =>
    let d := dySub (valDy x) (valDy m)
    if 0 ≤ d.n then 0x3F800000
    else if dyLeInt d (-104) then 0
    else let y := kExp true d; min 0x3F800000 (convertCut fpF32 false y.n.natAbs y.e).code

/-- What a row operation gives for one row: codes of its outputs, flags. -/
structure RowRes where
  codes : List Nat
  fx : Fx := {}
  nanRow : Bool := false
  zeroSum : Bool := false
  invalid : Bool := false
  divzero : Bool := false
  badCount : Bool := false
deriving DecidableEq, Repr

/-- The row has no defined terms: a NaN entry, or M not finite (R113, R114). -/
def rowBad (l : List Val) (m : Val) : Bool := l.any Val.isNan || !m.isFin

/-- The 16 bytes of the record of R113. -/
def sumRecord (l : List Val) (mcode : Nat) : RowRes :=
  let m := ofF32 mcode
  if rowBad l m then { codes := List.replicate 12 0 ++ (leBytes 4 fpF32.nanCode).map BitVec.toNat, nanRow := true }
  else { codes := (leBytes 12 ((l.map (expTerm m)).foldl (· + ·) 0) ++ leBytes 4 mcode).map BitVec.toNat }

/-- Every entry of the row as NaN. -/
def nanRowOf (f : Fp) (l : List Val) (zero : Bool) : RowRes := { codes := l.map (fun _ => f.nanCode), nanRow := true, zeroSum := zero }

/-- A row of results with one report. -/
def rowConv (l : List Conv) : RowRes := { codes := l.map Conv.code, fx := l.foldl (fun x c => x.add c.fx) {} }

/-- SOFTMAX of a row with its M and S (R114). -/
def softmaxRow (sat : Bool) (f : Fp) (l : List Val) (m : Val) (sum : Nat) : RowRes :=
  if rowBad l m then nanRowOf f l false
  else if sum = 0 then nanRowOf f l true
  else rowConv (l.map (fun x => convertRat f sat false (expTerm m x) sum 0))

/-- SOFTMAX of a row in Benremin mode (R118). -/
def softmaxBen (f : Fp) (l : List Val) (m : Val) : RowRes :=
  if rowBad l m then nanRowOf f l false else
  let t := l.map (expTermBen m)
  let sum := t.foldl addF32 0
  if sum = 0 then nanRowOf f l true
  else
    let r := rcpOf true (valDy (ofF32 sum))
    rowConv (t.map (fun c => let p := dyQ true (dyMul (valDy (ofF32 c)) r); convertCut f false p.n.natAbs p.e))

/-- ROW_RMS of a row (R116, R118); a finite square that overflows binary32 reports it (R46; DEDUCED, log entry 54). -/
def rmsRow (ben : Bool) (l : List Val) (eps : Nat) : RowRes :=
  let ps := l.map (fun x => convert fpF32 false (mulVal x x))
  let sq := ps.map Conv.code
  let s := if ben then sq.foldl addF32 0 else dotTree sq
  let mu := match ofF32 s with
    | .fin neg m e => (convertRat fpF32 false neg m (max 1 l.length) e).code
    | _ => s
  let r := sfuElem ben false 3 fpF32 (ofF32 (addF32 mu eps))
  { codes := [r.conv.code], fx := { sat := b2n r.conv.sat, ovf := r.conv.ovf || ps.any Conv.ovf }, invalid := r.invalid, divzero := r.divzero }

/-- RENORM of one token's eight weights (R117, R118). In Benremin mode 1/S is the kernel's value before it is cut into a format, and 0 where the
binary32 sum is +∞ (DESIGN CHOICE, log entry 57). -/
def renormRow (ben sat : Bool) (f : Fp) (p : List Val) (count lam : Nat) : RowRes :=
  let c := min count 8
  let bad := decide (8 < count)
  let used := p.take c
  let rest := List.replicate (8 - c) 0
  if used.any (fun v => !v.isFin || (valDy v).n < 0) then
    { codes := used.map (fun _ => f.nanCode) ++ rest, invalid := true, badCount := bad }
  else
    let sumX := used.foldl (fun a v => dyAdd a (valDy v)) { n := 0, e := 0 }
    let sumB := used.foldl (fun a v => addF32 a (toF32 v)) 0
    if sumX.n = 0 then { codes := List.replicate 8 0, zeroSum := decide (0 < c), badCount := bad }
    else
      let l := valDy (ofF32 lam)
      let neg (v : Val) : Bool := match v with | .fin n _ _ => n | _ => false
      let one (v : Val) : Conv :=
        if ben then
          let r := match ofF32 sumB with | .fin _ _ _ => rcpOf true (valDy (ofF32 sumB)) | _ => { n := 0, e := 0 }
          let t := dyQ true (dyMul (dyQ true (dyMul l (valDy v))) r)
          convertCut f (neg v) t.n.natAbs t.e
        else
          let t := dyMul l (valDy v)
          convertRat f sat (neg v) t.n.natAbs sumX.n.natAbs (t.e - sumX.e)
      let r := rowConv (used.map one)
      { r with codes := r.codes ++ rest, badCount := bad }

/-! ### The records (R120 to R124) -/

/-- sfu_cycles of R123. -/
def sfuCycles (op fn : Nat) (ext : Bool) (nEl rows len n : Nat) : Nat :=
  let l := ceilDiv len 32
  let h := ceilDiv len 64
  match op with
  | 0 => 48 + ceilDiv nEl (if fn = 1 ∨ fn = 5 then 16 else 32)
  | 1 => 48 + rows * (8 + h)
  | 2 => 48 + rows * (16 + (if ext then 0 else h) + l)
  | 3 => 48 + rows * (24 + (if ext then 0 else h + l) + l)
  | 4 => 48 + rows * (32 + l)
  | _ => 48 + ceilDiv n 4

/-- The output format. -/
def outFp (d : Desc) : Fp := (fpOf d.fmt).getD fpF32

/-- The values of row j. -/
def rowVals (s : State) (d : Desc) (j : Nat) : List Val := (List.range (d.sz 0)).map (fun i => normZero (readVal s d [i, j, 0, 0, 0]).1)

/-- Status of a command's rows (R125). -/
def sfuStatus (rows : List RowRes) (resid : Nat) (s : State) : State :=
  let any (p : RowRes → Bool) : Bool := rows.any p
  let s := bump Reg.SCORE_SFU_NAN_CNT (rows.filter RowRes.nanRow).length (bump Reg.SCORE_SFU_RESID_CNT resid s)
  raiseIf (any RowRes.badCount) Reg.SCORE_SFU_STAT 4 (raiseIf (any RowRes.zeroSum) Reg.SCORE_SFU_STAT 3
    (raiseIf (any RowRes.nanRow) Reg.SCORE_SFU_STAT 2 (raiseIf (any RowRes.divzero) Reg.SCORE_SFU_STAT 1
      (raiseIf (any RowRes.invalid) Reg.SCORE_SFU_STAT 0 s))))

/-- The Benremin mode bound to a command's step (R118, R425). -/
def sfuBen (s : State) (r : RingRec) : Bool := bFld (boundOf s r.step) Reg.PART_ID 12 12 == 1

/-- The mode of the last command started (R125). -/
def sfuMode (ben : Bool) (s : State) : State := setFld Reg.SCORE_SFU_STAT 5 5 (b2n ben) s

/-- A job from rows of outputs: row j's codes at coordinates (0.., j). Every element is read before the first write (DESIGN CHOICE, log entry 51). -/
def rowJob (s : State) (r : RingRec) (reads : List (Addr × Nat)) (bound : Nat) (rows : List RowRes) : Job :=
  let dd := descAt s (rPtr r.raw 2)
  { start := sfuMode (sfuBen s r), reads := reads, busyLo := Reg.SCORE_SFU_BUSY_LO, bound := bound, outs := [rPtr r.raw 2],
    fx := rows.foldl (fun x c => x.add c.fx) {},
    writes := (withIdx 0 rows).flatMap (fun q => (withIdx 0 q.2.codes).flatMap (fun c => dd.putCode [c.1, q.1, 0, 0, 0] c.2)),
    rep := sfuStatus rows 0 }

/-- One code a row: the rows of a 1 × rows output. -/
def sfuReads (s : State) (r : RingRec) : List (Addr × Nat) :=
  touches s (descAt s (rPtr r.raw 1)) ++ (if rPtr r.raw 3 = 0 then [] else touches s (descAt s (rPtr r.raw 3)))

/-- FUNC (R110). -/
def funcJob (s : State) (r : RingRec) : Job :=
  let di := descAt s (rPtr r.raw 1)
  let dd := descAt s (rPtr r.raw 2)
  let fn := rPar r.raw 6 4
  let out := (List.range di.count).map (fun n => (di.coord n, sfuElem (sfuBen s r) (rSat r.raw) fn (outFp dd) (readVal s di (di.coord n)).1))
  { start := sfuMode (sfuBen s r), reads := sfuReads s r, busyLo := Reg.SCORE_SFU_BUSY_LO, bound := sfuCycles 0 fn false di.count 0 0 0, outs := [rPtr r.raw 2],
    fx := out.foldl (fun x q => x.add q.2.conv.fx) {},
    writes := out.flatMap (fun q => dd.putCode q.1 q.2.conv.code),
    rep := sfuStatus (out.map (fun q => { codes := [], invalid := q.2.invalid, divzero := q.2.divzero })) (out.filter (fun q => q.2.resid)).length }

/-- ROW_MAX (R112). -/
def rowMaxJob (s : State) (r : RingRec) : Job :=
  let d := descAt s (rPtr r.raw 1)
  rowJob s r (sfuReads s r) (sfuCycles 1 0 false 0 (d.sz 1) (d.sz 0) 0)
    ((List.range (d.sz 1)).map (fun j => { codes := [rowMaxCode (rowVals s d j)] }))

/-- The binary32 code of auxiliary value j (R113). -/
def auxCode (s : State) (r : RingRec) (j : Nat) : Nat := (readRaw s (descAt s (rPtr r.raw 3)) [0, j, 0, 0, 0]).1

/-- ROW_SUMEXP (R113), in a step bound to Benremin too, with the standard terms and sum (DESIGN CHOICE, log entry 89). -/
def rowSumexpJob (s : State) (r : RingRec) : Job :=
  let d := descAt s (rPtr r.raw 1)
  let ext := bit (rParam r.raw) 7
  rowJob s r (sfuReads s r) (sfuCycles 2 0 ext 0 (d.sz 1) (d.sz 0) 0)
    ((List.range (d.sz 1)).map (fun j =>
      let l := rowVals s d j
      sumRecord l (if ext then auxCode s r j else rowMaxCode l)))

/-- The (M, S) record of row j (R113). -/
def auxRecord (s : State) (r : RingRec) (j : Nat) : Nat × Nat :=
  let da := descAt s (rPtr r.raw 3)
  let b := (List.range 16).map (fun i => BitVec.ofNat 8 (readRaw s da [i, j, 0, 0, 0]).1)
  (leAt b 12 4, leAt b 0 12)

/-- SOFTMAX (R114, R118). With EXT = 1 in Benremin mode, which the record check refuses and a list accepted before the mode can still hold, it works
with the standard terms and quotient (DESIGN CHOICE, log entry 89). -/
def softmaxJob (s : State) (r : RingRec) : Job :=
  let d := descAt s (rPtr r.raw 1)
  let f := outFp (descAt s (rPtr r.raw 2))
  let ext := bit (rParam r.raw) 7
  rowJob s r (sfuReads s r) (sfuCycles 3 0 ext 0 (d.sz 1) (d.sz 0) 0)
    ((List.range (d.sz 1)).map (fun j =>
      let l := rowVals s d j
      if ext then let a := auxRecord s r j; softmaxRow (rSat r.raw) f l (ofF32 a.1) a.2
      else
        let m := ofF32 (rowMaxCode l)
        if sfuBen s r then softmaxBen f l m
        else softmaxRow (rSat r.raw) f l m ((l.map (expTerm m)).foldl (· + ·) 0)))

/-- ROW_RMS (R116). -/
def rowRmsJob (s : State) (r : RingRec) : Job :=
  let d := descAt s (rPtr r.raw 1)
  rowJob s r (sfuReads s r) (sfuCycles 4 0 false 0 (d.sz 1) (d.sz 0) 0)
    ((List.range (d.sz 1)).map (fun j => rmsRow (sfuBen s r) (rowVals s d j) (rPar r.raw 39 8)))

/-- RENORM (R117). -/
def renormJob (s : State) (r : RingRec) : Job :=
  let d := descAt s (rPtr r.raw 1)
  let f := outFp (descAt s (rPtr r.raw 2))
  rowJob s r (sfuReads s r) (sfuCycles 5 0 false 0 0 0 (d.sz 1))
    ((List.range (d.sz 1)).map (fun t => renormRow (sfuBen s r) (rSat r.raw) f (rowVals s d t) (auxCode s r t) (rPar r.raw 39 8)))

/-- The record is an SFU record with an OP. -/
def isSfu (op : Nat) (r : Record) : Bool := rOp r == 0x08 && rPar r 3 0 == op

/-- The work of any SFU record by its OP. -/
def sfuJob (s : State) (r : RingRec) : Job :=
  match rPar r.raw 3 0 with
  | 0 => funcJob s r
  | 1 => rowMaxJob s r
  | 2 => rowSumexpJob s r
  | 3 => softmaxJob s r
  | 4 => rowRmsJob s r
  | _ => renormJob s r

/-- FUNC (R110). -/
def execFunc (be : Bool) (s : State) : Host.Outcome State Fault Refusal := finish (runJob 1 be (isSfu 0) funcJob s)
/-- ROW_MAX (R112). -/
def execRowMax (be : Bool) (s : State) : Host.Outcome State Fault Refusal := finish (runJob 1 be (isSfu 1) rowMaxJob s)
/-- ROW_SUMEXP (R113). -/
def execRowSumexp (be : Bool) (s : State) : Host.Outcome State Fault Refusal := finish (runJob 1 be (isSfu 2) rowSumexpJob s)
/-- SOFTMAX (R114). -/
def execSoftmax (be : Bool) (s : State) : Host.Outcome State Fault Refusal := finish (runJob 1 be (isSfu 3) softmaxJob s)
/-- ROW_RMS (R116). -/
def execRowRms (be : Bool) (s : State) : Host.Outcome State Fault Refusal := finish (runJob 1 be (isSfu 4) rowRmsJob s)
/-- RENORM (R117). -/
def execRenorm (be : Bool) (s : State) : Host.Outcome State Fault Refusal := finish (runJob 1 be (isSfu 5) renormJob s)

end Sys2Proof.Machine
end

