-- ==== Sys2Proof/Machine/ListCheck.lean ====
section
/-! DEFINITION. The checks a submitted list passes: stage by stage for every record, and the bound on BE records (spec/10 R304, R305; R91,
R122, R149, R181, R219, R238, R255, R68, R43, R242, R342, R441). -/

namespace Sys2Proof.Machine

/-- A cause of rejection: whether it holds, its code (R302), the byte offset of its field, the row of the opcode's table (R305). -/
abbrev Cause := Bool × Nat × Nat × Nat

/-- The first cause that holds. -/
def firstBad (l : List Cause) : Option (Nat × Nat × Nat) := (l.find? (fun c => c.1)).map Prod.snd

/-- The lowest byte, from `lo` on, with a bit set in v under a mask, v and the mask counted from byte `lo`. -/
def lowByte (lo n v mask : Nat) : Nat := lo + ((List.range n).find? (fun i => Nat.land v mask / 256 ^ i % 256 != 0)).getD 0

/-- A cause of nonzero reserved bits: n bytes from byte `lo` on, with the reserved ones given by a mask. -/
def rsv (lo n v mask code row : Nat) : Cause := (Nat.land v mask != 0, code, lowByte lo n v mask, row)

/-- What a record is checked against: the list's class, counter range and records, and the record's place. -/
structure ListCtx where
  be : Bool
  cntFirst : Nat
  cntNum : Nat
  recs : List Record
deriving DecidableEq, Repr

/-- A counter the partition's software was given (R30, R301). -/
def cntGiven (s : State) (n : Nat) : Bool := s.cntAlloc.contains n

/-! ### Stage 1 (R304) -/

/-- The reserved bits of a record (R283). -/
def recRsv : Nat :=
  7 * 2 ^ 13 + 1023 * 2 ^ 54 + 0xFFFFFFFF * 2 ^ 96 + 0xFFFF * (2 ^ 240 + 2 ^ 304 + 2 ^ 368 + 2 ^ 432 + 2 ^ 496)

/-- Reserved bits of a publication entry, or an ENTRY the table does not have (R287). -/
def pubBad (s : State) (a : Addr) (n : Nat) : Bool :=
  (List.range n).any (fun i => decide (63 < rdLe s (a + 16 * i) 8) || decide (2 ^ 48 ≤ rdLe s (a + 16 * i + 8) 8))

/-- The eleven checks of stage 1 for record i. -/
def stage1 (s : State) (c : ListCtx) (i : Nat) (r : Record) : List Cause :=
  let op := rOp r
  let com := op == 0xF0
  let inRange (n : Nat) : Bool := decide (c.cntFirst ≤ n) && decide (n < c.cntFirst + c.cntNum)
  let w2 := com && rPar r 42 42 == 1
  let w2c := rPar r 9 0
  let cp := cpoolAt s (rCpool r)
  let earlier := c.recs.take i
  let plan := earlier.any (fun x => rOp x == 0x20 && rPtr x 2 == rPdBase r)
  let npub := rPar r 47 43
  let ackSig (n : Nat) : Bool := c.recs.any (fun x => rOp x == 0x39 && rSig x == n)
  [ (!com && (engineOf op).isNone, 3, 0, 0),
    rsv 0 64 r.toNat recRsv 4 0,
    (!(rPd r) && rPdBase r != 0, 4, 56, 0),
    (rBe r != c.be, 4, 1, 0),
    (!(cntGiven s (rWait r)), 8, 2, 0),
    (!com && !(cntGiven s (rSig r)), 8, 3, 0),
    (w2 && !(cntGiven s w2c), 8, 16, 0),
    (!(inRange (rWait r)), 4, 2, 0),
    (!com && !(inRange (rSig r)), 4, 3, 0),
    (w2 && !(inRange w2c), 4, 16, 0),
    (rCred r == 0 && rRel r, 4, 1, 0),
    (rCred r == 0 && rCpool r != 0, 4, 4, 0),
    (rCred r != 0 && (decide (rCpool r < 16) || cp.isNone), 8, 4, 0),
    (match cp with | some p => decide (p.size < rCred r) | none => false, 4, 5, 0),
    (rPd r && !plan, 4, 56, 0),
    (rChain r && !(rPd r && earlier.any (fun x => rPd x && rWait x == rWait r)), 4, 1, 0),
    (com && i + 1 != c.recs.length, 4, 0, 0),
    (com && rRel r, 4, 1, 0),
    (com && rSig r != 0, 4, 3, 0),
    (com && rCpool r != 0, 4, 4, 0),
    (com && rCred r != 0, 4, 5, 0),
    (com && decide (16 < npub), 4, 21, 0),
    (com && rPar r 63 48 != 0, 4, lowByte 16 8 (rParam r) (0xFFFF * 2 ^ 48), 0),
    (com && (decide (rPtr r 1 % 16 ≠ 0) || (npub == 0 && rPtr r 1 != 0)), 4, 24, 0),
    (com && rPtr r 2 != 0, 4, 32, 0), (com && rPtr r 3 != 0, 4, 40, 0), (com && rPtr r 4 != 0, 4, 48, 0),
    (com && !(ackSig (rWait r)) && !(w2 && ackSig w2c), 4, 2, 0),
    (com && !(mayReach s false (rPtr r 1) (16 * npub)), 8, 24, 0) ]

/-! ### Stage 2 (R304): the descriptors of a record -/

/-- The blocks a record names: pointer and bytes. -/
def blockPtrs (r : Record) : List (Nat × Nat) :=
  match rOp r with
  | 0x10 => [(4, 128)]
  | 0x28 => [(4, 64)] | 0x29 => [(4, 64)] | 0x2A => [(4, 64)] | 0x30 => [(4, 64)]
  | 0x38 => [(3, 64), (4, 128)] | 0x39 => [(3, 64), (4, 128)]
  | 0xF0 => if rPar r 47 43 = 0 then [] else [(1, 16 * rPar r 47 43)]
  | _ => []

/-- Byte offset of a pointer in a record. -/
def ptrOff (i : Nat) : Nat := 16 + 8 * i

/-- Every structure the Keeper reads to check a record: its pointer's offset, its bytes. -/
def structs (r : Record) : List (Nat × Addr × Nat) :=
  (descPtrs r).1.map (fun i => (ptrOff i, rPtr r i, 128)) ++ (blockPtrs r).map (fun b => (ptrOff b.1, rPtr r b.1, b.2))

/-- Descriptor rules that hold whatever the opcode. -/
def stage2 (s : State) (r : Record) : List Cause :=
  (descPtrs r).1.map (fun i => (!(descOk (rPtr r i) (descAt s (rPtr r i))), 4, ptrOff i, 0))

/-! ### Stage 3: the opcodes' rejection tables -/

/-- Two-dimensional shape with a format. -/
def shapeIs (d : Desc) (fmt n0 n1 : Nat) : Bool :=
  d.fmt == fmt && d.sz 0 == n0 && d.sz 1 == n1 && d.sz 2 * d.sz 3 * d.sz 4 == 1
/-- A list of rows of w bytes. -/
def rowsOf (d : Desc) (w : Nat) : Bool := shapeIs d 0x13 w (d.sz 1)
/-- At most two dimensions. -/
def flat2 (d : Desc) : Bool := d.sz 2 * d.sz 3 * d.sz 4 == 1

/-- A cause per pointer. -/
def perPtr (l : List Nat) (p : Nat → Bool) (code row : Nat) : List Cause := l.map (fun i => (p i, code, ptrOff i, row))

/-- Some descriptor of the record is indexed. -/
def idxBad (s : State) (r : Record) (row : Nat) : List Cause := perPtr (descPtrs r).1 (fun i => (descAt s (rPtr r i)).idxMode != 0) 4 row

/-- Some descriptor's span lies outside the partition's windows (R59, R355). -/
def spanBad (s : State) (r : Record) (row : Nat) : List Cause :=
  perPtr (descPtrs r).1 (fun i => !(spanOk s ((descPtrs r).2.contains i) (descAt s (rPtr r i)))) 8 row

/-- An array outside the windows, named by a pointer. -/
def areaOut (s : State) (i row : Nat) (w : Bool) (a n : Nat) : Cause := (!(mayReach s w a n), 8, ptrOff i, row)

/-- The layers of a resident model. -/
def modelLayers (s : State) (m : Nat) : Nat := match modelHdr s m with | some h => hdrAt h 0 1 + 1 | none => 0

/-- MODEL not resident, or LAYER at or above its layer count. -/
def modelBad (s : State) (model layer offM offL row : Nat) : List Cause :=
  [(!(resident s model), 5, offM, row), (decide (modelLayers s model ≤ layer), 5, offL, row)]

/-- SCORE and SCORE_COUNT (R91). The operands' number of dimensions is two (R75, R87, R90). Candidate mode and accumulator mode ask for two
different output shapes, so no output meets both. SCORE_COUNT forms partial accumulators, which BF16 and FP16 do not have (R86; log entry 62). -/
def scoreRows (s : State) (r : Record) : List Cause :=
  let p := rParam r
  let cnt := rOp r == 0x02
  let da := descAt s (rPtr r 1)
  let dw := descAt s (rPtr r 2)
  let dout := descAt s (rPtr r 3)
  let d4 := descAt s (rPtr r 4)
  let acc := bit p 3
  let ain := bit p 4
  let cand := bit p 5
  let g := rPar r 9 6
  let gs := rPar r 25 10 + 1
  let k := da.sz 0
  let n := da.sz 1
  let e := dw.sz 1
  let half := fmtHalf da.fmt && fmtHalf dw.fmt
  let two (d : Desc) : Bool := d.ndim == 2 && flat2 d
  let outOk := two dout && if cand then !acc && shapeIs dout 0 (g * gs) n else if acc then shapeIs dout 0x13 (32 * e) n else shapeIs dout 0 e n
  let in4 := if ain then two d4 && shapeIs d4 0x13 (32 * e) n && d4.st 0 == 1 else if cand then two d4 && shapeIs d4 0x11 g n else rPtr r 4 == 0
  [ rsv 16 8 p ((2 ^ 64 - 1) - (2 ^ 29 - 1)) 4 1, (decide (4 < rPar r 2 0), 4, 16, 1),
    (cand && (g == 0 || decide (8 < g)), 4, 16, 1), (!cand && (g != 0 || gs != 1), 4, 16, 1),
    (!((fmtExact da.fmt && fmtExact dw.fmt) || (half && !cnt)), 4, 24, 2), (half && (acc || ain), 4, 16, 2),
    (decide (32768 < k) || decide (16384 < n), 4, 24, 3), (dw.sz 0 != k || e == 0 || decide (65536 < e), 4, 32, 3),
    (!(two da) || da.st 0 != 1, 4, 24, 4), (!(two dw) || dw.st 0 != 1, 4, 32, 4), (!outOk, 4, 40, 4), (!in4, 4, 48, 4),
    (cand && (ain || e % gs != 0), 4, 16, 5) ] ++ idxBad s r 6 ++
  [ (cnt && (decide (2 < rPar r 28 26) || acc || ain || cand), 4, 16, 7), (!cnt && rPar r 28 26 != 0, 4, 19, 8) ] ++ spanBad s r 9 ++
  [ (cnt && ((collMembers s true (rPar r 28 26)).length != (if rPar r 28 26 = 2 then 64 else 8)), 8, 19, 9) ]

/-- The formats of R103. -/
def sfuFmt (f : Nat) : Bool := decide (f ≤ 4)

/-- SFU (R122). A row operand may have any NDIM whose sizes above dimension 1 are 1 (DESIGN CHOICE, log entry 115), and rows of ROW_SUMEXP and SOFTMAX are
held to R112's 1 to 65,536 elements (DESIGN CHOICE, log entry 114). -/
def sfuRows (s : State) (r : Record) : List Cause :=
  let p := rParam r
  let op := rPar r 3 0
  let fn := rPar r 6 4
  let ext := bit p 7
  let c := rPar r 39 8
  let di := descAt s (rPtr r 1)
  let dd := descAt s (rPtr r 2)
  let d3 := descAt s (rPtr r 3)
  let len := di.sz 0
  let n := di.sz 1
  let top := if op = 4 then 32768 else 65536
  let inOk := if op = 0 then sfuFmt di.fmt else if op = 5 then shapeIs di 0 8 n && decide (n ≤ 16384)
    else sfuFmt di.fmt && flat2 di && decide (n ≤ 16384) && decide (1 ≤ len) && decide (len ≤ top)
  let outOk := match op with
    | 0 => sfuFmt dd.fmt && dd.size == di.size
    | 1 => shapeIs dd 0 1 n
    | 2 => shapeIs dd 0x13 16 n
    | 3 => sfuFmt dd.fmt && dd.size == di.size
    | 4 => shapeIs dd 0 1 n
    | _ => sfuFmt dd.fmt && shapeIs dd dd.fmt 8 n
  let auxOk := if op = 5 then shapeIs d3 0x13 1 n else if !ext then rPtr r 3 == 0 else if op = 2 then shapeIs d3 0 1 n else shapeIs d3 0x13 16 n
  [ (decide (5 < op) || (fn != 0 && op != 0) || decide (5 < fn) || (ext && op != 2 && op != 3), 4, 16, 1),
    rsv 16 8 p ((2 ^ 64 - 1) - (2 ^ 40 - 1)) 4 1,
    (if op = 4 then decide (0x7F800000 ≤ c) else if op = 5 then !(posF32 c) else c != 0, 4, 17, 2),
    (!inOk, 4, 24, 3), (!outOk, 4, 32, 3), (!auxOk, 4, 40, 3) ] ++ idxBad s r 4 ++
  [ (rPtr r 4 != 0, 4, 48, 4), (benremin s && dd.fmt != 0 && dd.fmt != 2, 4, 32, 5), (benremin s && ext && op == 3, 4, 16, 5) ] ++ spanBad s r 6

/-- A finite binary32 code. -/
def finF32 (c : Nat) : Bool := decide (c % 2 ^ 31 < 0x7F800000)

/-- SELECT (R149). In GONLY mode only NE_M1, NG_M1 and G_M1 are read (R148). -/
def selectRows (s : State) (r : Record) : List Cause :=
  let b := selBlock s r
  let p := rParam r
  let th := rThresh r
  let go := rGonly r
  let grouped := rGrp r || rCand r || go
  let di := descAt s (rPtr r 1)
  let dd := descAt s (rPtr r 2)
  let n := di.sz 1
  let gsz := b.e / b.ng
  let eIn := if go then b.ng else if rCand r then b.g * gsz else b.e
  let need := if th then b.kmax else b.k
  let full := !go
  let usedIdx := b.shIdx.take b.nsh
  let t0 := rTokFirst r
  [ (decide (1 < b2n (rGrp r) + b2n (rCand r) + b2n go) || (go && (th || rBiasEn r)), 4, 16, 1),
    (full && (if th then b.k != 0 || b.kmax == 0 || decide (8 < b.kmax) || b.kmin == 0 || decide (b.kmax < b.kmin) || !(posF32 b.tau)
      else b.k == 0 || decide (8 < b.k) || b.kmin != 0 || b.kmax != 0 || b.tau != 0), 4, 48, 2),
    ((if grouped then decide (b.e % b.ng ≠ 0) || decide (b.ng < b.g) else b.ng != 1 || b.g != 1)
      || (rGrp r && !b.gscore && decide (gsz < 2)) || (full && b.gscore && !(rGrp r)) || ((rCand r || go) && decide (8 < b.g)), 4, 48, 3),
    (full && decide ((if grouped then b.g * gsz else b.e) < need), 4, 48, 4),
    (full && (b.ovf == 3 || (b.ovf == 2) != (b.pcntBase != 0)), 4, 48, 5),
    (full && (decide (4 < b.nsh) || usedIdx.any (fun x => decide (x < b.e)) || !(usedIdx.Nodup) || (b.shw.take b.nsh).any (fun w => !(finF32 w))
      || (b.shIdx.drop b.nsh).any (· != 0) || (b.shw.drop b.nsh).any (· != 0) || decide (b.e < b.nullFirst + b.nullCount)), 4, 48, 6),
    ((full && (rBiasEn r != (b.biasBase != 0) || (b.nsh == 0 && b.shBase != 0) || decide (b.gateBase % 32 ≠ 0) || decide (b.loadBase % 4 ≠ 0)))
      || decide (rPtr r 4 % 128 ≠ 0), 4, 48, 7),
    (decide (16384 < t0 + n), 4, 16, 8), rsv 16 8 p ((2 ^ 64 - 1) - (2 ^ 21 - 1)) 4 8, (!(shapeIs di 0 eIn n), 4, 24, 8),
    (!(if go then shapeIs dd 0x11 b.g n else shapeIs dd 0x13 128 n), 4, 32, 8),
    (if rCand r then !(shapeIs (descAt s (rPtr r 3)) 0x11 b.g n) else rPtr r 3 != 0, 4, 40, 8) ] ++ idxBad s r 8 ++
  [ (!b.rsv, 4, 48, 8) ] ++ spanBad s r 9 ++ [ areaOut s 4 9 false (rPtr r 4) 128 ] ++
  (if go then [] else
    [ (rBiasEn r && !(mayReach s false b.biasBase (4 * b.e)), 8, 48, 9), areaOut s 4 9 true (b.gateBase + 32 * t0) (32 * n),
      areaOut s 4 9 true (b.cntBase + t0) n, areaOut s 4 9 true (b.shBase + t0) (if b.nsh = 0 then 0 else n), areaOut s 4 9 true b.loadBase (4 * b.e),
      areaOut s 4 9 false b.pcntBase (if b.ovf = 2 then b.e else 0), areaOut s 4 9 false (b.flagsBase + t0) n ])

/-- SORT (R181). -/
def sortRows (s : State) (r : Record) : List Cause :=
  let gw := bit (rParam r) 0
  let d1 := descAt s (rPtr r 1)
  let d2 := descAt s (rPtr r 2)
  let d3 := descAt s (rPtr r 3)
  let need := if gw then d1.sz 1 else 8 * d1.sz 1
  [ rsv 16 8 (rParam r) ((2 ^ 64 - 1) - (2 ^ 14 - 1)) 4 1 ] ++ idxBad s r 1 ++
  [ (rPtr r 4 != 0, 4, 48, 1), (!(rowsOf d1 (if gw then 32 else 128)), 4, 24, 2), (!(rowsOf d2 32) || decide (d2.sz 1 < need), 4, 32, 2),
    (!(rowsOf d3 16) || decide (d3.sz 1 < need + 1), 4, 40, 2) ] ++
  modelBad s (rsModel r) (rsLayer r) 16 16 3 ++ spanBad s r 4

/-- PLAN (R181). -/
def planRows (s : State) (r : Record) : List Cause :=
  let d (i : Nat) : Desc := descAt s (rPtr r i)
  [ rsv 16 8 (rParam r) ((2 ^ 64 - 1) - (2 ^ 13 - 1)) 4 1 ] ++ idxBad s r 1 ++
  [ (!(rowsOf (d 1) 16), 4, 24, 2), (!(rowsOf (d 2) 16) || decide ((d 2).sz 1 < (d 1).sz 1 - 1 + 4), 4, 32, 2),
    (!(rowsOf (d 3) 16) || decide ((d 3).sz 1 < (d 4).sz 1), 4, 40, 2), (!(rowsOf (d 4) 16), 4, 48, 2) ] ++
  modelBad s (rModel r) (rLayer r) 16 16 3 ++ spanBad s r 4

/-- CPR and RB of the live registers (R174, R184). -/
def cprNow (s : State) : Nat := fld s Reg.SORT_PLAN_ROW 27 24

/-- The areas of an exchange block at their declared capacities (R441). -/
def xbAreas (s : State) (i row : Nat) (x : XBlk) : List Cause :=
  [ areaOut s i row true x.arrBase (16 * x.arrCap), areaOut s i row false x.chunkList (8 * ceilDiv x.arrCap x.cpb), areaOut s i row true x.wlBase (32 * x.wlCap),
    areaOut s i row true x.tagArea (8 * x.tagCap), areaOut s i row false x.planBase (if x.planBase = 0 then 0 else 64) ]

/-- A misaligned exchange block or area (R218). -/
def xbMis (a : Addr) (x : XBlk) : Bool :=
  decide (a % 64 ≠ 0) || decide (x.arrBase % 16 ≠ 0) || decide (x.wlBase % 32 ≠ 0) || decide (x.planBase % 64 ≠ 0)

/-- SEND, RECV, FORWARD and FETCH (R219). -/
def xchgRows (s : State) (r : Record) : List Cause :=
  let op := rOp r
  let srv := op == 0x30 && bit (rParam r) 13
  let x := xBlock s r
  let rb := fld s Reg.SORT_PLAN_ROW 23 0
  let row := roundUp rb 64
  let d (i : Nat) : Desc := descAt s (rPtr r i)
  let mask := (2 ^ 64 - 1) - (if op = 0x28 then 2 ^ 23 - 1 else if op = 0x30 then 2 ^ 14 - 1 else 2 ^ 13 - 1)
  let ptr := match op with
    | 0x28 => [(!(rowsOf (d 1) 16), 4, 24, 1), (!(rowsOf (d 2) 32), 4, 32, 1), (!(flat2 (d 3)), 4, 40, 1)]
    | 0x29 => [(!(rowsOf (d 1) 16), 4, 24, 1), (!(rowsOf (d 2) row), 4, 32, 1), (!(rowsOf (d 3) (32 + row)), 4, 40, 1)]
    | 0x2A => [(!(rowsOf (d 1) 32), 4, 24, 1), (!(rowsOf (d 2) 16), 4, 32, 1), (!(rowsOf (d 3) (32 + row)), 4, 40, 1)]
    | _ => [(!(rowsOf (d 1) 16), 4, 24, 1), (rPtr r 2 != 0, 4, 32, 1), (rPtr r 3 != 0, 4, 40, 1)]
  let planOk := if op = 0x28 then x.planBase == rPtr r 1 else !(op == 0x29 || srv) || x.planBase != 0
  [ rsv 16 8 (rParam r) mask 4 1 ] ++ ptr ++ idxBad s r 1 ++ [ (!x.rsv, 4, 48, 1),
    (decide (4 < x.cbClass) || x.cpr != cprNow s || decide (32768 < x.rrb) || decide (131072 < rb) || xbMis (rPtr r 4) x || !planOk, 4, 48, 2) ] ++
  modelBad s (rModel r) (rLayer r) 16 16 3 ++
  [ (op == 0x28 && !(cntGiven s (rPar r 22 13)), 8, 17, 4) ] ++ spanBad s r 4 ++ [ areaOut s 4 4 false (rPtr r 4) 64 ] ++ xbAreas s 4 4 x

/-- COMBINE and COMBINE_ACK (R238). -/
def combRows (s : State) (c : ListCtx) (r : Record) : List Cause :=
  let ack := rOp r == 0x39
  let b := cBlock s r
  let x := parseXb (rdN s (rPtr r 3) 64)
  let dd := descAt s (rPtr r 1)
  let dg := descAt s (rPtr r 2)
  let w := dd.sz 0
  let n := dd.sz 1
  let t0 := rCTok r
  let re := rResEn r
  let sel := c.recs.find? (fun q => rOp q == 0x10 && !(rGonly q) && bit (rParam q) 6 == rHalf r)
  let selDiff := match sel with | some q => (selBlock s q).nsh != b.nsh || (selBlock s q).shw != b.shw || (selBlock s q).shBase != b.shBase | none => false
  [ rsv 16 8 (rParam r) ((2 ^ 64 - 1) - (2 ^ 36 - 1)) 4 1, (dd.idxMode != 0 || decide (2 < dd.ndim), 4, 24, 1), (dg.idxMode != 0, 4, 32, 1),
    (!x.rsv, 4, 40, 1), (!b.rsv, 4, 48, 1),
    (decide (4 < rRfmt r), 4, 17, 2), (!(decide (dd.fmt ≤ 0x0A)), 4, 24, 2), (re && decide (4 < b.resFmt), 4, 48, 2),
    (decide (w * fmtBytes (rRfmt r) ≠ x.rrb) || decide (widthLimit (fld s Reg.COMB_CFG 1 0) < w) || (fmtMx dd.fmt && decide (w % 32 ≠ 0)), 4, 24, 3),
    (decide (16384 < n) || decide (16384 < t0 + n), 4, 18, 4), (!(shapeIs dg 0 8 n), 4, 32, 4),
    (decide (4 < b.nsh) || (b.shw.take b.nsh).any (fun v => !(finF32 v)) || (b.shw.drop b.nsh).any (· != 0)
      || (if b.nsh = 0 then b.shBase != 0 || b.shRes != 0 || b.shWait != 0 || b.shTarget != 0 else b.shBase == 0 || b.shRes == 0), 4, 48, 5),
    ((if re then b.resBase == 0 || b.resRowB == 0 || decide (b.resRowB < w * fmtBytes b.resFmt) else b.resBase != 0 || b.resRowB != 0 || b.resFmt != 0)
      || decide (b.slotBase % 128 ≠ 0) || decide (b.shRes % 64 ≠ 0) || decide (b.resBase % 64 ≠ 0) || decide (b.resRowB % 64 ≠ 0)
      || decide (rPtr r 4 % 128 ≠ 0), 4, 48, 6),
    (xbMis (rPtr r 3) x, 4, 40, 6), (!ack && (b.ackWait != 0 || b.ackTarget != 0), 4, 48, 7), (selDiff, 6, 48, 8) ] ++
  modelBad s (rModel r) (rLayer r) 16 16 9 ++
  [ ((b.nsh != 0 && !(cntGiven s b.shWait)) || (ack && !(cntGiven s b.ackWait)), 8, 48, 10) ] ++ spanBad s r 10 ++
  [ areaOut s 3 10 false (rPtr r 3) 64, areaOut s 4 10 false (rPtr r 4) 128, areaOut s 4 10 false b.slotBase (128 * n), areaOut s 4 10 false (b.cntBase + t0) n,
    areaOut s 4 10 false (b.shBase + t0) (if b.nsh = 0 then 0 else n), areaOut s 4 10 false b.shRes (b.nsh * n * roundUp x.rrb 64),
    areaOut s 4 10 false b.resBase (if re then n * b.resRowB else 0), areaOut s 4 10 false b.planBase 64 ] ++ xbAreas s 3 10 x

/-- MOVE (R68, R43, R284). -/
def moveRows (s : State) (r : Record) : List Cause :=
  let ds := descAt s (rPtr r 1)
  let dd := descAt s (rPtr r 2)
  [ (rParam r != 0, 4, lowByte 16 8 (rParam r) (2 ^ 64 - 1), 0), (ds.idxMode == 2, 4, 24, 0),
    (dd.idxMode == 1 || ((fmtInt ds.fmt || fmtInt dd.fmt) && ds.fmt != dd.fmt), 4, 32, 0), (rPtr r 3 != 0, 4, 40, 0), (rPtr r 4 != 0, 4, 48, 0) ]
    ++ spanBad s r 0

/-- DISPATCH (R255). -/
def dispatchRows (s : State) (r : Record) : List Cause :=
  [ rsv 16 8 (rParam r) ((2 ^ 64 - 1) - (2 ^ 13 - 1)) 4 1, (!(rowsOf (descAt s (rPtr r 1)) 16), 4, 24, 1), (!(rowsOf (descAt s (rPtr r 2)) 16), 4, 32, 1) ] ++
  idxBad s r 1 ++ [ (rPtr r 3 != 0, 4, 40, 1), (rPtr r 4 != 0, 4, 48, 1) ] ++ modelBad s (rModel r) (rLayer r) 16 16 4 ++ spanBad s r 5

/-- Groups 0 to 2 lie in the partition whole; the others hold members only (R242). -/
def groupOut (s : State) (g : Nat) : Bool := decide (g ≤ 2) && (collMembers s false g).length != (if g = 2 then 64 else 8)

/-- REDUCE_STATS (R255). -/
def reduceRows (s : State) (r : Record) : List Cause :=
  let op := rPar r 3 0
  let g := rPar r 6 4
  let bcn := bit (rParam r) 7
  let d1 := descAt s (rPtr r 1)
  let d2 := descAt s (rPtr r 2)
  let fmtOk := if op ≤ 4 then d1.fmt == 0x10 else if op ≤ 7 then d1.fmt == 0 else d1.fmt == 0x13 && d1.sz 0 == 16
  let elems := if op = 8 then d1.count / 16 else d1.count
  let lap := (spans d1).any (fun a => (spans d2).any (fun b => overlap a.1 a.2 b.1 b.2))
  [ (decide (8 < op) || g == 7, 4, 16, 1), rsv 16 8 (rParam r) ((2 ^ 64 - 1) - (2 ^ 19 - 1)) 4 1, (!fmtOk, 4, 24, 1),
    (d2.size != d1.size || d2.fmt != d1.fmt || lap, 4, 32, 1) ] ++ idxBad s r 1 ++
  [ (rPtr r 3 != 0, 4, 40, 1), (rPtr r 4 != 0, 4, 48, 1),
    (bcn && (g != 6 || op == 8), 4, 16, 2), (bcn && decide (2 < elems), 4, 24, 2),
    (!(rPar r 18 18 == 1) && rPar r 17 8 != 0, 4, 17, 3), (rPar r 18 18 == 1 && bcn, 4, 18, 3),
    (groupOut s g, 8, 16, 5), (rPar r 18 18 == 1 && !(cntGiven s (rPar r 17 8)), 8, 17, 5) ] ++ spanBad s r 5

/-- The rows of an opcode. -/
def tableRows (s : State) (c : ListCtx) (r : Record) : List Cause :=
  match rOp r with
  | 0x01 => scoreRows s r | 0x02 => scoreRows s r | 0x08 => sfuRows s r | 0x10 => selectRows s r | 0x18 => sortRows s r | 0x20 => planRows s r
  | 0x28 => xchgRows s r | 0x29 => xchgRows s r | 0x2A => xchgRows s r | 0x30 => xchgRows s r
  | 0x38 => combRows s c r | 0x39 => combRows s c r | 0x40 => moveRows s r | 0x48 => dispatchRows s r | 0x49 => reduceRows s r
  | _ => []

/-! ### The worst-case time of a record (R342) -/

/-- The barrier latency of the smallest level that holds a partition (R239, R256). -/
def barLatency (s : State) : Nat := match collTop 6 s.part.members with | 0 => 240 | 1 => 960 | 2 => 2240 | _ => 4800

/-- reduce_cycles of R256 for a fabric collective. -/
def reduceCycles (s : State) (op g bytes esz : Nat) : Nat :=
  let ms := collMembers s false g
  let rate (k : Nat) : Nat := if k = 0 then 320 else 280
  let f (k : Nat) : Nat := match k with | 0 => 1200 | 1 => 4000 | _ => 9600
  let p (k : Nat) : Nat := (ms.map (fun d => (stageOf k ms d).length)).foldl max 1
  let up := (stagesOf g ms).map (fun k =>
    let by' := if op = 5 ∧ k = 3 then bytes / 2 else bytes
    let seg := roundUp (ceilDiv by' (p k)) (max 1 esz)
    let pk := max 1 (ceilDiv seg 4096)
    2 * ceilDiv ((p k - 1) * (seg + 64 * pk)) (rate k) + 2 * f k)
  let pb := bytes + 64 * ceilDiv bytes 4096
  let down := (stagesOf g ms).dropLast.map (fun k =>
    if k = 0 then 2 * (ceilDiv pb 320 + 1200) else ceilDiv ((p k - 1) * pb) (rate k) + f k)
  96 + total up + total down

/-- The largest WB4K among the placement lines this slice directs for a model and layer (R342). -/
def maxWb4k (s : State) (model layer : Nat) : Nat :=
  ((s.ll.filter (fun x => x.dir && !x.next && x.epoch == curEpoch s && bits (lineKey x.data) 28 16 == layer + model * 2 ^ 8)).map
    (fun x => lineWb4k x.data)).foldl max 0

/-- The bound of a COMMIT with every count at its largest (R280, R342): FETCH out-records as the list's PLANs and the replica slots allow, every slot
resident, the experts of the list's SELECTs, a bias update where one of them can drive it (DEDUCED, log entry 99). -/
def commitBound (s : State) (c : ListCtx) (r : Record) : Nat :=
  let rs := (verOf s (curEpoch s)).rs
  let plans := c.recs.filter (fun q => rOp q == 0x20)
  let f := if flag s Reg.SORT_PLAN_CFG 0 then total (plans.map (fun q => min rs ((descAt s (rPtr q 2)).sz 1 - 4))) else 0
  let sels := c.recs.filter (fun q => rOp q == 0x10 && !(rGonly q))
  let e := (sels.map (fun q => (selBlock s q).e)).foldl max 0
  let u := b2n (flag s Reg.SCORE_SEL_LOOP_CTL 0 && sels.any rBiasEn)
  800 + 32 * rPar r 47 43 + 64 * f + 16 * rs + ceilDiv e 16 * (1 + u)

/-- The packets a command may send over a round trip: none where its operands allow none (R220). -/
def roundTrip (npkt : Nat) (extra : Nat) : Nat := if npkt = 0 then 0 else extra + 9600

/-- The bound of a record with every size at its largest (R284, R342). A SEND posts at most one work record for each out-record and sends nothing where the
out-list can hold none; a DISPATCH may send a count record and a bundle record, each in a packet of its own, for every run (R165, R218, R253). -/
def worstCase (s : State) (r : Record) : Nat :=
  let d (i : Nat) : Desc := descAt s (rPtr r i)
  let rows (i : Nat) : Nat := (d i).sz 1
  let da := d 1
  let dw := d 2
  let rb := fld s Reg.SORT_PLAN_ROW 23 0
  let pk := ceilDiv rb 4096
  let deg := scoreDegraded s
  let sh := scoreShape deg (flag s Reg.SCORE_CFG 0) r da dw
  match rOp r with
  | 0x01 => scoreTime deg r da dw sh
  | 0x02 =>
    let p := if rPar r 28 26 = 2 then 64 else 8
    scoreTime deg r da dw sh + 2 * ceilDiv ((p - 1) * rows 1 * rows 2 * 32) (p * 320) + 1200
  | 0x08 => sfuCycles (rPar r 3 0) (rPar r 6 4) (bit (rParam r) 7) da.count (rows 1) (da.sz 0) (rows 1)
  | 0x10 => selectCycles r (selBlock s r) (rows 1) (da.sz 0)
  | 0x18 =>
    let gw := bit (rParam r) 0
    let m := if gw then rows 1 else 8 * rows 1
    sortCycles gw (flag s Reg.SORT_LANE_MAP 8) (rows 1) m m
  | 0x20 => planCycles (rows 1 - 1) (rows 4)
  | 0x28 =>
    let n := if rows 1 - 4 = 0 then 0 else rows 2
    96 + ceilDiv (n * rb + 64 * n * pk) 320 + 2 * min (xBlock s r).wlCap (min (rows 1 - 4) n) + roundTrip (n * pk) 208
  | 0x29 => 96 + ceilDiv ((if rows 1 = 0 then 0 else rows 2) * (xBlock s r).cpr * 4160) 320
  | 0x2A =>
    let n := if rows 2 - 1 = 0 then 0 else rows 1
    96 + ceilDiv (n * rb + 64 * n * pk) 320 + roundTrip (n * pk) 208
  | 0x30 => if bit (rParam r) 13 then 64 + ceilDiv (rows 1 * maxWb4k s (rModel r) (rLayer r) * 4160) 192 else 64 + 2 * (rows 1 - 4) + roundTrip (rows 1 - 4) 0
  | 0x40 => moveCycles da dw
  | 0x48 => 96 + ceilDiv ((16 + 64) * (2 * (rows 1 - 1))) 320 + 9600 + barLatency s
  | 0x49 =>
    let op := rPar r 3 0
    let esz := if op = 8 then 16 else 4
    if bit (rParam r) 7 then 32 + barLatency s else reduceCycles s op (rPar r 6 4) (da.count * (if op = 8 then 1 else 4)) esz
  | _ =>
    let x := parseXb (rdN s (rPtr r 3) 64)
    let wide := fld s Reg.COMB_CFG 1 0 != 0
    let c : Comb := { r := r, b := cBlock s r, xb := x, dd := da, dg := dw, n := rows 1, w := da.sz 0, narr := min x.arrCap (8 * rows 1 * x.cpr), wide := wide }
    combCycles c (if wide then 1024 else 512) + (if rOp r = 0x39 then 16 + barLatency s else 0)

/-- A BE record above the bound (R342). -/
def beBound (s : State) (c : ListCtx) (r : Record) : Cause :=
  (rBe r && decide (fld s Reg.PART_SCHED 15 0 * 1024 < (if rOp r = 0xF0 then commitBound s c r else worstCase s r)), 6, 1, 0)

/-! ### A record, and a list (R304, R305) -/

/-- The first structure of a record that the Keeper cannot read: the offset of its pointer, the code, the poisoned word (R303). -/
def structBad (s : State) (r : Record) : Option (Nat × Nat × Option Addr) := (structs r).findSome? (fun x => (readBad s x.2).map (fun b => (x.1, b)))

/-- Why record i fails: code, byte offset, row; the poisoned word where that is why. -/
def recordBad (s : State) (c : ListCtx) (i : Nat) (r : Record) : Option (Nat × Nat × Nat × Option Addr) :=
  match firstBad (stage1 s c i r) with
  | some b => some (b.1, b.2.1, b.2.2, none)
  | none => match structBad s r with
    | some b => some (b.2.1, b.1, 0, b.2.2)
    | none => (firstBad ((rOp r == 0xF0 && pubBad s (rPtr r 1) (rPar r 47 43), 4, 24, 0) :: stage2 s r ++ tableRows s c r ++ [beBound s c r])).map (fun b => (b.1, b.2.1, b.2.2, none))

/-- A list's records from memory. -/
def listAt (s : State) (a : Addr) (n : Nat) : List Record := (List.range n).map (fun i => BitVec.ofNat 512 (rdLe s (a + 64 * i) 64))

/-- The first failing record of a list: its index, code, offset, row, poisoned word. -/
def listBad (s : State) (c : ListCtx) : Option (Nat × Nat × Nat × Nat × Option Addr) :=
  (withIdx 0 c.recs).findSome? (fun e => (recordBad s c e.1 e.2).map (fun b => (e.1, b)))

/-- The structures that the check of a list's records reads: those of the records up to the first that fails, of which it reads none where the record itself
fails (R303, R304). -/
def listReads (s : State) (c : ListCtx) : List (Addr × Nat) :=
  let n := match listBad s c with | some b => b.1 + 1 | none => c.recs.length
  (withIdx 0 (c.recs.take n)).flatMap (fun e => if (firstBad (stage1 s c e.1 e.2)).isSome then [] else (structs e.2).map Prod.snd)

end Sys2Proof.Machine
end

