-- ==== Sys2Proof/Machine/Host.lean ====
section
/-! DEFINITION. Host packets: their header, the checks of R303 and R305, and the opcodes that act on the Keeper's own allocations, steps, light list
and records (spec/10 R297 to R307; spec/13 R364, R370, R372; spec/11 R323, R332; spec/16 R432; spec/15 R405 to R407, R415). -/

namespace Sys2Proof.Machine

/-! ### The header (R298) and the opcodes (R300) -/

def hOp (p : HostPkt) : Nat := bits p.hdr.toNat 7 0
def hBe (p : HostPkt) : Bool := bit p.hdr.toNat 8
def hSeq (p : HostPkt) : Nat := bits p.hdr.toNat 31 16
def hPart (p : HostPkt) : Nat := bits p.hdr.toNat 41 32
def hClient (p : HostPkt) : Nat := bits p.hdr.toNat 60 48
def hLen (p : HostPkt) : Nat := bits p.hdr.toNat 79 64
def hPcrc (p : HostPkt) : Nat := bits p.hdr.toNat 127 96

/-- The LEN parameter bytes; bytes the packet does not give are zero. -/
def hBytes (p : HostPkt) : List Byte := p.params.take (hLen p) ++ List.replicate (hLen p - p.params.length) 0

/-- n parameter bytes from byte i on. -/
def hPar (p : HostPkt) (i n : Nat) : Nat := leAt p.params i n

/-- Scope (true: partition) and LEN of an opcode of R300. -/
def hostOp (op : Nat) : Option (Bool × Nat) :=
  match op with
  | 0x00 => some (false, 0) | 0x01 => some (false, 0) | 0x10 => some (true, 16) | 0x11 => some (true, 4) | 0x12 => some (true, 4)
  | 0x20 => some (true, 16) | 0x21 => some (true, 4) | 0x22 => some (true, 4) | 0x30 => some (true, 16) | 0x40 => some (false, 32)
  | 0x50 => some (false, 4) | 0x51 => some (false, 4) | 0x52 => some (false, 4) | 0x53 => some (false, 4) | 0x60 => some (true, 16)
  | 0x61 => some (true, 16) | 0x70 => some (false, 0) | 0x80 => some (true, 24) | 0x81 => some (true, 4) | 0x82 => some (true, 4)
  | 0x83 => some (true, 16) | 0x84 => some (true, 4) | 0x90 => some (false, 8)
  | _ => none

/-- Reserved bits of the header (R298). -/
def hdrRsv : Nat :=
  127 * 2 ^ 9 + 63 * 2 ^ 42 + 7 * 2 ^ 61 + 0xFFFF * 2 ^ 80 + (2 ^ 128 - 1) * 2 ^ 128

/-- Checks 1 to 4 of R303. -/
def hdrChecks (p : HostPkt) : List Cause :=
  let op := hostOp (hOp p)
  let part := match op with | some o => o.1 | none => true
  let len := match op with | some o => o.2 | none => 0
  let crc := if len = 0 then 0 else (crc32c (hBytes p)).toNat
  [ (op.isNone, 3, 0, 0), (hLen p != len, 4, 8, 0), (hPcrc p != crc, 0xC, 12, 0), rsv 0 32 p.hdr.toNat hdrRsv 4 0,
    (hBe p && hOp p != 0x20 && hOp p != 0x80, 4, 1, 0), (!part && hPart p != 0, 4, 4, 0) ]

/-- Check 5 of R303: the partition, and the class where only BE runs (R341, R354). -/
def partChecks (s : State) (p : HostPkt) : List Cause :=
  let part := match hostOp (hOp p) with | some o => o.1 | none => true
  [ (part && (!(assigned s) || hPart p != partId s), 8, 4, 0),
    ((hOp p == 0x20 || hOp p == 0x80) && !(hBe p) && flag s Reg.PART_ID 11, 8, 1, 0) ]

/-! ### Replies and rejections (R299, R305) -/

/-- A reply to a packet. -/
def mkReply (p : HostPkt) (status : Nat) (r : List Nat) : Reply :=
  let v (i : Nat) : W32 := BitVec.ofNat 32 (r.getD i 0)
  { status := status, final := true, uncommitted := false, seq := BitVec.ofNat 16 (hSeq p), part := BitVec.ofNat 10 (hPart p),
    opcode := BitVec.ofNat 8 (hOp p), r0 := v 0, r1 := v 1, r2 := v 2, r3 := v 3, r4 := v 4, r5 := v 5 }

/-- Answer OK with results. -/
def ok (p : HostPkt) (r : List Nat) (s : State) : State := answer (mkReply p 0 r) s

/-- A rejection: code, record index, byte offset, table row; the poisoned word it met, if any (R305, R326). -/
structure Rej where
  code : Nat
  idx : Nat := 0xFFFFFFFF
  off : Nat
  row : Nat := 0
  addr : Option Addr := none
deriving DecidableEq, Repr

/-- Reject a packet: the reply, the count, the REJECT packet; nothing else changes but the detection of a poisoned word. -/
def reject (p : HostPkt) (j : Rej) (s : State) : State :=
  let r := mkReply p j.code [j.idx, j.off, j.row]
  let s := match j.addr with | some a => ueDetect a 0 noStep s | none => s
  logEnter 0x02 0 (replyWords r) (bump Reg.KEEP_REJ_CNT 1 (answer r s))

/-- What an opcode's own rules check, in order: before it reads memory, the pointer it reads by and the ranges, a second pointer and its range, after
it, the records of a list. -/
structure Verdict where
  pre : List Cause
  read : Option Nat := none
  ranges : List (Addr × Nat) := []
  more : Option (Nat × Addr × Nat) := none
  post : List Cause := []
  list : Option (Nat × Nat × Nat × Nat × Option Addr) := none
deriving DecidableEq, Repr

/-- A cause as a rejection. -/
def rejOf (c : Nat × Nat × Nat) : Rej := { code := c.1, off := c.2.1, row := c.2.2 }

/-- The first check that fails; a read whose data the Keeper cannot have ends the checks with its code, at the pointer it reads by (R303). -/
def judge (s : State) (v : Verdict) : Option Rej :=
  match firstBad v.pre with
  | some c => some (rejOf c)
  | none => match v.ranges.findSome? (readBad s) with
    | some b => some { code := b.1, off := v.read.getD 0, addr := b.2 }
    | none => match v.more.bind (fun m => (readBad s m.2).map (fun b => (m.1, b))) with
      | some m => some { code := m.2.1, off := m.1, addr := m.2.2 }
      | none => match firstBad v.post with
        | some c => some (rejOf c)
        | none => v.list.map (fun l => { code := l.2.1, idx := l.1, off := l.2.2.1, row := l.2.2.2.1, addr := l.2.2.2.2 })

/-- Reserved bits of n parameter bytes from byte i on, by their mask. -/
def parRsv (p : HostPkt) (i n mask row : Nat) : Cause := rsv (32 + i) n (hPar p i n) mask 4 row

/-- Every bit of n bytes is reserved. -/
def parZero (p : HostPkt) (i n row : Nat) : Cause := parRsv p i n (2 ^ (8 * n) - 1) row

/-! ### Steps: KILL_STEP, QUERY_STEP, SUBMIT_LIST, RUN_STEP (R289, R301) -/

/-- Counters of two steps' ranges in common. -/
def rangesMeet (a n b m : Nat) : Bool := overlap a n b m

/-- KILL_STEP's rules. -/
def killChecks (p : HostPkt) : Verdict := { pre := [parRsv p 0 4 0xFFFFFFFE 0] }

/-- KILL_STEP: the steps that die are those started and not joined to their commit barrier (R293, R301). -/
def doKill (p : HostPkt) (s : State) : State :=
  let n := (s.steps.filter (fun x => x.live && x.phase != .joined)).length
  raiseKill (if bit (hPar p 0 1) 0 then .killDrop else .killStep) none (ok p [n] s)

/-- What is known of a step: its state, kills, final code (R301). -/
def stepInfo (s : State) (q : Nat) : Option (Nat × Nat × Nat) :=
  match stepAt s (BitVec.ofNat 32 q) with
  | some x => some (b2n x.started, x.kills, 0)
  | none => (s.finished.find? (fun f => f.seq.toNat == q)).map (fun f => (if f.committed then 2 else 3, f.kills, f.code))

/-- QUERY_STEP's rules: no more than 64 steps older than the newest. -/
def queryChecks (s : State) (p : HostPkt) : Verdict :=
  { pre := [(decide (64 < (s.nextSeq - 1 - BitVec.ofNat 32 (hPar p 0 4)).toNat) || (stepInfo s (hPar p 0 4)).isNone, 0xD, 32, 0)] }

/-- QUERY_STEP. -/
def doQuery (p : HostPkt) (s : State) : State :=
  match stepInfo s (hPar p 0 4) with | some i => ok p [i.1, i.2.1, i.2.2] s | none => s

/-- A step as it is accepted. -/
def newStep (s : State) (p : HostPkt) (stepId model layer tokens : Nat) (fl : Bool) (first num : Nat) (recs : List Record) : Step :=
  { seq := s.nextSeq, opcode := BitVec.ofNat 8 (hOp p), hostSeq := BitVec.ofNat 16 (hSeq p), client := hClient p, be := hBe p,
    stepId := BitVec.ofNat 32 stepId, model := model, layer := layer, tokens := tokens, flagEn := fl, cntFirst := first, cntNum := num, recs := recs,
    held := [], resolved := [], phase := .accepted, released := false, completed := 0, kills := 0, reruns := 0, kgen := 0, epoch := false,
    bound := [], poolSnap := [], fetches := [], hits := [], claims := [], claimHits := [],
    streams := [], plansDone := [], buffers := [], build := 0, kept := [], rooms := [], loopVector := none, biases := [], replicas := [], endCode := none,
    preempts := 0, faultKills := 0 }

/-- Accept a step: number it, answer, and wake an idle slice that resumes on its own (R289, R299, R407). -/
def acceptStep (p : HostPkt) (x : Step) (s : State) : State :=
  let s := answer { mkReply p 0 [x.seq.toNat] with final := false } s
  let s := { s with steps := s.steps ++ [x], nextSeq := s.nextSeq + 1 }
  if pwrState s = 1 ∧ flag s Reg.REL_PWR_CFG 1 then wakeUp { bit := 3, reason := 0, link := 0, full := none, reply := none } s else s

/-- What SUBMIT_LIST names. -/
def subBase (p : HostPkt) : Addr := bits (hPar p 0 8) 47 0
def subNrec (p : HostPkt) : Nat := hPar p 8 2
def subFirst (p : HostPkt) : Nat := bits (hPar p 10 2) 9 0
def subNum (p : HostPkt) : Nat := bits (hPar p 12 2) 10 0

/-- What the checks of a SUBMIT_LIST's records know of the list. -/
def subCtx (s : State) (p : HostPkt) : ListCtx :=
  { be := hBe p, cntFirst := subFirst p, cntNum := subNum p, recs := listAt s (subBase p) (subNrec p) }

/-- SUBMIT_LIST's rules (R301, R304). -/
def submitChecks (s : State) (p : HostPkt) : Verdict :=
  let n := subNrec p
  let nOk := decide (1 ≤ n) && decide (n ≤ 16384)
  let first := subFirst p
  let num := subNum p
  let model := bits (hPar p 20 1) 3 0
  { pre :=
      [ (decide (subBase p % 64 ≠ 0), 4, 32, 0), (nOk && !(mayReach s false (subBase p) (64 * n)), 8, 32, 0), parZero p 6 2 0, (!nOk, 4, 40, 0),
        parRsv p 10 2 0xFC00 0, (num == 0 || decide (1024 < first + num), 4, 44, 0),
        ((List.range num).any (fun i => !(cntGiven s (first + i))), 8, 44, 0), parRsv p 12 2 0xF800 0, parZero p 14 2 0,
        parRsv p 20 1 0xF0 0, parZero p 22 2 0 ] ++ modelBad s model (hPar p 21 1) 52 53 0 ++ [(decide (64 ≤ s.steps.length), 1, 0, 0)]
    read := some 32
    ranges := [(subBase p, 64 * n)]
    list := listBad s (subCtx s p) }

/-- SUBMIT_LIST: the list image is kept for reruns (R295). -/
def doSubmit (p : HostPkt) (s : State) : State :=
  acceptStep p (newStep s p (hPar p 16 4) (bits (hPar p 20 1) 3 0) (hPar p 21 1) 0 false (subFirst p) (subNum p) (listAt s (subBase p) (subNrec p))) s

/-- RUN_STEP's rules (R301). -/
def runChecks (s : State) (p : HostPkt) : Verdict :=
  { pre := [ parRsv p 4 1 0xE0 0, (decide (16384 < bits (hPar p 6 2) 14 0), 4, 38, 0), parRsv p 6 2 0x8000 0, parZero p 8 8 0 ]
      ++ modelBad s (bits (hPar p 4 1) 3 0) (hPar p 5 1) 36 37 0 ++ [(decide (64 ≤ s.steps.length), 1, 0, 0)] }

/-- The Keeper's counter range of a basic-level step: the lower half of C0 to C125 for an even STEP_SEQ, the upper for an odd one (R290; log
entry 32). -/
def keeperRange (q : W32) : Nat := 63 * (q.toNat % 2)

/-- RUN_STEP: its records are built when it is enqueued. -/
def doRun (p : HostPkt) (s : State) : State :=
  acceptStep p (newStep s p (hPar p 0 4) (bits (hPar p 4 1) 3 0) (hPar p 5 1) (bits (hPar p 6 2) 14 0) (bit (hPar p 4 1) 4) (keeperRange s.nextSeq) 63 []) s

/-! ### Counters and credit pools (R290, R301, R323) -/

/-- ALLOC_COUNTERS and FREE_COUNTERS. -/
def cntChecks (s : State) (alloc : Bool) (p : HostPkt) : Verdict :=
  let first := bits (hPar p 0 2) 9 0
  let num := bits (hPar p 2 2) 10 0
  { pre := [ parRsv p 0 2 0xFC00 0, (num == 0 || decide (1024 < first + num), 4, 34, 0), parRsv p 2 2 0xF800 0,
      (decide (first < 128) || (alloc && (List.range num).any (fun i => cntGiven s (first + i))), 6, 32, 0),
      (!alloc && s.steps.any (fun x => x.started && rangesMeet first num x.cntFirst x.cntNum), 5, 32, 0) ] }

/-- ALLOC_COUNTERS. -/
def doAllocCnt (p : HostPkt) (s : State) : State :=
  let l := (List.range (bits (hPar p 2 2) 10 0)).map (fun i => bits (hPar p 0 2) 9 0 + i)
  ok p [] { s with cntAlloc := l.foldl (fun a n => insNat n a) s.cntAlloc }

/-- FREE_COUNTERS. -/
def doFreeCnt (p : HostPkt) (s : State) : State :=
  let first := bits (hPar p 0 2) 9 0
  let num := bits (hPar p 2 2) 10 0
  ok p [] { s with cntAlloc := s.cntAlloc.filter (fun n => decide (n < first) || decide (first + num ≤ n)) }

/-- A publication entry lies in a window (R323). -/
def pubInWindow (s : State) (w : Nat) : Bool :=
  s.pub.any (fun e => decide (Config.apertureBase ≤ e.2) && (e.2 - Config.apertureBase) / Config.apertureWindow == w)

/-- ALLOC_CPOOL's rules. -/
def acpChecks (s : State) (p : HostPkt) : Verdict :=
  let n := bits (hPar p 2 2) 11 0
  let cls := hPar p 1 1
  let cp := bits (hPar p 0 1) 5 0
  let dest := bits (hPar p 8 8) 47 0
  { pre := [ parRsv p 0 1 0xC0 0, (decide (4 < cls), 4, 33, 0), (n == 0, 4, 34, 0), parRsv p 2 2 0xF000 0, parZero p 4 4 0,
      (!(mayReach s true dest (8 * n)), 8, 40, 0), parZero p 14 2 0,
      (decide (cp < 16) || (cpoolAt s cp).isSome || s.windows.any (fun w => w.id == cp) || pubInWindow s cp, 6, 32, 0),
      (uniform s && decide (2 < cls), 5, 33, 0) ]
    post := [ ((partialPoison s ((List.range (8 * n)).map (fun i => dest + i))).isSome, 9, 40, 0) ] }

/-- ALLOC_CPOOL: its buffers, mapped into the pool's window, their addresses at DEST (R318, R323). -/
def doAllocCpool (p : HostPkt) (s : State) : State :=
  let n := bits (hPar p 2 2) 11 0
  let cp := bits (hPar p 0 1) 5 0
  match allocBufs (hPar p 1 1) n (some cp) s with
  | (0, l, t) =>
    let t := keeperWrite (wrBytes (bits (hPar p 8 8) 47 0) (l.flatMap (leBytes 8))) t
    ok p [] { t with cpools := insertBy (fun a b => decide (a.id ≤ b.id)) { id := cp, credits := n, size := n, cls := hPar p 1 1, bufs := l } t.cpools }
  | (_, _, t) => reject p { code := 7, off := 34 } t

/-- FREE_CPOOL's rules. -/
def fcpChecks (s : State) (p : HostPkt) : Verdict :=
  let cp := bits (hPar p 0 1) 5 0
  { pre := [ parRsv p 0 1 0xC0 0, parZero p 1 3 0, ((cpoolAt s cp).isNone, 5, 32, 0),
      (s.steps.any (fun x => x.started && x.recs.any (fun r => rCred r != 0 && rCpool r == cp)), 5, 32, 0) ] }

/-- FREE_CPOOL: a window that a publication entry holds keeps its buffers (R323). -/
def doFreeCpool (p : HostPkt) (s : State) : State :=
  let cp := bits (hPar p 0 1) 5 0
  match cpoolAt s cp with
  | none => s
  | some c =>
    let s := { s with cpools := s.cpools.filter (fun x => x.id != cp) }
    ok p [] (if pubInWindow s cp then s else freeBufs c.bufs (unmap cp s))

/-! ### READ_LL (R301) -/

/-- The key and the epoch a READ_LL names. -/
def rllKey (p : HostPkt) : Nat := llKey (bits (hPar p 3 1) 4 4) (bits (hPar p 3 1) 3 0) (hPar p 2 1) (hPar p 0 2)
def rllEpoch (s : State) (p : HostPkt) : Bool := if bit (hPar p 3 1) 5 then !(curEpoch s) else curEpoch s

/-- The line a READ_LL names: of this slice's own replicas the line as last written, held while its slot is occupied (R153, R158, R177). -/
def rllLine (s : State) (p : HostPkt) : Option (BitVec 256) :=
  if bits (hPar p 3 1) 4 4 = 1 then (ownReplicas s).find? (fun l => lineKey l == rllKey p)
  else (llGet s (rllEpoch s p) (rllKey p)).map LLine.data

/-- READ_LL's rules. -/
def rllChecks (s : State) (p : HostPkt) : Verdict :=
  let other := bit (hPar p 3 1) 5
  let held := !other || dual s || prep s
  let dest := bits (hPar p 8 8) 47 0
  { pre := [ (held && (rllLine s p).isNone, 0xD, 32, 0), parRsv p 3 1 0xC0 0, parZero p 4 4 0,
      (!(mayReach s true dest 32), 8, 40, 0), parZero p 14 2 0, (!held, 5, 35, 0) ]
    post := [ ((partialPoison s ((List.range 32).map (fun i => dest + i))).isSome, 9, 40, 0) ] }

/-- READ_LL. -/
def doReadLl (p : HostPkt) (s : State) : State :=
  match rllLine s p with
  | none => s
  | some e => ok p [] (keeperWrite (wrBytes (bits (hPar p 8 8) 47 0) (leBytes 32 e.toNat)) s)

/-! ### Models (R351, R352) -/

/-- The header at an address. -/
def hdrMem (s : State) (a : Addr) : BitVec 1024 := BitVec.ofNat 1024 (rdLe s a 128)

/-- Header fields or reserved bits that R351 does not allow. -/
def hdrBad (h : BitVec 1024) : Bool :=
  bit (hdrAt h 1 1) 7 || hdrAt h 6 2 != 0 || hdrAt h 14 2 != 0 || hdrAt h 30 2 != 0 || hdrAt h 38 2 != 0 || hdrAt h 50 2 != 0 || hdrAt h 64 64 != 0
    || decide (32768 < hdrAt h 2 2 + 1) || decide (0x0A < hdrAt h 4 1) || decide (0x3000000 < hdrAt h 16 4) || decide (0x1000000 < hdrAt h 20 4)
    || decide (hdrAt h 24 6 % 4096 ≠ 0) || decide (16384 < hdrAt h 52 4)
    || (bit (hdrAt h 1 1) 6 && (hdrAt h 5 1 == 0 || !(posF32 (hdrAt h 56 4)) || !(posF32 (hdrAt h 60 4))))

/-- A region the header names lies outside a window, or its SRAM region not in die SRAM (R352). -/
def hdrReach (s : State) (a : Addr) (h : BitVec 1024) : Bool :=
  inWindow s false a 128 && inWindow s false (hdrAt h 8 6) (hdrAt h 16 4) && inWindow s true (hdrAt h 8 6 + Config.outOffset h) (hdrAt h 20 4)
    && inWindow s false (hdrAt h 32 6) (32 * hdrAt h 40 4) && inWindow s false (hdrAt h 44 6) (4 * hdrAt h 52 4)
    && (hdrAt h 16 4 == 0 || Config.dieSram (hdrAt h 24 6) (hdrAt h 16 4))

/-- The placement lines a header names (R351). -/
def hdrLines (s : State) (h : BitVec 1024) : List (BitVec 256) :=
  (List.range (hdrAt h 40 4)).map (fun i => BitVec.ofNat 256 (rdLe s (hdrAt h 32 6 + 32 * i) 32))

/-- LOAD_MODEL's rules: a failing line's index plus 1 is RESULT2 (R352); a line no gateway of the staged table serves is one (R161; log entry 67). -/
def loadChecks (s : State) (p : HostPkt) : Verdict :=
  let m := bits (hPar p 0 1) 3 0
  let a := bits (hPar p 8 8) 47 0
  let h := hdrMem s a
  let ls := hdrLines s h
  let gw := { verOf s (curEpoch s) with gwBase := stg s Reg.SORT_GW_BASE_LO + stg s Reg.SORT_GW_BASE_HI % 2 ^ 16 * 2 ^ 32 }
  { pre := [ parRsv p 0 1 0xF0 0, parZero p 1 3 0 ]
    read := some 40
    ranges := [(a, 128)] ++ (if hdrReach s a h then [(hdrAt h 32 6, 32 * hdrAt h 40 4)] else [])
    post := [ ((crc32c (rdN s a 128)).toNat != hPar p 4 4, 0xC, 36, 0), (decide (a % 128 ≠ 0) || hdrBad h, 4, 40, 0), (!(hdrReach s a h), 8, 40, 0) ]
      ++ (withIdx 1 ls).map (fun e => (!(lineOk s.part.members e.2 && lineServed s gw e.2), 4, 40, e.1))
      ++ [ parZero p 14 2 0, (s.models.any (fun x => x.id == m && !x.leaving), 6, 32, 0), (prep s, 1, 32, 0) ] }

/-- LOAD_MODEL: the lines go into the next epoch's version, the model is pending. -/
def doLoad (p : HostPkt) (s : State) : State :=
  let m := bits (hPar p 0 1) 3 0
  let h := hdrMem s (bits (hPar p 8 8) 47 0)
  let s := (hdrLines s h).foldl (fun s l => putNext l s) s
  let s := { s with imgFix := s.imgFix.filter (fun e => e.1 != hdrAt h 8 6) }
  ok p [] (raiseBit Reg.PART_MODEL (16 + m) { s with models := s.models ++ [{ id := m, hdr := h, resident := false, leaving := false }] })

/-- UNLOAD_MODEL's rules. -/
def unloadChecks (s : State) (p : HostPkt) : Verdict :=
  let m := bits (hPar p 0 1) 3 0
  { pre := [ parRsv p 0 1 0xF0 0, parZero p 1 3 0, (!(resident s m), 5, 32, 0), (s.steps.any (fun x => x.model == m), 5, 32, 0) ] }

/-- UNLOAD_MODEL: the model is no longer resident; its lines leave at the next flip, which is not one already in stage 1 (R214, R352). -/
def doUnload (p : HostPkt) (s : State) : State :=
  let m := bits (hPar p 0 1) 3 0
  let act := activeModel s == some m
  let s := dropBit Reg.PART_MODEL m
    { s with models := s.models.map (fun x => if x.id = m then { x with resident := false, leaving := true, late := prep s } else x),
             ll := if prep s then s.ll else s.ll.filter (fun x => !(x.next && lBits x.data 0 27 24 == m)) }
  let s := if act then raiseBit Reg.PART_ACTIVE 4 { s with ll := s.ll.map (fun x => { x with pinned := false }) } else s
  ok p [] s

/-- SWITCH_MODEL's rules. -/
def switchChecks (s : State) (p : HostPkt) : Verdict :=
  { pre := [ parRsv p 0 1 0xF0 0, parZero p 1 3 0, (!(resident s (bits (hPar p 0 1) 3 0)), 5, 32, 0) ] }

/-- SWITCH_MODEL: queued behind every accepted step; answered when it has run. -/
def doSwitch (p : HostPkt) (s : State) : State :=
  { s with switchq := s.switchq ++ [{ model := bits (hPar p 0 1) 3 0, behind := s.nextSeq, reply := mkReply p 0 [] }] }

/-! ### Partitions (R337 to R340) -/

/-- A window entry of the partition block as a number of 16 bytes. -/
def blkWin (b : List Byte) (i : Nat) : Nat := leAt b (16 * i) 16

/-- Pool i of the partition block: BASE, COUNT, RING. -/
def blkPool (b : List Byte) (i : Nat) : Nat × Addr × Nat × Addr :=
  (i, leAt b (256 + 16 * i) 6, leAt b (268 + 16 * i) 4 % 2 ^ 17, leAt b (262 + 16 * i) 6)

/-- The window entries of a block, in their places (R338, R356). -/
def blkAll (b : List Byte) : List Nat := (List.range 16).map (blkWin b)

/-- The valid windows of a block. -/
def blkWins (b : List Byte) : List Nat := (blkAll b).filter (fun e => bit e 96)

/-- Reserved bits of a block (R338). -/
def blkRsv (b : List Byte) : Bool :=
  (List.range 16).any (fun i => let e := blkWin b i
    Nat.land e (0xFFFF * 2 ^ 48 + 63 * 2 ^ 98 + 0xFFFFFF * 2 ^ 104) != 0 || (!(bit e 96) && e != 0))
  || (List.range 6).any (fun i => decide (2 ^ 17 ≤ leAt b (268 + 16 * i) 4)) || leAt b 366 2 != 0 || decide (2 ^ 16 ≤ leAt b 368 4)
  || (b.drop 372).any (fun x => x != 0)

/-- Values a block may not hold (R339 row 3). -/
def blkBad (b : List Byte) (poolEn : Bool) : Bool :=
  let ws := blkWins b
  let rg (e : Nat) : Nat × Nat := (bits e 47 0, bits e 95 64 * 4096)
  ws.any (fun e => (rg e).2 == 0 || decide ((rg e).1 % 4096 ≠ 0))
  || (withIdx 0 ws).any (fun x => (withIdx 0 ws).any (fun y => x.1 != y.1 && overlap (rg x.2).1 (rg x.2).2 (rg y.2).1 (rg y.2).2))
  || (if poolEn then !(poolsValid ws ((List.range 6).map (blkPool b))) else leAt b 256 96 != 0)
  || decide (leAt b 368 4 % 2 ^ 16 = 0) || decide (leAt b 352 4 / 2 ^ 16 < 65) || decide (leAt b 356 4 / 2 ^ 16 < 1)

/-- A window over the command rings, the hold area or the Keeper region (R339 row 4). -/
def blkPriv (b : List Byte) : Bool :=
  (blkWins b).any (fun e => overlap (bits e 47 0) (bits e 95 64 * 4096) Config.stagingBase Config.poolRegionOff)

/-- The members a map of 16 KiB names (R337). -/
def mapMembers (m : List Byte) : List Nat :=
  (withIdx 0 m).flatMap (fun e => ((List.range 8).filter (fun b => bit e.2.toNat b)).map (fun b => 8 * e.1 + b))

/-- The partition has an accepted step, a resident or pending model, allocated counters or credit pools (R339 row 5). -/
def partBusy (s : State) : Bool :=
  assigned s && (!s.steps.isEmpty || s.models.any (fun m => !m.leaving) || !s.cntAlloc.isEmpty || !s.cpools.isEmpty)

/-- PART_CONFIG's rules; RESULT2 is the row of R339's table. -/
def partChecks' (s : State) (p : HostPkt) : Verdict :=
  let op := bits (hPar p 2 1) 1 0
  let leave := op == 1
  let blk := bits (hPar p 8 8) 47 0
  let map' := bits (hPar p 16 8) 47 0
  let en := bit (hPar p 3 1) 2
  let b := rdN s blk 512
  let m := rdN s map' 16384
  let state : List Cause :=
    [ ((leave || bits (hPar p 0 2) 9 0 != partId s) && partBusy s, 5, if leave then 34 else 32, 5),
      (!leave && en && assigned s && (!s.steps.isEmpty || !s.cpools.isEmpty), 5, 35, 6) ]
  let head : List Cause :=
    [ parRsv p 0 2 0xFC00 1, (decide (1 < op), 4, 34, 1), parRsv p 2 1 0xFC 1, parRsv p 3 1 0xF8 1 ]
  if leave then { pre := head ++ [parZero p 3 21 1, parZero p 24 8 1] ++ state }
  else
    { pre := head
      read := some 40
      ranges := [(blk, 512)]
      more := some (48, map', 16384)
      post := [ ((crc32c (b ++ m)).toNat != hPar p 4 4, 0xC, 36, 2), (decide (blk % 512 ≠ 0) || blkRsv b, 4, 40, 1), (blkBad b en, 4, 40, 3),
          (blkPriv b, 8, 40, 4), parZero p 14 2 1, (decide (map' % 64 ≠ 0), 4, 48, 1), (!((mapMembers m).contains (ownDa s)), 4, 48, 3),
          parZero p 22 2 1, parZero p 24 8 1 ] ++ state }

/-- Write a register live and staged at once (R340, R356). -/
def setBoth (off v : Nat) (s : State) : State := setReg off v (stageReg off v s)

/-- Stage the pool entries of a block (R315, R340). -/
def stagePools (b : List Byte) (s : State) : State :=
  (List.range 6).foldl (fun s i =>
    let e := blkPool b i
    stageReg (Reg.COMB_POOL_RING_HI i) (e.2.2.2 / 2 ^ 32) (stageReg (Reg.COMB_POOL_RING_LO i) (e.2.2.2 % 2 ^ 32)
      (stageReg (Reg.COMB_POOL_CNT i) e.2.2.1 (stageReg (Reg.COMB_POOL_BASE_HI i) (e.2.1 / 2 ^ 32) (stageReg (Reg.COMB_POOL_BASE_LO i) (e.2.1 % 2 ^ 32) s))))) s

/-- Return every buffer that published entries hold; the publication table is empty (R340). -/
def clearPub (s : State) : State :=
  let ws := (s.windows.filter (fun w => pubInWindow s w.id && (cpoolAt s w.id).isNone))
  let l := (s.pubBufs.map Prod.snd ++ ws.flatMap Window.bufs).dedup
  giveBack l { s with pub := [], pubBufs := [], windows := s.windows.filter (fun w => !(ws.any (fun x => x.id == w.id))) }

/-- The publication table in memory is empty (R291, R340). -/
def wipePub (s : State) : State :=
  let base := addrReg s Reg.KEEP_PUB_LO
  if base = 0 then s else keeperWrite (wrBytes base (List.replicate 512 0)) s

/-- The slice belongs to no partition: nothing of the old one is held or counted on, its group's entry and open barriers and its tiles are gone (R336,
R340, R354). -/
def leavePart (s : State) : State :=
  let mine (g : Nat) : Bool := assigned s && g == partId s
  let s := { s with groups := s.groups.filter (fun g => !(mine g.id)), insts := s.insts.filter (fun i => !(mine i.id.group)), ing := [] }
  let s := dropBit Reg.KEEP_STAT 3 (clearPub { s with hold := [], rdHeld := [], colls := [], acks := [] })
  let s := setReg Reg.PART_ID 0 (setReg Reg.PART_MODEL 0 (setReg Reg.PART_ACTIVE 0x10 s))
  writeGroups { s with
    part := { members := [], wins := [], acctBase := 0, staged := none }
    models := [], switchq := [], switchRun := none, loops := [], finished := [], heldKill := [], heldKg := none, killDone := true, aborts := [], abortAcks := [], ctrlWait := []
    ll := [], llOwners := [], llReqs := [], homes := [], ownAcks := [] }

/-- The slice joins a partition it did not belong to (R340, R356). -/
def joinPart (p : HostPkt) (b : List Byte) (members : List Nat) (s : State) : State :=
  let fl := hPar p 3 1
  let acct := leAt b 360 6
  let ben := benremin s
  let s := leavePart s
  let s := setReg Reg.PART_ID (bits (hPar p 0 2) 9 0 + 2 ^ 10 + b2n (bit fl 0) * 2 ^ 11 + b2n ben * 2 ^ 12) s
  let s := setFld Reg.KEEP_KGEN 3 0 0 s
  let s := setBoth Reg.PART_SCHED (leAt b 368 4) (setBoth Reg.PART_REG_FAB (leAt b 352 4) (setBoth Reg.PART_REG_MEM (leAt b 356 4) s))
  let s := { s with
    nextSeq := 0, cnt := [], cntAlloc := [], cpools := []
    part := { members := members, wins := blkAll b, acctBase := acct, staged := some (blkAll b, acct, bit fl 0, bit fl 1) }
    fab := { s.fab with tk := 1024 * (fld s Reg.PART_REG_FAB 31 16 : Int) }, memb := { s.memb with tk := 1024 * (fld s Reg.PART_REG_MEM 31 16 : Int) } }
  let s := wipePub s
  let s := if s.pools.any (fun q => !q.owned.isEmpty) then s
    else usePools (bit fl 1) (bit fl 1 || (flag s Reg.COMB_POOL_STAT 1 && !(classLive s))) false s
  writeGroups s

/-- New values for the slice's own partition: the members at once, the rest staged (R340, R356). -/
def setPart (p : HostPkt) (b : List Byte) (members : List Nat) (s : State) : State :=
  let fl := hPar p 3 1
  let s := stageReg Reg.PART_SCHED (leAt b 368 4) (stageReg Reg.PART_REG_FAB (leAt b 352 4) (stageReg Reg.PART_REG_MEM (leAt b 356 4) s))
  let s := if bit fl 2 then wipePub (clearPub s) else s
  writeGroups { s with part := { s.part with members := members, staged := some (blkAll b, leAt b 360 6, bit fl 0, bit fl 1) } }

/-- PART_CONFIG. The Keeper commits the reference after its staging (R356, R432). -/
def doPart (p : HostPkt) (s : State) : State :=
  if bits (hPar p 2 1) 1 0 = 1 then ok p [] (leavePart s) else
  let b := rdN s (bits (hPar p 8 8) 47 0) 512
  let m := mapMembers (rdN s (bits (hPar p 16 8) 47 0) 16384)
  let own := assigned s && bits (hPar p 0 2) 9 0 == partId s
  let s := if own then setPart p b m s else joinPart p b m s
  let s := if bit (hPar p 3 1) 2 then stagePools b s else s
  ok p [] (commitSelf s)

end Sys2Proof.Machine
end

