-- ==== Sys2Proof/Machine/Ingress.lean ====
section
/-! DEFINITION. The ingress interface: STEP beats, tile rows and flag bytes, half signals, the tile timeout (spec/02 R61 to R66; spec/14 R439; spec/13
R366, R372). -/

namespace Sys2Proof.Machine

/-! ### The configuration bound to a tile (R61, R65, R66) -/

/-- COUNT_c of a bound configuration. -/
def ingCount (b : RegMap) (c : Nat) : Nat := bFld b (Reg.SCORE_ING_RANGE c) 30 16
/-- FIRST_c of a bound configuration. -/
def ingFirst (b : RegMap) (c : Nat) : Nat := bFld b (Reg.SCORE_ING_RANGE c) 13 0
/-- N_TOKENS, D_MODEL, FMT. -/
def ingTokens (b : RegMap) : Nat := bFld b Reg.SCORE_ING_SHAPE 14 0
def ingModel (b : RegMap) : Nat := bFld b Reg.SCORE_ING_SHAPE 31 16
def ingFmt (b : RegMap) : Nat := bFld b Reg.SCORE_ING_CTL 9 2
/-- ROW_BYTES (R61). -/
def ingRowBytes (b : RegMap) : Nat := roundUp (ceilDiv (ingModel b * fmtBits (ingFmt b)) 8) 64
/-- Bytes of a row's scales on their 64 B boundary (R61). -/
def ingScaleBytes (b : RegMap) : Nat := if fmtMx (ingFmt b) then roundUp (ingModel b / 32) 64 else 0
/-- Beats of a row (R62). -/
def ingBeats (b : RegMap) : Nat := ingRowBytes b / 64 + ingScaleBytes b / 64
/-- Tokens of half A (R27). -/
def ingHalf (b : RegMap) : Nat := ceilDiv (ingTokens b) 2

/-- The STEP beat of a cluster (R66). -/
def stepBeat (s : State) (x : Step) (c : Nat) : Nat :=
  x.seq.toNat + partId s * 2 ^ 32 + kgen s * 2 ^ 42 + x.layer * 2 ^ 48 + x.model * 2 ^ 56 + ingTokens x.bound * 2 ^ 64
    + ingFirst x.bound c * 2 ^ 80 + ingCount x.bound c * 2 ^ 96

/-! ### A tile's halves (R64, R366) -/

/-- A per-cluster count. -/
def ingGot (l : List (Nat × Nat)) (c : Nat) : Nat := cellGet (fun _ => 0) l c

/-- Rows of a cluster that lie in half A. -/
def rowsA (b : RegMap) (c : Nat) : Nat := min (ingCount b c) (ingHalf b - ingFirst b c)

/-- Every row of half A, of half B, has been written. -/
def halfADone (i : Ingress) : Bool := (List.range 4).all (fun c => decide (rowsA i.bound c ≤ ingGot i.rows c))
def halfBDone (i : Ingress) : Bool :=
  (List.range 4).all (fun c => ingCount i.bound c == rowsA i.bound c || decide (ingCount i.bound c ≤ ingGot i.rows c))

/-- The bytes of token rows from one index to another, each row's scales after its values, and their flag bytes (R366). -/
def tileBytes (s : State) (b : RegMap) (lo hi : Nat) : List Byte × List Byte :=
  let base := bAddr b Reg.SCORE_ING_BASE_LO
  let rb := ingRowBytes b
  let sb := ingScaleBytes b
  let ts := (List.range (hi - lo)).map (· + lo)
  (ts.flatMap (fun t => rdN s (base + t * rb) rb ++ rdN s (base + ingTokens b * rb + t * sb) sb), rdN s (bAddr b Reg.SCORE_ING_FLAG_LO + lo) (hi - lo))

/-- A half is complete: SIG_CNT, and its INGRESS record (R64, R366, R372). -/
def ingSignal (i : Ingress) (half : Bool) (s : State) : State :=
  let lo := if half then ingHalf i.bound else 0
  let hi := if half then ingTokens i.bound else ingHalf i.bound
  let t := tileBytes s i.bound lo hi
  let crc := (crc32c t.1).toNat
  let p := leBytes 4 crc ++ leBytes 2 (hi - lo) ++ t.2
  capEvent 5 0 half i.step.toNat p p.length crc (signal (bFld i.bound Reg.SCORE_ING_CTL 19 10) s)

/-- Replace a tile's entry; one wholly delivered is gone. -/
def setIngress (i : Ingress) (s : State) : State :=
  let whole := (List.range 4).all (fun c => decide (ingCount i.bound c ≤ ingGot i.rows c))
  { s with ing := if whole then s.ing.filter (fun j => j.step != i.step) else s.ing.map (fun j => if j.step = i.step then i else j) }

/-- Signal the halves that are complete; an empty half B goes with half A (R64). -/
def ingHalves (i : Ingress) (s : State) : State :=
  if i.dropping then setIngress i s else
  let a := !i.sigA && halfADone i
  let b := !i.sigB && halfBDone i && (decide (ingHalf i.bound < ingTokens i.bound) || i.sigA || a)
  let s := setIngress { i with sigA := i.sigA || a, sigB := i.sigB || b } s
  let s := if a then ingSignal i false s else s
  if b then ingSignal i true s else s

/-- The step's tile starts: the STEP beats, and the signals of empty halves (R64, R66). -/
def startTile (x : Step) (s : State) : State :=
  let s := (List.range 4).foldl (fun s c => emit (.stepBeat c (BitVec.ofNat 128 (stepBeat s x c))) s) s
  let i : Ingress := { step := x.seq, bound := x.bound, rows := [], beat := [], sigA := false, sigB := false, dropping := false }
  ingHalves i { s with ing := s.ing ++ [i] }

/-! ### Beats (R62, R63, R65, R439) -/

/-- End a step without rerun for a cause met by its tile; of a step already killed every other member is told, and it keeps the code for its end
(R296). -/
def ingEnd (c : KillCause) (q : W32) (s : State) : State :=
  match stepAt s q with
  | none => s
  | some x =>
    if x.live then raiseKill c (some q) s
    else match x.endCode, causeCode c with
      | none, some code => sendAborts q code (modStep q (fun x => { x with endCode := some code }) s)
      | _, _ => s

/-- The address of beat b of token row t (R61). -/
def beatAddr (b : RegMap) (t n : Nat) : Addr :=
  let base := bAddr b Reg.SCORE_ING_BASE_LO
  let rb := ingRowBytes b
  if n < rb / 64 then base + t * rb + 64 * n else base + ingTokens b * rb + t * ingScaleBytes b + 64 * (n - rb / 64)

/-- Write the flag byte of token t (R63); true where the write is aborted (R439). -/
def flagWrite (i : Ingress) (t : Nat) (flag : Byte) (s : State) : Bool × State :=
  let s := raiseIf (decide (3 < flag.toNat)) Reg.SCORE_ING_STAT 2 s
  let a := bAddr i.bound Reg.SCORE_ING_FLAG_LO + t
  let v := if bFld i.bound Reg.SCORE_ING_CTL 1 1 = 1 then flag.toNat % 4 else 0
  match partialPoison s [a] with
  | some p => (true, ueDetect p 1 i.step.toNat (partialAbort (raiseBit Reg.SCORE_ING_STAT 4 s)))
  | none => (false, keeperWrite (wrBytes a (leBytes 1 v)) s)

/-- The ENABLE that governs a cluster's next beat: that of the tile its rows still belong to, else the live one (R70). -/
def ingEnable (s : State) (c : Nat) : Bool :=
  match s.ing.find? (fun i => decide (ingGot i.rows c < ingCount i.bound c)) with
  | some i => bFld i.bound Reg.SCORE_ING_CTL 0 0 == 1
  | none => flag s Reg.SCORE_ING_CTL 0

/-- The level of a cluster's ING_READY line (R62, R70): low while ENABLE = 0 and while the interface does not run. A beat is taken from the
input queue in the CORE cycle it arrives in, so the 16-beat queue is never found full (log entry 59). -/
def ingReady (s : State) (c : Nat) : Bool := keeperUp s && decide (c < 4) && ingEnable s c

/-- Count a beat of a cluster: the row under way, or one more whole row. -/
def countBeat (i : Ingress) (c : Nat) : Ingress :=
  let n := ingGot i.beat c + 1
  if n < ingBeats i.bound then { i with beat := cellSet (fun _ => 0) i.beat c n }
  else { i with beat := cellSet (fun _ => 0) i.beat c 0, rows := cellSet (fun _ => 0) i.rows c (ingGot i.rows c + 1) }

/-- A beat of 64 B that a cluster's ING_READY line let through (R62 to R65). It belongs to the oldest tile whose rows of the cluster are not all
there, also where beats of an earlier, dropped tile never came (DESIGN CHOICE, log entry 49); the flag byte of a dropped beat is not looked at
(DESIGN CHOICE, log entry 50). Beats dropped after the tile's timeout or a poisoned flag byte set ING_DROP and count, and leave ING_OVF (DESIGN CHOICE, log
entry 113). -/
def onBeat (c : Nat) (flag : Byte) (data : List Byte) (s : State) : State :=
  match s.ing.find? (fun i => decide (ingGot i.rows c < ingCount i.bound c)) with
  | none => raiseBit Reg.SCORE_ING_STAT 0 (bump Reg.SCORE_ING_DROP 1 s)
  | some i =>
    if i.dropping then setIngress (countBeat i c) (bump Reg.SCORE_ING_DROP 1 s)
    else
      let n := ingGot i.beat c
      let t := ingFirst i.bound c + ingGot i.rows c
      let s := keeperWrite (wrBytes (beatAddr i.bound t n) ((data ++ List.replicate 64 0).take 64)) s
      let f := if n = 0 then flagWrite i t flag s else (false, s)
      if f.1 then ingEnd .flagPoison i.step (setIngress { countBeat i c with dropping := true } f.2)
      else ingHalves (countBeat i c) f.2

/-- A tile is not complete at its timeout (R65, R362). -/
def ingTimeout (s : State) : State :=
  match s.ing.find? (fun i => !i.dropping && !(i.sigA && i.sigB) && bFld i.bound Reg.SCORE_ING_CTL 31 20 != 0 && (stepAt s i.step).isSome) with
  | none => s
  | some i => ingEnd .ingressTimeout i.step (tdc 4 <| raiseBit Reg.SCORE_ING_STAT 3 (setIngress { i with dropping := true } s))

/-- INGRESS_BEAT: with the line low the cluster keeps its beat (R62, R70). -/
def execIngressBeat (cluster : Nat) (flag : Byte) (data : List Byte) (s : State) : Host.Outcome State Fault Refusal :=
  finish (if ingReady s cluster then onBeat cluster flag data s else s)
/-- ING_TIMEOUT. -/
def execIngTimeout (s : State) : Host.Outcome State Fault Refusal := finish (if keeperUp s then ingTimeout s else s)

end Sys2Proof.Machine
end

