-- ==== Sys2Proof/Machine/Lists.lean ====
section
/-! DEFINITION. The lists the Keeper builds for a basic-level step (spec/01 R27 to R35; spec/02 R61, R66; spec/03 R87, R97; spec/04 R115, R117;
spec/05 R142; spec/06 R178; spec/07 R217; spec/08 R229 to R236; spec/10 R283 to R288; spec/12 R342, R351). What the spec leaves to the Tillor release
and its router-state image is a free value (log entries 6 and 32). -/

namespace Sys2Proof.Machine

/-! ### The ingress configuration of a RUN_STEP (R61, R66, R70) -/

/-- ROW_BYTES of a tile row (R61). -/
def tileRowBytes (d fmt : Nat) : Nat := roundUp (ceilDiv (d * fmtBits fmt) 8) 64
/-- Bytes of a row's MX scales, each row's on its own 64 B boundary (R61). -/
def tileScaleBytes (d fmt : Nat) : Nat := if fmtMx fmt then roundUp (d / 32) 64 else 0
/-- d_model and TOK_FMT of a model header (R351). -/
def hdrModel (h : BitVec 1024) : Nat := hdrAt h 2 2 + 1
def hdrFmt (h : BitVec 1024) : Nat := hdrAt h 4 1
/-- A flag of the header's byte 1 (R351). -/
def hdrFlag (h : BitVec 1024) (b : Nat) : Bool := bit (hdrAt h 1 1) b

/-- The rooms a step keeps over a kill: the tile, the flag vector, the shared result rows (R294). -/
def keptSizes (x : Step) (h : BitVec 1024) (n : Nat) : List Nat :=
  [x.tokens * (tileRowBytes (hdrModel h) (hdrFmt h) + tileScaleBytes (hdrModel h) (hdrFmt h)), x.tokens] ++ Config.keeperRooms n true

/-- Take rooms of the given sizes in turn; none where one cannot be had, with all that was taken for them given back (R318, R322). -/
def takeRooms : List Nat → State → Option (List Addr × List Addr) × State
  | [], s => (some ([], []), s)
  | b :: t, s =>
    match allocRoom b s with
    | (0, a, bufs, u) => match takeRooms t u with
      | (some r, v) => (some (a :: r.1, bufs ++ r.2), v)
      | (none, v) => (none, untake s v)
    | (_, _, _, u) => (none, u)

/-- FIRST_c and COUNT_c of R66. -/
def rangeOf (n c : Nat) : Nat × Nat := let q := ceilDiv n 4; (min (c * q) n, min q (n - min (c * q) n))

/-- The Keeper stages a step's ingress registers and the shared-row counter, and commits the reference (R66, R70, R241, R432). SH_EN stays as it is
staged: Tillor sets it (DESIGN CHOICE, log entry 104). -/
def stageStep (x : Step) (h : BitVec 1024) (kept : List Addr) (s : State) : State :=
  let n := x.tokens
  let tile := kept.getD 0 0
  let fl := kept.getD 1 0
  let ctl := 1 + b2n x.flagEn * 2 + hdrFmt h * 2 ^ 2 + x.cntFirst * 2 ^ 10
  let s := stageBits Reg.SCORE_ING_CTL 0xFFFFF ctl s
  let s := stageReg Reg.SCORE_ING_SHAPE (n + hdrModel h * 2 ^ 16) s
  let s := (List.range 4).foldl (fun s c => stageReg (Reg.SCORE_ING_RANGE c) ((rangeOf n c).1 % 2 ^ 14 + (rangeOf n c).2 * 2 ^ 16) s) s
  let s := stageReg Reg.SCORE_ING_BASE_HI (tile / 2 ^ 32) (stageReg Reg.SCORE_ING_BASE_LO (tile % 2 ^ 32) s)
  let s := stageReg Reg.SCORE_ING_FLAG_HI (fl / 2 ^ 32) (stageReg Reg.SCORE_ING_FLAG_LO (fl % 2 ^ 32) s)
  commitSelf (stageBits Reg.COMB_SH_SIG 0x3FF (x.cntFirst + 11) s)

/-- RES_EN: the model adds the residual in COMBINE and its token format is one COMBINE reads (R231). -/
def resEn (h : BitVec 1024) : Bool := hdrFlag h 1 && decide (hdrFmt h ≤ 4)

/-! ### Placement counts (R137, R151, R154) -/

/-- The PCNT vector of a step over E experts. -/
def pcntBytes (s : State) (x : Step) (e : Nat) : List Byte :=
  (List.range e).map (fun i => BitVec.ofNat 8 (match countLine s x.model x.layer i with | some l => lineCount l | none => 1))

/-! ### Places -/

/-- A half of a step under construction: the step, its model's header, the half. -/
structure KCtx where
  x : Step
  h : BitVec 1024
  half : Bool
deriving DecidableEq, Repr

/-- Token indices of the half: its first, its number (R27). -/
def KCtx.first (c : KCtx) : Nat := if c.half then ceilDiv c.x.tokens 2 else 0
def KCtx.rows (c : KCtx) : Nat := if c.half then c.x.tokens - ceilDiv c.x.tokens 2 else ceilDiv c.x.tokens 2

/-- The alignment of a place: a descriptor's, a selection block's and a combine block's is 128 B, an exchange block's 64 B, a publication block's 16 B
(R52, R147, R218, R237, R287). -/
def placeAlign (p : Nat) : Nat := match p % 64 with | 13 => 64 | 30 => 16 | 31 => 1 | _ => 128

/-- The address of a place. Places: 0 activations, 1 router weights, 2 scores, 3 probabilities, 4 selection block, 5 slot table, 6 sorted entries,
7 run list, 8 out-list, 9 in-list, 10 received counts, 11 inbound rows, 12 bundle buffer, 13 exchange block, 14 output, 15 gates, 16 combine block,
17 gateway entries, 18 gateway runs, 19 token tile, 20 and 21 row maxima before and after their reduction, 22 and 23 row sums, 24 gates
renormalised, 25 counts, 26 centroids, 27 group scores, 28 group list, 29 its selection block, 30 publication block,
31 placement counts. -/
def KCtx.at (c : KCtx) (p : Nat) : Addr :=
  Config.keeperPtr c.x.build (b2n c.half) p (c.x.kept ++ c.x.rooms) % 2 ^ 48 / placeAlign p * placeAlign p

/-- The out-list of the half's PLAN. -/
def KCtx.outList (c : KCtx) : Addr := c.at 8

/-- Bytes of the structure at a place. -/
def placeSize (p : Nat) : Nat := if p % 64 = 13 then 64 else 128

/-- Overwrite n bytes at i with a little-endian number. -/
def setLe (l : List Byte) (i n v : Nat) : List Byte := l.take i ++ leBytes n v ++ l.drop (i + n)

/-- A descriptor over rows of the token tile (R53, R61). -/
def tileDesc (c : KCtx) (first rows : Nat) : List Byte :=
  let d := hdrModel c.h
  let f := hdrFmt c.h
  let rb := tileRowBytes d f
  let sb := tileScaleBytes d f
  let base := c.x.kept.getD 0 0
  let l := descBytes (base + first * rb) f [(d, 1), (rows, rb * 8 / (max 1 (fmtBits f)))]
  if fmtMx f then setLe (setLe l 48 8 (base + c.x.tokens * rb + first * sb)) 56 8 sb else l

/-- An address field of eight bytes, its reserved bits zero, aligned. -/
def setAddr (l : List Byte) (i al v : Nat) : List Byte := setLe l i 8 (v % 2 ^ 48 / al * al)

/-- A binary32 code made finite; made positive and finite. -/
def finiteF32 (v : Nat) : Nat := if bits v 30 23 = 255 then v - 2 ^ 23 else v
def positiveF32 (v : Nat) : Nat := max 1 (finiteF32 (v % 2 ^ 31))

/-- THRESH, GRP, CAND and BIAS_EN of the half's SELECT (R146, R351). -/
def KCtx.selMode (c : KCtx) : Nat :=
  let w := Config.keeperWord c.x.build 2
  (if hdrFlag c.h 3 then bits w 0 0 + 2 ^ 2 else bits w 1 0) + b2n (hdrFlag c.h 6 || bit w 2) * 2 ^ 4

/-- Bytes 56 to 127 of a selection block: what its image gives within the limits of R148, the same in both halves. -/
def KCtx.selPars (c : KCtx) (q : Nat) : List Byte :=
  let l := (Config.routerBlock c.h c.x.layer q ++ List.replicate 128 0).take 128
  let m := if q = 29 then 2 ^ 3 else c.selMode
  let thr := bit m 0
  let kmax := 1 + leAt l 63 1 % 8
  let nsh := leAt l 76 1 % 5
  let grouped := bit m 1 || bit m 2 || bit m 3
  leBytes 2 (leAt l 56 2) ++ leBytes 1 c.x.layer ++ leBytes 1 0 ++ leBytes 2 (leAt l 60 2)
    ++ leBytes 1 (if thr then (1 + leAt l 62 1 % kmax) * 2 ^ 4 else 1 + leAt l 62 1 % 8)
    ++ leBytes 1 ((if thr then kmax else 0) + bits (leAt l 63 1) 5 4 % 3 * 2 ^ 4)
    ++ leBytes 4 (if thr then positiveF32 (leAt l 64 4) else 0)
    ++ leBytes 1 (if grouped then leAt l 68 1 else 0) ++ leBytes 1 (if grouped then leAt l 69 1 else 0)
    ++ leBytes 2 (if bit m 1 then leAt l 70 1 % 2 else 0) ++ leBytes 4 (leAt l 72 4) ++ leBytes 4 nsh
    ++ (List.range 4).flatMap (fun i => leBytes 2 (if i < nsh then leAt l (80 + 2 * i) 2 else 0))
    ++ (List.range 4).flatMap (fun i => leBytes 4 (if i < nsh then finiteF32 (leAt l (88 + 4 * i) 4) else 0)) ++ List.replicate 24 0

/-- What its image gives at a place; `half` names whose. -/
def KCtx.raw (c : KCtx) (half : Bool) (q : Nat) : List Byte :=
  ((Config.keeperBytes c.x.build (b2n half) q (c.x.kept ++ c.x.rooms)) ++ List.replicate 128 0).take (placeSize q)

/-- The selection block at a place (R148): the load counts are one vector for both halves (R139). -/
def KCtx.selBytes (s : State) (c : KCtx) (q : Nat) : List Byte :=
  let p := c.selPars q
  let l := c.raw c.half q
  let bias := (loopAt s c.x.layer).bias
  let own := if hdrFlag c.h 6 ∧ bias ≠ 0 then bias else leAt l 0 6
  let l := setAddr (setAddr l 0 1 (if bit c.selMode 4 then own else 0)) 8 32 (leAt l 8 6)
  let l := setAddr (setAddr l 16 1 (leAt l 16 6)) 24 1 (if leAt p 20 1 = 0 then 0 else leAt l 24 6)
  let l := setAddr (setAddr l 32 4 (leAt (c.raw false q) 32 6)) 40 1 (if bits (leAt p 7 1) 5 4 = 2 then c.at 31 else 0)
  (setAddr l 48 1 (c.x.kept.getD 1 0)).take 56 ++ p

/-- RFMT of the half's COMBINE: one of the five formats (R225, R236). -/
def KCtx.rfmt (c : KCtx) : Nat := bits (Config.keeperWord c.x.build 3) 7 0 % 5

/-- The output format of the half's COMBINE (R40, R238). -/
def KCtx.outFmt (c : KCtx) : Nat := leAt (c.raw c.half 14) 6 1 % 0x0B

/-- W of the half's COMBINE: what its image gives within what W × bytes(RFMT) = RRB, CPR, the width configuration, the MX blocks of the output and the
residual's width allow (R218, R225, R226, R231, R238). -/
def KCtx.width (s : State) (c : KCtx) : Nat :=
  let e := 4096 / fmtBytes c.rfmt
  let lo := (cprNow s - 1) * e
  let most := min (lo + e) (widthLimit (fld s Reg.COMB_CFG 1 0))
  let span := (if resEn c.h then min most (hdrModel c.h) else most) - lo
  let v := leAt (c.raw c.half 14) 8 3
  if fmtMx c.outFmt then lo + 32 * (1 + v % max 1 (span / 32)) else lo + 1 + v % max 1 span

/-- A two-dimensional descriptor at what its image gives for BASE, strides and scales, with the format and the sizes given (R52, R53). -/
def imageDesc (l : List Byte) (fmt n0 n1 : Nat) : List Byte :=
  let al := max 1 (fmtBytes fmt)
  let d (i n : Nat) : List Byte := leBytes 3 n ++ leBytes 5 (if fmtMx fmt && i == 0 then 1 else leAt l (11 + 8 * i) 5)
  let one : List Byte := leBytes 8 1
  leBytes 6 (leAt l 0 6 / al * al) ++ leBytes 1 fmt ++ leBytes 1 2 ++ d 0 n0 ++ d 1 n1 ++ one ++ one ++ one
    ++ (if fmtMx fmt then leBytes 8 (leAt l 48 6) ++ leBytes 8 (leAt l 56 5) else List.replicate 16 0) ++ List.replicate 64 0

/-- The exchange block (R218), with the RRB that the half's COMBINE reads (R225). -/
def KCtx.xchgBytes (s : State) (c : KCtx) : List Byte :=
  let l := c.raw c.half 13
  let l := setAddr (setAddr (setAddr l 0 16 (leAt l 0 6)) 8 1 (leAt l 8 6)) 16 32 (leAt l 16 6)
  let l := setAddr (setAddr l 24 1 (leAt l 24 6)) 40 64 (c.at 8)
  setLe (setLe (setLe l 32 4 (leAt l 32 1 % 5)) 36 4 (c.width s * fmtBytes c.rfmt)) 60 4 0

/-- The first row of the half's slot table, aligned as SLOT_BASE is (R237). -/
def KCtx.slotBase (c : KCtx) : Addr := leAt (c.raw c.half 5) 0 6 / 128 * 128

/-- The combine block (R237), with the selection block's shared experts. -/
def KCtx.combBytes (s : State) (c : KCtx) : List Byte :=
  let b := c.selBytes s 4
  let nsh := leAt b 76 1
  let rb := tileRowBytes (hdrModel c.h) (hdrFmt c.h)
  let r := List.replicate 128 (0 : Byte)
  let r := setAddr (setLe (setLe (setAddr r 0 128 c.slotBase) 8 8 (leAt b 16 8)) 16 8 (leAt b 24 8)) 24 64
    (if nsh = 0 then 0 else leAt (c.raw c.half 16) 24 6)
  let r := setAddr (setAddr r 32 64 (if resEn c.h then c.x.kept.getD 0 0 + c.first * rb else 0)) 40 64 (c.at 8)
  let r := setLe (setLe (setLe r 48 4 (if resEn c.h then rb + hdrFmt c.h * 2 ^ 24 else 0)) 52 4 nsh) 56 16 (leAt b 88 16)
  let r := setLe (setLe r 72 4 (if nsh = 0 then 0 else c.x.cntFirst + 11)) 76 4 (if nsh = 0 then 0 else if c.half then 8 else 4)
  setLe (setLe r 80 4 (if c.half then c.x.cntFirst + 10 else 0)) 84 4 (if c.half then 2 else 0)

/-- What the Keeper writes at a place: what the spec fixes, over what its image gives. The gates and counts that RENORM and COMBINE read are SELECT's own
(R117, R139, R232, R236). -/
def KCtx.bytes (s : State) (c : KCtx) (p : Nat) : List Byte :=
  match p with
  | 0 => tileDesc c c.first c.rows
  | 19 => tileDesc c 0 c.x.tokens
  | 4 => c.selBytes s 4
  | 29 => c.selBytes s 29
  | 5 => setLe (c.raw c.half 5) 0 6 c.slotBase
  | 13 => c.xchgBytes s
  | 14 => imageDesc (c.raw c.half 14) c.outFmt (c.width s) c.rows
  | 15 => descBytes (leAt (c.selBytes s 4) 8 6 + 32 * c.first) 0 [(8, 1), (c.rows, 8)]
  | 24 => descBytes (leAt (c.raw c.half 24) 0 6) 0 [(8, 1), (c.rows, 8)]
  | 25 => descBytes (leAt (c.selBytes s 4) 16 6 + c.first) 0x13 [(1, 1), (c.rows, 1)]
  | 16 => c.combBytes s
  | 31 => pcntBytes s c.x (leAt (c.selPars 4) 0 2 + 1)
  | _ => c.raw c.half p

/-- Write every structure of a half; the PCNT vector with them, so that it always counts the published placements (R151). -/
def writePlaces (c : KCtx) (s : State) : State :=
  (List.range 30 ++ [31]).foldl (fun t p => putAll (wrBytes (c.at p) (c.bytes s p)) t) s

/-- The publication entries, at most sixteen, and their block (R287). -/
def pubsOf (x : Step) : List (Nat × Addr) := ((Config.keeperPubs x.build (x.kept ++ x.rooms)).map (fun e => (e.1 % 64, e.2 % 2 ^ 48))).take 16
def pubBytes (x : Step) : List Byte := (pubsOf x).flatMap (fun e => leBytes 8 e.1 ++ leBytes 8 e.2)

/-! ### Building a list (R27, R35, R342) -/

/-- A list under construction: its records, the signals of each local counter so far, the state its structures are written in. -/
structure LB where
  recs : List Record
  sums : List (Nat × Nat)
  st : State

/-- Signals of a local counter so far. -/
def LB.sum (b : LB) (n : Nat) : Nat := cellGet (fun _ => 0) b.sums n

/-- Add a record that waits for every signal made so far on a counter, the ingress one by its half (R27). -/
def LB.put (c : KCtx) (op param : Nat) (ptrs : List Addr) (wait sig : Nat) (b : LB) : LB :=
  let r : RecSpec := { op := op, be := c.x.be, sat := hdrFlag c.h 0, wait := c.x.cntFirst + wait, sig := c.x.cntFirst + sig,
                       target := if wait = 0 then 1 + b2n c.half else b.sum wait, param := param, ptrs := ptrs }
  { b with recs := b.recs ++ [mkRecord r], sums := cellSet (fun _ => 0) b.sums sig (b.sum sig + 1) }

/-- A descriptor over some rows of another (R342). -/
def cutDesc (s : State) (a : Addr) (first rows : Nat) : List Byte :=
  let d := descAt s a
  let l := setLe (setLe (rdN s a 128) 0 6 ((d.place [0, first, 0, 0, 0]).1)) 16 3 rows
  if fmtMx d.fmt then setLe l 48 6 (d.scaleAt [0, first, 0, 0, 0]) else l

/-- Pointers of a piece: a pointer that is cut names piece k's own descriptor. -/
def cutPtrs (c : KCtx) (places : List (Nat × Bool)) (k : Nat) : List Addr :=
  places.map (fun p => if p.2 then c.at (p.1 + 64 * (k + 1)) else c.at p.1)

/-- Write the descriptors of a piece. -/
def cutWrite (c : KCtx) (places : List (Nat × Bool)) (k first rows : Nat) (s : State) : State :=
  (places.filter Prod.snd).foldl (fun t p => putAll (wrBytes (c.at (p.1 + 64 * (k + 1))) (cutDesc s (c.at p.1) first rows)) t) s

/-- The most rows from a row on whose bound is within the limit; at least one (R342). -/
def cutRows (c : KCtx) (op param : Nat) (places : List (Nat × Bool)) (k first left : Nat) (s : State) : Nat :=
  let lim := bFld c.x.bound Reg.PART_SCHED 15 0 * 1024
  let fits (m : Nat) : Bool :=
    let r := mkRecord { op := op, be := true, wait := 0, sig := 0, target := 0, param := param, ptrs := cutPtrs c places k }
    decide (worstCase (cutWrite c places k first m s) r ≤ lim)
  (((List.range left).map (fun i => left - i)).find? fits).getD 1

/-- The pieces of a BE command. -/
def putPieces (c : KCtx) (op param : Nat) (places : List (Nat × Bool)) (wait sig : Nat) : Nat → Nat → Nat → LB → LB
  | 0, _, _, b => b
  | fuel + 1, k, first, b =>
    let left := c.rows - first
    if left = 0 then b else
    let m := cutRows c op param places k first left b.st
    putPieces c op param places wait sig fuel (k + 1) (first + m)
      (LB.put c op param (cutPtrs c places k) wait sig { b with st := cutWrite c places k first m b.st })

/-- Add a record of an engine whose BE commands are cut by rows (R342). -/
def LB.putCut (c : KCtx) (op param : Nat) (places : List (Nat × Bool)) (wait sig : Nat) (b : LB) : LB :=
  if c.x.be && decide (0 < c.rows) then putPieces c op param places wait sig c.rows 0 0 b
  else LB.put c op param (places.map (fun p => c.at p.1)) wait sig b

/-- Add a record issued whole. -/
def LB.putAt (c : KCtx) (op param : Nat) (places : List Nat) (wait sig : Nat) (b : LB) : LB := LB.put c op param (places.map c.at) wait sig b

/-- HALF, MODEL, LAYER as most parameter words hold them (R217). -/
def KCtx.hml (c : KCtx) : Nat := b2n c.half + c.x.model * 2 + c.x.layer * 2 ^ 5

/-- Scoring: SCORE or SCORE_COUNT, or the three records of centroid scoring (R87, R97). A header that declares a split router and centroid scoring
gets the centroid records, then the split sequence of R115 (DESIGN CHOICE, log entry 100). -/
def putScore (c : KCtx) (b : LB) : LB :=
  let w := Config.keeperWord c.x.build 0
  if hdrFlag c.h 3 then
    let b := b.putCut c 0x01 0 [(0, true), (26, false), (27, true)] 0 12
    let b := LB.put c 0x10 (2 ^ 3 + b2n c.half * 2 ^ 6 + c.first * 2 ^ 7) [c.at 27, c.at 28, 0, c.at 29] 12 13 b
    b.putCut c 0x01 (2 ^ 5 + (bits w 2 0 + 1) * 2 ^ 6 + bits w 31 16 * 2 ^ 10) [(0, true), (1, false), (2, true), (28, true)] 13 1
  else if hdrFlag c.h 2 then b.putAt c 0x02 (bits w 9 8 % 3 * 2 ^ 26) [0, 1, 2] 0 1
  else b.putCut c 0x01 0 [(0, true), (1, false), (2, true)] 0 1

/-- Probabilities: SIGMOID, SOFTMAX, or for a split router the sequence of R115, in a Benremin partition too (DESIGN CHOICE, log entry 89). -/
def putSfu (c : KCtx) (b : LB) : LB :=
  let g := bits (Config.keeperWord c.x.build 1) 2 0 % 7 * 2 ^ 4
  if hdrFlag c.h 4 then b.putCut c 0x08 (1 * 2 ^ 4) [(2, true), (3, true)] 1 2
  else if hdrFlag c.h 2 then
    let b := b.putCut c 0x08 1 [(2, true), (20, true)] 1 14
    let b := b.putAt c 0x49 (7 + g) [20, 21] 14 15
    let b := b.putCut c 0x08 (2 + 2 ^ 7) [(2, true), (22, true), (21, true)] 15 16
    let b := b.putAt c 0x49 (8 + g) [22, 23] 16 17
    b.putCut c 0x08 (3 + 2 ^ 7) [(2, true), (3, true), (23, true)] 17 2
  else b.putCut c 0x08 3 [(2, true), (3, true)] 1 2

/-- SELECT, and RENORM where the model asks for it (R117, R126, R146). -/
def putSelect (c : KCtx) (b : LB) : LB :=
  let w := Config.keeperWord c.x.build 2
  let p := c.selMode + b2n c.half * 2 ^ 5 + b2n c.half * 2 ^ 6 + c.first * 2 ^ 7
  let ptrs := [c.at 3, c.at 5, if hdrFlag c.h 3 then c.at 28 else 0, c.at 4]
  let b := LB.put c 0x10 p ptrs 2 3 b
  if hdrFlag c.h 5 then b.putCut c 0x08 (5 + bits w 63 32 * 2 ^ 8) [(15, true), (24, true), (25, true)] 3 18 else b

/-- The records of a half that stand in the list before its plan is known (rows 1 to 7, 9 to 15 of the list of spec/01). -/
def putHalf (c : KCtx) (b : LB) : LB :=
  let b := putSelect c (putSfu c (putScore c b))
  let b := b.putAt c 0x18 (b2n c.half * 2 + c.x.model * 2 ^ 2 + c.x.layer * 2 ^ 6) [5, 6, 7] (if hdrFlag c.h 5 then 18 else 3) 4
  let b := b.putAt c 0x48 c.hml [7, 10] 4 5
  let b := b.putAt c 0x20 c.hml [7, 8, 9, 10] 5 6
  b.putAt c 0x28 (c.hml + (c.x.cntFirst + 8) * 2 ^ 13) [8, 6, 19, 13] 6 7

/-- The records at a step's start: half A's, then half B's (R27, R35). -/
def stepRecs (x : Step) (h : BitVec 1024) (s : State) : List Record × State :=
  let a : KCtx := { x := x, h := h, half := false }
  let b : KCtx := { x := x, h := h, half := true }
  let s := writePlaces b (writePlaces a s)
  let l := putHalf b (putHalf a { recs := [], sums := [], st := s })
  (l.recs, l.st)

/-! ### What the plan of a half adds (R27, R178, R217, R236, R286) -/

/-- COMBINE's parameter word (R236). -/
def combParam (c : KCtx) : Nat :=
  c.hml + b2n (resEn c.h) * 2 ^ 13 + c.rfmt * 2 ^ 14 + c.first * 2 ^ 22

/-- A record added once its half's PLAN has signalled: waits for that signal. -/
def lateRec (c : KCtx) (op param : Nat) (ptrs : List Addr) (wait target sig : Nat) : Record :=
  mkRecord { op := op, be := c.x.be, sat := hdrFlag c.h 0, wait := c.x.cntFirst + wait, sig := c.x.cntFirst + sig, target := target, param := param,
             ptrs := ptrs }

/-- The half's records after its plan: FETCH as requester and as server, a gateway's SORT and FORWARD, RECV, and COMBINE with its target.
RECV, FORWARD and server FETCH signal C10, which COMBINE_ACK waits for (R221, R235). -/
def planRecs (c : KCtx) (sum : List Byte) (target : Nat) : List Record :=
  let k := 1 + b2n c.half
  let p := c.hml
  (if leAt sum 16 4 = 0 then [] else [lateRec c 0x30 p [c.at 8, 0, 0, c.at 13] 6 k 7])
  ++ (if leAt sum 20 4 = 0 then [] else [lateRec c 0x30 (p + 2 ^ 13) [c.at 9, 0, 0, c.at 13] 6 k 10])
  ++ (if leAt sum 32 4 = 0 then [] else
      [ lateRec c 0x18 (1 + b2n c.half * 2 + c.x.model * 2 ^ 2 + c.x.layer * 2 ^ 6) [c.at 12, c.at 17, c.at 18] 6 k (19 + b2n c.half),
        lateRec c 0x2A p [c.at 17, c.at 18, c.at 12, c.at 13] (19 + b2n c.half) 1 10 ])
  ++ [ lateRec c 0x29 p [c.at 9, c.at 11, c.at 12, c.at 13] 6 k 10,
       lateRec c (if c.half then 0x39 else 0x38) (combParam c) [c.at 14, if hdrFlag c.h 5 then c.at 24 else c.at 15, c.at 13, c.at 16] 8 target 9 ]

/-- COMMIT: it waits for COMBINE_ACK on C9, and for every SEND and requester FETCH on C7 (R286). -/
def commitFor (x : Step) (sends : Nat) : Record :=
  let pubs := pubsOf x
  let blk := if pubs.isEmpty then 0 else ({ x := x, h := 0, half := false } : KCtx).at 30
  mkRecord { op := 0xF0, be := x.be, wait := x.cntFirst + 9, sig := 0, target := 2,
             param := x.cntFirst + 7 + (sends % 2 ^ 32) * 2 ^ 10 + 2 ^ 42 + pubs.length * 2 ^ 43, ptrs := [blk] }

end Sys2Proof.Machine
end

