-- ==== Sys2Proof/Machine/Keeper.lean ====
section
/-! DEFINITION. The Keeper's own actions: boundaries, enqueueing, plan-derived targets, COMMIT, kill and rerun, and the model switch (spec/10 R281 to
R296; spec/12 R352, R353; spec/14 R383, R391; spec/16 R425 to R431). -/

namespace Sys2Proof.Machine

/-! ### Placing records in rings (R281, R282, R288) -/

/-- Records in a ring. -/
def ringFill (s : State) (ring : Nat) : Nat := (s.ringq.filter (fun r => r.ring == ring)).length

/-- The ring of a record (R281). -/
def ringOf (r : Record) : Nat := 2 * (engineOf (rOp r)).getD 0 + b2n (rBe r)

/-- Records of a list from an index on, as the Keeper holds them; COMMIT enters no ring (R286). -/
def ringRecs (q : W32) (from' : Nat) (recs : List Record) : List RingRec :=
  ((withIdx from' recs).filter (fun e => rOp e.2 != 0xF0)).map (fun e => { ring := ringOf e.2, step := q, idx := e.1, raw := e.2 })

/-- The record still waits for its plan (R288). -/
def unresolved (x : Step) (r : RingRec) : Bool := rPd r.raw && !(x.resolved.any (fun e => e.1 == r.idx))

/-- Place a record at the tail of its ring: its 64 bytes stand in the ring's next slot (R281, R282, R310). -/
def placeOne (r : RingRec) (s : State) : State :=
  let n : Nat := cellGet (fun _ => 0) s.ringTail r.ring
  putAll (wrBytes (ringSlotAddr r.ring n) (leBytes 64 r.raw.toNat))
    { s with ringq := s.ringq ++ [{ r with slot := n }], ringTail := cellSet (fun _ => 0) s.ringTail r.ring ((n + 1) % 4096) }

/-- Place held records in list order: a full ring, or a record that waits for its plan, holds everything from there on (R282, R288). -/
def placeGo (x : Step) : List RingRec → State → List RingRec × State
  | [], s => ([], s)
  | r :: t, s =>
    if unresolved x r || decide (4096 ≤ ringFill s r.ring) then (r :: t, s)
    else placeGo x t (placeOne r s)

/-- Place what a step's list still holds. -/
def placeHeld (q : W32) (s : State) : State :=
  match stepAt s q with
  | none => s
  | some x =>
    let g := placeGo x x.held s
    modStep q (fun x => { x with held := g.1 }) g.2

/-- Place the held records of every enqueued step; packets held for a record that is now in its ring are taken (R251, R440). -/
def placeAll (s : State) : State :=
  let s := (s.steps.filter Step.live).foldl (fun s x => placeHeld x.seq s) s
  armAll (fun _ => true) (drainCounts s)

/-! ### Enqueueing (R289, R290, R425) -/

/-- A comes before b in the wrapping order of step numbers. -/
def seqBefore (a b : W32) : Bool := decide (a ≠ b) && decide ((b - a).toNat < 2 ^ 31)

/-- The oldest accepted step not yet enqueued. -/
def oldestAccepted (s : State) : Option Step := s.steps.find? (fun x => x.phase == .accepted)

/-- A switch that was accepted before a step (R352). -/
def switchAhead (s : State) (x : Step) : Bool := s.switchq.any (fun w => !(seqBefore x.seq w.behind))

/-- A switch still waits for lines it pins (R157, R353). -/
def pinsOut (s : State) : Bool := s.llReqs.any (fun r => r.pin && !r.own && r.epoch == curEpoch s)

/-- Nothing holds the partition's next step but a configuration mismatch: holds, recovery, drain, dead trees, a kill under way, a switch, two steps
enqueued, ranges in common (R216, R289, R290, R295, R301, R352, R368, R388, R391). -/
def mayEnqueue (s : State) (x : Step) : Bool :=
  let other := s.steps.filter Step.started
  keeperUp s && decide (pwrState s = 0) && !capHold s && !partHeld s && !recovering s && !s.recov.active && !(flag s Reg.XCHG_FAB_DRAIN 0)
    && decide (fld s Reg.REL_TREE 3 0 ≠ 0xF) && s.killDone && s.switchRun.isNone && !(other.any (fun y => y.phase == .killed)) && activeModel s == some x.model
    && !(s.aborts.any (fun a => a.1 == x.seq)) && !(switchAhead s x) && !(pinsOut s) && decide (other.length < 2) && !(other.any (fun y => overlap x.cntFirst x.cntNum y.cntFirst y.cntNum))

/-- Every counter of a range goes to zero (R290). -/
def zeroCounters (x : Step) (s : State) : State :=
  { s with cnt := s.cnt.filter (fun e => decide (e.1 < x.cntFirst) || decide (x.cntFirst + x.cntNum ≤ e.1)) }

/-- The credit pools a list names, with their counts (R294). -/
def snapPools (s : State) (recs : List Record) : List (Nat × Nat) :=
  (((recs.filter (fun r => rCred r != 0)).map rCpool).dedup).filterMap (fun n => (cpoolAt s n).map (fun p => (n, p.credits)))

/-- What the Keeper builds a basic-level step from: its number, shape and model, so that a rerun and a second run build the same (R295, R357, R359; log
entry 6). -/
def stepKey (x : Step) (h : BitVec 1024) : Nat :=
  x.seq.toNat + 2 ^ 32 * (x.model + 2 ^ 4 * (x.layer + 2 ^ 8 * (b2n x.be + 2 * (x.tokens + 2 ^ 24 * h.toNat))))

/-- A step's list for this run: a submitted one as it was kept, a basic-level one built anew over fresh rooms (R295); where a room is missing, false and
the state as the failed request leaves it. -/
def buildStep (q : W32) (s : State) : Bool × State :=
  match stepAt s q with
  | none => (false, s)
  | some x =>
    if x.opcode ≠ 0x20 then
      (true, modStep q (fun y => { y with held := ringRecs q 0 y.recs, resolved := [], poolSnap := snapPools s y.recs }) s)
    else
      let h := (modelHdr s x.model).getD 0
      let n := stepKey x h
      match takeRooms (Config.keeperRooms n false) s with
      | (none, t) => (false, t)
      | (some (rooms, bufs), t) =>
        let y : Step := { x with rooms := rooms, build := n }
        let l := stepRecs y h t
        (true, modStep q (fun z => { z with
          rooms := rooms, build := n, recs := l.1, buffers := z.buffers ++ bufs.map (fun b => (1, b)), held := ringRecs q 0 l.1, resolved := [], poolSnap := [] }) l.2)

/-- The rooms and the staged configuration of a basic-level step (R66, R70); where a room is missing, false and the state as the failed request leaves
it. -/
def prepareStep (x : Step) (s : State) : Bool × State :=
  if x.opcode ≠ 0x20 then (true, s) else
  match modelHdr s x.model with
  | none => (false, s)
  | some h =>
    match takeRooms (keptSizes x h (stepKey x h)) s with
    | (none, t) => (false, t)
    | (some (kept, bufs), t) =>
      (true, stageStep x h kept (modStep x.seq (fun y => { y with kept := kept, buffers := bufs.map (fun b => (0, b)) }) t))

/-- The step is bound and its records are placed (R282, R425). -/
def startStep (q : W32) (s : State) : State :=
  placeAll (modStep q (fun x => { x with phase := .enqueued, kgen := BitVec.ofNat 4 (kgen s), epoch := curEpoch s, completed := 0, released := false,
                                              biases := s.loops.map (fun l => (l.layer, l.bias)), replicas := ownReplicas s }) s)

/-- What failed requests for a step's rooms leave: nothing is taken, the request is counted, and ring entries that the reading found poisoned are gone
(R318, R319, R322). -/
def roomsFail (x : Step) (s : State) : State :=
  let h := (modelHdr s x.model).getD 0
  match takeRooms (keptSizes x h (stepKey x h) ++ Config.keeperRooms (stepKey x h) false) s with
  | (none, t) => t
  | (some _, _) => noBuf s

/-- The first enqueue of a step: its counters, its boundary, its tile, its records (R66, R290, R425). Refused ingress values end it (R65). Where a room
cannot be had it takes nothing (R318, R319). -/
def enqueue (spareFail : BitVec 2) (x : Step) (s0 : State) : State :=
  match prepareStep x (zeroCounters x (capStart s0)) with
  | (false, _) => roomsFail x s0
  | (true, s) =>
    if cfgMismatch s then cfgHold { s0 with spareHeld := spareFail } else
    let b := stepBoundary spareFail s
    if fenced b.2 then b.2 else
    let s := modStep x.seq (fun y => { y with bound := b.2.live }) b.2
    match buildStep x.seq s with
    | (false, _) => roomsFail x s0
    | (true, s) =>
      if b.1 then
        let on (y : Step) : Step := { y with phase := .enqueued, kgen := BitVec.ofNat 4 (kgen s), epoch := curEpoch s, held := [] }
        raiseKill .badIngress (some x.seq) (modStep x.seq on s)
      else
        let s := match stepAt s x.seq with | some y => startTile y s | none => s
        startStep x.seq s

/-- A poisoned word of the Keeper region, outside the free rings, which the buffer pool manager reads (R310, R322). -/
def ownPoison (s : State) : Option Addr :=
  (s.poison.map (· * 8)).find? (fun p => decide (Config.stagingBase + Config.keeperOff ≤ p) && decide (p < Config.stagingBase + Config.poolRegionOff)
    && (List.range 6).all (fun id => !(overlap p 8 (ringAddr s id 0) (8 * ringCount s id))))

/-- The Keeper reads its own region, list images and held records: whether the word that is poisoned is among them is a free value, since the region has no
layout; where it is, the slice is lost (R310, R378, R385; log entry 96). -/
def ownRead (k : State → State) (s : State) : State :=
  match ownPoison s with
  | none => k s
  | some a => if bit (fresh s).toNat 0 then loseSlice 0x85 22 0 a (ueDetect a 0 noStep (tick s)) else k (tick s)

/-- STEP_ENQUEUE (R290); a submitted list's image stands in the Keeper region (R295, R310). -/
def stepEnqueue (spareFail : BitVec 2) (s : State) : State :=
  match oldestAccepted s with
  | none => s
  | some x => if mayEnqueue s x && !(flag s Reg.REL_STAT 8) then (if x.opcode = 0x80 then ownRead (enqueue spareFail x) s else enqueue spareFail x s) else s

/-- RING_PLACE_RESUME: the records held, which stand in the Keeper region, are placed as far as they can be (R282, R310). -/
def ringResume (s : State) : State := if s.steps.any (fun x => x.live && !x.held.isEmpty) then ownRead placeAll s else placeAll s

/-! ### Boundaries without a step (R383, R425, R431) -/

/-- The partition has no accepted or enqueued step, or the slice no partition. -/
def noSteps (s : State) : Bool := !(assigned s) || s.steps.isEmpty

/-- A step boundary that no step begins; nothing passes on a mismatch (R383). -/
def bareBoundary (spareFail : BitVec 2) (s : State) : State :=
  if cfgMismatch s then cfgHold { s with spareHeld := spareFail } else (stepBoundary spareFail s).2

/-- IDLE_STEP_BOUNDARY (R425). -/
def idleBoundary (spareFail : BitVec 2) (s : State) : State := if keeperUp s && noSteps s then bareBoundary spareFail s else s

/-- A held step boundary is attempted again, with the outcome its test patterns had (R98, R383). -/
def retryHold (s : State) : State :=
  if !(keeperUp s) || !(flag s Reg.REL_STAT 8) then s
  else if cfgMismatch s then cfgHold s
  else if noSteps s then bareBoundary s.spareHeld s
  else match oldestAccepted s with
    | none => cfgRelease s
    | some x => if mayEnqueue s x then (if x.opcode = 0x80 then ownRead (enqueue s.spareHeld x) s else enqueue s.spareHeld x s) else cfgRelease s

/-- CFG_CRC_DONE: the running CRC is there, and a held boundary is attempted again (R383, R431). -/
def onCrcDone (s : State) : State := if s.powered && s.cfgBusy then retryHold (crcDone s) else s

/-- CFG_FLIP_TIMEOUT (R383). -/
def flipTimeout (s : State) : State := if forwarding s && prep s && cfgMismatch s then loseSlice 0x87 22 (cfgCrc s) 0 s else s

/-! ### Plan-derived targets (R288) -/

/-- A list's COMMIT record, which enters no ring, as the Keeper holds it (R286). -/
def commitHeld (x : Step) : Option RingRec :=
  ((withIdx 0 x.recs).find? (fun e => rOp e.2 == 0xF0)).map (fun e => { ring := 0, step := x.seq, idx := e.1, raw := e.2 })

/-- The first unresolved record of a step whose plan has signalled, no earlier one being unresolved; the COMMIT stands last (R286, R304). -/
def pdNext (s : State) (x : Step) : Option RingRec :=
  match (x.held ++ (commitHeld x).toList).find? (unresolved x) with
  | none => none
  | some r => if planDone s x.seq (rPdBase r.raw) then some r else none

/-- The resolved target of a record (R288). -/
def pdTarget (s : State) (x : Step) (r : RingRec) : W32 :=
  let exp := BitVec.ofNat 32 (sumExpChunks (planSum s x.seq (rPdBase r.raw)))
  let prev := ((withIdx 0 x.recs).filter (fun e => decide (e.1 < r.idx) && rPd e.2 && rWait e.2 == rWait r.raw)).getLast?
  let t := match prev with
    | some e => ((x.resolved.find? (fun y => y.1 == e.1)).map Prod.snd).getD 0
    | none => 0
  rTarget r.raw + exp + (if rChain r.raw then t else 0)

/-- Write a resolved target and release the record. -/
def pdSubmit (x : Step) (r : RingRec) (s : State) : State :=
  let t := pdTarget s x r
  placeAll (modStep x.seq (fun y => { y with
    resolved := y.resolved ++ [(r.idx, t)]
    held := y.held.map (fun h => if h.idx = r.idx then { h with raw := rSetTarget h.raw t } else h) }) s)

/-- The half whose plan a basic-level list next waits for: as many halves are done as RECV records stand in it. -/
def planHalf (x : Step) : Option Bool :=
  match (x.recs.filter (fun r => rOp r == 0x29)).length with
  | 0 => some false
  | 1 => some true
  | _ => none

/-- The Keeper writes what half h's plan decides, and after half B's the COMMIT and the target of COMBINE_ACK's wait (R27, R235, R286). -/
def pdRun (x : Step) (half : Bool) (s : State) : State :=
  let hd := (modelHdr s x.model).getD 0
  let c : KCtx := { x := x, h := hd, half := half }
  let su (b : Bool) : List Byte := planSum s x.seq ({ c with half := b } : KCtx).outList
  let t := if half then sumExpChunks (su false) + sumExpChunks (su true) else sumExpChunks (su false)
  let new := planRecs c (su half) t
  let all := x.recs ++ new
  let fin := if half then [commitFor x (all.filter (fun r => rSig r == x.cntFirst + 7)).length] else []
  let s := if half ∧ !(pubsOf x).isEmpty then putAll (wrBytes (rPtr (commitFor x 0) 1) (pubBytes x)) s else s
  let acks := (all.filter (fun r => rSig r == x.cntFirst + 10)).length
  let s := if half then putAll (wrBytes (c.at 16 + 84) (leBytes 4 acks)) s else s
  placeAll (modStep x.seq (fun y => { y with recs := all ++ fin, held := y.held ++ ringRecs x.seq x.recs.length new }) s)

/-- The next half of a basic-level step whose plan has signalled. -/
def planReady (s : State) (x : Step) : Option Bool :=
  match planHalf x with
  | none => none
  | some h => if x.opcode = 0x20 && planDone s x.seq ({ x := x, h := 0, half := h } : KCtx).outList then some h else none

/-- PD_RESOLVE (R288): the oldest enqueued step for which a plan has signalled; the records it holds stand in the Keeper region (R310). -/
def pdResolve (s : State) : State :=
  if !(keeperUp s) then s else
  match s.steps.find? (fun x => x.live && ((planReady s x).isSome || (x.opcode != 0x20 && (pdNext s x).isSome))) with
  | none => s
  | some x =>
    match planReady s x with
    | some h => ownRead (fun s => pdRun x h (keeperRead [(({ x := x, h := 0, half := h } : KCtx).outList, 64)] s)) s
    | none => match pdNext s x with
      | some r => ownRead (fun s => pdSubmit x r (keeperRead [(rPdBase r.raw, 64)] s)) s
      | none => s

/-! ### COMMIT (R286, R291 to R293) -/

/-- The target of a step's COMMIT: as it stands, or as its plan resolved it; none before (R286, R288). -/
def commitTarget (x : Step) (r : Record) : Option W32 :=
  if !(rPd r) then some (rTarget r)
  else (commitHeld x).bind (fun h => (x.resolved.find? (fun e => e.1 == h.idx)).map Prod.snd)

/-- The waits of a COMMIT record hold (R286). -/
def commitWaits (s : State) (x : Step) (r : Record) : Bool :=
  (match commitTarget x r with | some t => reached s (rWait r) t | none => false) && (!(bit (rParam r) 42) || reached s (rPar r 9 0) (BitVec.ofNat 32 (rPar r 41 10)))

/-- The bias loop lets a step commit: its layer's earlier steps have, and no record of the Keeper's own for the loop is left (R142). -/
def loopSettled (s : State) (x : Step) : Bool :=
  !(s.ringq.any (fun q => q.step == x.seq && q.idx == loopIdx)) && (match loopSelect x with
    | some r => !(loopEarlier s x.seq (selBlock s r).layer)
    | none => true)

/-- The step whose COMMIT may act: its waits hold, and the bias loop's. -/
def commitDue (s : State) : Option (Step × Record) :=
  s.steps.findSome? (fun x =>
    match x.commitRec with
    | some r => if x.live && commitWaits s x r && loopSettled s x then some (x, r) else none
    | none => none)

/-- An entry of a publication block holds an uncorrectable word. -/
def pubPoisoned (s : State) (r : Record) (i : Nat) : Option Addr := poisonIn s (rPtr r 1 + 16 * i) 16

/-- The entries of a publication block in block order that can be read: ENTRY and ADDR (R287; log entry 95). -/
def pubEntries (s : State) (r : Record) : List (Nat × Addr) :=
  ((List.range (rPar r 47 43)).filter (fun i => (pubPoisoned s r i).isNone)).map
    (fun i => (rdLe s (rPtr r 1 + 16 * i) 1 % 64, rdLe s (rPtr r 1 + 16 * i + 8) 6))

/-- The Keeper reads a publication block; each entry that holds an uncorrectable word is detected (R287, R378). -/
def readPubs (r : Record) (q : W32) (s : State) : State :=
  let n := rPar r 47 43
  let bad := (List.range n).filterMap (pubPoisoned s r)
  bad.foldl (fun s a => ueDetect a 0 q.toNat s) (if n = 0 then s else keeperRead [(rPtr r 1, 16 * n)] s)

/-- The buffers of a list that a published address lies in: one buffer, or a whole window's (R291, R323). -/
def namedBufs (s : State) (l : List Addr) (a : Addr) : List Addr :=
  if Config.apertureBase ≤ a then
    match s.windows.find? (fun w => w.id == (a - Config.apertureBase) / Config.apertureWindow) with
    | some w => w.bufs.filter (fun b => l.contains b)
    | none => []
  else l.filter (fun b => match bufferOf s a with | some e => e.2 == b | none => false)

/-- Windows of software that a table named and the new one does not, whose credit pool is gone (R323). -/
def orphanWindows (old new : List (Nat × Addr)) (s : State) : List Window :=
  let inWin (l : List (Nat × Addr)) (w : Nat) : Bool :=
    l.any (fun e => decide (Config.apertureBase ≤ e.2) && (e.2 - Config.apertureBase) / Config.apertureWindow == w)
  s.windows.filter (fun w => decide (16 ≤ w.id) && decide (w.id < 64) && inWin old w.id && !(inWin new w.id) && (cpoolAt s w.id).isNone)

/-- Write the publication entries, in block order (R291 step 2); the default table's own place in the Keeper region is not given (R310; log entry 90). -/
def publish (x : Step) (es : List (Nat × Addr)) (s : State) : State :=
  let base := bAddr x.bound Reg.KEEP_PUB_LO
  es.foldl (fun s e =>
    let s := { s with pub := cellSet (fun _ => 0) s.pub e.1 e.2 }
    if base = 0 then s else keeperWrite (wrBytes (base + 8 * e.1) (leBytes 8 e.2)) s) s

/-- The bias loop at a COMMIT: the window, or its end and the new vector (R142, R143; R291 step 4); with the entry numbers and buffers it keeps. The layer
is the SELECT block's, also where a submitted list's step names another, and half B's load vector alone counts (DESIGN CHOICE, log entry 116). -/
def commitLoop (x : Step) (s : State) : List Nat × List (Nat × Addr) × State :=
  match loopSelect x with
  | none => ([], [], s)
  | some sel =>
    let b := selBlock s sel
    let l := loopAt s b.layer
    match x.loopVector with
    | some a =>
      let keep := (x.buffers.filter (fun e => e.1 == loopIdx + 1)).map (fun e => (64 + b.layer, e.2))
      ([64 + b.layer], keep, bump Reg.SCORE_SEL_LOOP_UPD 1 (setLoop { l with acc := [], steps := 0, bias := a } s))
    | none =>
      let acc := (List.range b.e).foldl (fun a i => cellSet (fun _ => 0) a i (windowCount s b i)) []
      ([], [], setLoop { l with acc := acc, steps := l.steps + 1 } s)

/-- Return the step's buffers that nothing published names, and those that only replaced entries named; an entry keeps also what another published
entry holds already (R291 step 5, R323). -/
def commitBufs (x : Step) (es : List (Nat × Addr)) (loopE : List Nat) (loopKeep : List (Nat × Addr)) (old : List (Nat × Addr)) (s : State) : State :=
  let mine := x.buffers.map Prod.snd
  let last := (List.range 64).filterMap (fun e => (es.filter (fun y => y.1 == e)).getLast?)
  let gone := last.map Prod.fst ++ loopE
  let known := (mine ++ s.pubBufs.map Prod.snd).dedup
  let keep := last.flatMap (fun e => (namedBufs s known e.2).map (fun b => (e.1, b))) ++ loopKeep
  let stay := s.pubBufs.filter (fun e => !gone.contains e.1)
  let all := stay ++ keep
  let left := ((s.pubBufs.filter (fun e => gone.contains e.1)).map Prod.snd ++ mine).dedup.filter (fun b => !(all.any (fun e => e.2 == b)))
  let ws := orphanWindows old s.pub s
  let s := freeBufs (ws.flatMap Window.bufs) { s with windows := s.windows.filter (fun w => !(ws.any (fun y => y.id == w.id))) }
  giveBack left { s with pubBufs := all }

/-- A mask with a bit per entry. -/
def entryMask (es : List (Nat × Addr)) : Nat := (es.map Prod.fst).foldl (fun m e => Nat.lor m (2 ^ e)) 0

/-- The time of the first rerun's COMMIT after a recovery (R397). -/
def recovT3 (x : Step) (s : State) : State :=
  if s.recov.rerunDue ∧ 0 < x.reruns then
    tick (setReg (Reg.REL_RECOV_T 3) ((fresh s).toNat % 2 ^ 32) { s with recov := { s.recov with rerunDue := false } })
  else s

/-- The phases of a recovery are over once no step it killed is left to rerun (R392, R397). -/
def recovIdle (s : State) : State :=
  if fld s Reg.REL_RECOV 21 20 = 3 ∧ s.steps.all (fun x => x.phase != .killed && x.reruns == 0) then setFld Reg.REL_RECOV 21 20 0 s else s

/-- Kill causes that were held while the step was joined: those that end steps come first (R293, R296). -/
def heldKills (s : State) : State :=
  let l := s.heldKill.filter (fun c => (causeCode c.1).isSome) ++ s.heldKill.filter (fun c => (causeCode c.1).isNone)
  let s := l.foldl (fun s c => raiseKill c.1 c.2 s) { s with heldKill := [] }
  match s.heldKg with
  | none => s
  | some kg => let t := { s with heldKg := none }; if kg = (kgen t + 1) % 16 then memberKill kg t else t

/-- COMMIT (R291). A step whose barrier has released commits whatever comes: an entry of its publication block that cannot be read is not written, and the
others are (R293; DESIGN CHOICE, log entry 95). -/
def commit (s : State) : State :=
  if !(keeperUp s) then s else
  match commitDue s with
  | none => s
  | some (x, r) =>
    if x.kgen.toNat ≠ kgen s then s else
    let es := pubEntries s r
    let old := s.pub
    let s := commitReplicas x (publish x es (readPubs r x.seq s))
    let l := commitLoop x s
    let s := commitBufs x es l.1 l.2.1 old l.2.2
    let m := entryMask es
    let tag : BitVec 128 := BitVec.ofNat 128 (leNat (commitTag s x m))
    let s := (List.range 4).foldl (fun s c => emit (.commitTag c tag) s) s
    let s := recovIdle (recovT3 x (bump64 Reg.KEEP_COMMIT_LO 1 (endStep x 0 (capCommit x m 0 s))))
    heldKills (loopRetry s)

/-- STEP_KILL: a cause of R296 at the oldest started step. -/
def stepKill (c : KillCause) (s : State) : State :=
  if keeperUp s then raiseKill c ((s.steps.find? Step.live).map Step.seq) s else s

/-- A killed step ends without rerun (R296). -/
def endKilled (x : Step) (code : Nat) (s : State) : State :=
  capCommit x 0 code (endStep x code (giveBack (x.buffers.map Prod.snd)
    { s with aborts := s.aborts.filter (fun a => a.1 != x.seq), ing := s.ing.map (fun i => if i.step = x.seq then { i with dropping := true } else i) }))

/-- Killed steps are enqueued again in order, on the units that are good now (R99; log entry 64); where a room is missing that step and all
after it wait, and what the failed request leaves stays (R290, R295, R318, R322). -/
def reEnqueue : List Step → State → State
  | [], s => s
  | x :: t, s0 =>
    match buildStep x.seq (zeroRange x s0) with
    | (false, s) => { s with cnt := s0.cnt }
    | (true, s) => reEnqueue t (startStep x.seq (bump Reg.KEEP_RERUN_CNT 1 (modStep x.seq (fun y => { y with reruns := y.reruns + 1 }) s)))

/-- RERUN: once KILL_DONE has released and no recovery or drain holds it, every killed step ends or is enqueued again, in order (R216,
R295, R391); under a hold by capture or replay, or while pinned lines are fetched, none is enqueued
(R157, R368). -/
def rerun (s : State) : State :=
  if !(keeperUp s) || !s.killDone || recovering s || s.recov.active || flag s Reg.XCHG_FAB_DRAIN 0 || decide (fld s Reg.REL_TREE 3 0 = 0xF) then s else
  let abort (x : Step) : Option Nat := (s.aborts.find? (fun a => a.1 == x.seq)).map Prod.snd
  let code (x : Step) : Option Nat := match x.endCode with | some c => some c | none => abort x
  let s := (s.steps.filter (fun x => x.phase == .killed || (x.phase == .accepted && (abort x).isSome))).foldl (fun s x =>
    match code x with
    | some c => endKilled x c s
    | none => s) s
  let s := { s with aborts := s.aborts.filter (fun a => !(seqBefore a.1 s.nextSeq)) }
  let left := s.steps.filter (fun x => x.phase == .killed)
  if left.isEmpty then recovIdle s else
  if capHold s || pinsOut s then s else
  let s := newUnits s
  if fenced s then s else ownRead (reEnqueue left) s

/-! ### Model switch (R352, R353) -/

/-- What a switch serves: a SWITCH_MODEL, or a waiting step. -/
inductive SwitchFor where
  | packet (w : Switch)
  | step (x : Step)
deriving DecidableEq, Repr

/-- The switch that is due: no step is enqueued; the oldest SWITCH_MODEL behind no accepted step, or the oldest accepted step of another model. -/
def switchDue (s : State) : Option SwitchFor :=
  if s.steps.any Step.started then none else
  match s.switchq.head?, oldestAccepted s with
  | some w, none => some (.packet w)
  | some w, some x => if seqBefore x.seq w.behind then (if activeModel s == some x.model then none else some (.step x)) else some (.packet w)
  | none, some x => if activeModel s == some x.model then none else some (.step x)
  | none, none => none

/-- The working-set keys of a header (R351). -/
def pinKeys (s : State) (h : BitVec 1024) : List Nat := (List.range (hdrAt h 52 4)).map (fun i => rdLe s (hdrAt h 44 6 + 4 * i) 4 % 2 ^ 29)

/-- Pin one line of the working set, in the version being prepared as well (R156, R157, R353). -/
def pinLine (key : Nat) (s : State) : State :=
  let s := pinIn (curEpoch s) key s
  if prep s && s.flip.target != curEpoch s then pinIn s.flip.target key s else s

/-- Unpin the working set (R353). -/
def unpinAll (s : State) : State :=
  { s with ll := s.ll.map (fun x => { x with pinned := false }), llReqs := (s.llReqs.filter (fun r => !r.queued)).map (fun r => { r with pin := false }) }

/-- Phase 1: the outgoing model's BYTES_OUT go back to its image. -/
def switchOut (s : State) : State :=
  match (activeModel s).bind (modelHdr s) with
  | none => s
  | some h => keeperWrite (wrBytes (hdrAt h 8 6 + Config.outOffset h) (outBytes s h)) s

/-- Phase 4: the registers the header gives, and the reference (R151, R353, R432); the ingress registers of a waiting submitted list stay as
software staged them (R70; log entry 42). -/
def switchStage (f : SwitchFor) (h : BitVec 1024) (s : State) : State :=
  let s := stageReg Reg.SCORE_SEL_LOOP_CTL (b2n (hdrFlag h 6) + hdrAt h 5 1 * 2) s
  let s := stageReg Reg.SCORE_SEL_LOOP_BMAX (hdrAt h 60 4) (stageReg Reg.SCORE_SEL_LOOP_ETA (hdrAt h 56 4) s)
  let soft := match f with | .step x => x.opcode == 0x80 | .packet _ => false
  if soft then commitSelf s else
  commitSelf (stageBits Reg.SCORE_ING_SHAPE 0xFFFF0000 (hdrModel h * 2 ^ 16) (stageBits Reg.SCORE_ING_CTL 0x3FC (hdrFmt h * 4) s))

/-- A switch that succeeds. -/
def switchGood (f : SwitchFor) (m : Nat) (h : BitVec 1024) (s : State) : State :=
  let img := hdrAt h 8 6
  let keys := pinKeys s h
  let out := rdN s (img + Config.outOffset h) (hdrAt h 20 4)
  let s := keeperWrite (wrBytes (hdrAt h 24 6) (rdN s img (hdrAt h 16 4))) s
  let s := keys.foldl (fun s k => pinLine k s) (unpinAll s)
  rewritePcnt (setReg Reg.PART_ACTIVE m (switchStage f h { s with
    loops := (Config.unpackOut h out).map (fun e => { layer := e.1, acc := e.2.1, steps := e.2.2.1, bias := e.2.2.2 }) }))

/-- What a switch reads: the incoming image, then the working-set keys (R353). -/
def switchRanges (h : BitVec 1024) : List (Addr × Nat) := [(hdrAt h 8 6, hdrAt h 16 4), (hdrAt h 44 6, 4 * hdrAt h 52 4)]

/-- The first of a switch's reads that fails: late or poisoned, and the address (R353, R378). -/
def switchBad (s : State) (bad : List (Addr × Nat × Bool)) (h : BitVec 1024) : Option (Bool × Addr) :=
  (switchRanges h).findSome? (fun r => match poisonIn s r.1 r.2 with
    | some a => some (false, a)
    | none => (bad.find? (fun b => overlap b.1 b.2.1 r.1 r.2)).map (fun b => (b.2.2, b.1)))

/-- A switch started for a waiting step fails: the step ends in every member as by a kill (R296, R353). -/
def switchKill (x : Step) (code : Nat) (s : State) : State :=
  let kg := (kgen s + 1) % 16
  let s := sendKill kg (applyKill kg false (fun _ => none) s)
  let s := modStep x.seq (fun y => { y with phase := .killed, kills := y.kills + 1, faultKills := y.faultKills + 1, endCode := some code }) s
  joinKillDone (sendAborts x.seq code s)

/-- A switch that fails at an address (R353). -/
def switchFail (f : SwitchFor) (late : Bool) (a : Addr) (s : State) : State :=
  let code := if late then 0xA else 9
  let s := raiseBit Reg.PART_ACTIVE 4 (unpinAll s)
  let s := if poisonedAt s a then ueDetect a 0 noStep s else s
  match f with
  | .packet w => queueReply { w.reply with status := code } s
  | .step x => switchKill x code s

/-- A switch that succeeds is counted, timed, and answered (R352, R353). -/
def switchEnd (f : SwitchFor) (s : State) : State :=
  let n := Config.freeCycles s.free % 2 ^ 32
  let s := setReg Reg.PART_SWITCH_LAST n (bump Reg.PART_SWITCH_CNT 1 (tick s))
  match f with
  | .packet w => queueReply { w.reply with r0 := BitVec.ofNat 32 n } s
  | .step _ => s

/-- A switch is due, and MODEL_SWITCH runs it (R352, R353). -/
def switching (s : State) : Bool := keeperUp s && !(capHold s) && s.killDone && s.switchRun.isNone && (switchDue s).isSome

/-- A switch has its data, or a read of it has failed; a model that is no longer resident is answered with STATE (R352, R353). -/
def switchDone (f : SwitchFor) (m : Nat) (bad : List (Addr × Nat × Bool)) (s : State) : State :=
  match modelHdr s m with
  | none => match f with | .packet w => queueReply { w.reply with status := 5 } s | .step _ => s
  | some h => match switchBad s bad h with
    | none => retryHold (switchEnd f (switchGood f m h s))
    | some b => switchFail f b.1 b.2 s

/-- What the check of a staging word finds when the switch reads it: a single-bit error is corrected, any other poisons the word (R377, R378). A
word that is poisoned already, or that the switch does not read, meets nothing new (log entry 112). -/
def switchMeets (h : BitVec 1024) (read : Option (Addr × Ecc)) (s : State) : State :=
  match read with
  | none => s
  | some (a, e) => match phys s a with
    | none => s
    | some p =>
      if inStaging p && !(poisonedAt s a) && (switchRanges h).any (fun r => overlap a 1 r.1 r.2) then
        match e with
        | .clean => s
        | .corrected b => ceDetect p b s
        | .uncorrectable => poison p s
      else s

/-- MODEL_SWITCH: the outgoing state is written back, the incoming one is read; the switch goes on when what it reads from die memory is there (R353,
R382). -/
def modelSwitch (read : Option (Addr × Ecc)) (s : State) : State :=
  if !(switching s) then s else
  match switchDue s with
  | none => s
  | some f =>
    let m := match f with | .packet w => w.model | .step x => x.model
    let s := match f with | .packet _ => { s with switchq := s.switchq.drop 1 } | .step _ => s
    match modelHdr s m with
    | none => switchDone f m [] s
    | some h =>
      let s := switchMeets h read (switchOut s)
      let l := dieReads s (switchRanges h)
      if l.isEmpty then switchDone f m [] s
      else memRequests switchEng false l { s with switchRun := some (match f with
        | .packet w => { model := m, pkt := some w, step := w.behind } | .step x => { model := m, pkt := none, step := x.seq }) }

/-- A read of a switch has ended; once all have, the switch goes on (R353, R382). -/
def switchBack (t : MemTag) (bad : Option Bool) (s : State) : State :=
  match s.switchRun with
  | none => s
  | some w =>
    let w := { w with bad := w.bad ++ (match bad with | some late => [(t.addr, t.n, late)] | none => []) }
    if readsOut s switchEng || !(keeperUp s) then { s with switchRun := some w } else
    let s := { s with switchRun := none }
    match w.pkt, stepAt s w.step with
    | some p, _ => switchDone (.packet p) w.model w.bad s
    | none, some x => switchDone (.step x) w.model w.bad s
    | none, none => s

/-! ### The commands -/

/-- RING_PLACE_RESUME. -/
def execRingPlaceResume (s : State) : Host.Outcome State Fault Refusal := finish (if keeperUp s then ringResume s else s)
/-- STEP_ENQUEUE. -/
def execStepEnqueue (spareFail : BitVec 2) (s : State) : Host.Outcome State Fault Refusal := finish (stepEnqueue spareFail s)
/-- IDLE_STEP_BOUNDARY. -/
def execIdleStepBoundary (spareFail : BitVec 2) (s : State) : Host.Outcome State Fault Refusal := finish (idleBoundary spareFail s)
/-- CFG_HOLD_RETRY. -/
def execCfgHoldRetry (s : State) : Host.Outcome State Fault Refusal := finish (retryHold s)
/-- CFG_FLIP_TIMEOUT. -/
def execCfgFlipTimeout (s : State) : Host.Outcome State Fault Refusal := finish (flipTimeout s)
/-- CFG_CRC_DONE. -/
def execCfgCrcDone (s : State) : Host.Outcome State Fault Refusal := finish (onCrcDone s)
/-- PD_RESOLVE. -/
def execPdResolve (s : State) : Host.Outcome State Fault Refusal := finish (pdResolve s)
/-- COMMIT. -/
def execCommit (s : State) : Host.Outcome State Fault Refusal := finish (commit s)
/-- STEP_KILL. -/
def execStepKill (cause : KillCause) (s : State) : Host.Outcome State Fault Refusal := finish (stepKill cause s)
/-- RERUN. -/
def execRerun (s : State) : Host.Outcome State Fault Refusal := finish (rerun s)
/-- MODEL_SWITCH. -/
def execModelSwitch (read : Option (Addr × Ecc)) (s : State) : Host.Outcome State Fault Refusal := finish (modelSwitch read s)

end Sys2Proof.Machine
end

