-- ==== Sys2Proof/Machine/Nvm.lean ====
section
/-! DEFINITION. The non-volatile store: its regions, the check of a copy, the choice between copies, and the bodies (spec/15 R410 to R413). -/

namespace Sys2Proof.Machine

/-! ### Regions and copies (R410, R411) -/

/-- A region: 0 settings, 1 pool, 2 image; its MAGIC. -/
def nvmMagic (r : Nat) : Nat := 0x00555A01 + r
/-- Offset of a copy, A or B. -/
def nvmOff (r : Nat) (b : Bool) : Nat := match r, b with
  | 0, false => 0x1000 | 0, true => 0x2000 | 1, false => 0x3000 | 1, true => 0x4000 | _, false => 0x10000 | _, true => 0x40000
/-- Bytes of a copy. -/
def nvmSize (r : Nat) : Nat := if r < 2 then 4096 else 196608

/-- Bytes of the store. -/
def nvmRd (s : State) (off n : Nat) : List Byte := (List.range n).map (fun i => cellGet memDefault s.nvm.bytes (off + i))

/-- Write bytes of the store. -/
def nvmWr (off : Nat) (l : List Byte) (s : State) : State :=
  { s with nvm := { s.nvm with bytes := (withIdx 0 l).foldl (fun m e => cellSet memDefault m (off + e.1) e.2) s.nvm.bytes } }

/-- A copy of 16 bytes of head and a body (R411). -/
def mkCopy (r gen : Nat) (body : List Byte) : List Byte :=
  let h := leBytes 4 (nvmMagic r) ++ leBytes 4 gen ++ leBytes 4 body.length
  h ++ leBytes 4 (crc32c (h ++ body)).toNat ++ body

/-- The copy that a reader of bytes gives is valid: GEN and body (R411). -/
def copyOf (r : Nat) (rd : Nat → Nat → List Byte) : Option (Nat × List Byte) :=
  let h := rd 0 16
  let n := leAt h 8 4
  if leAt h 0 4 ≠ nvmMagic r ∨ nvmSize r < 16 + n then none else
  let body := rd 16 n
  if (crc32c (h.take 12 ++ body)).toNat = leAt h 12 4 then some (leAt h 4 4, body) else none

/-- A copy of the store, if it is valid. -/
def nvmCopy (s : State) (r : Nat) (b : Bool) : Option (Nat × List Byte) := copyOf r (fun i n => nvmRd s (nvmOff r b + i) n)

/-- The copy in use: which, GEN, body (R411). -/
def nvmUse (s : State) (r : Nat) : Option (Bool × Nat × List Byte) :=
  match nvmCopy s r false, nvmCopy s r true with
  | none, none => none
  | some a, none => some (false, a)
  | none, some b => some (true, b)
  | some a, some b => if 0 ≤ sext 32 ((a.1 + 2 ^ 32 - b.1) % 2 ^ 32) then some (false, a) else some (true, b)

/-- The image at an address of memory, if it is a valid image copy (R413, R414). -/
def imageAt (s : State) (a : Addr) : Option (Nat × List Byte) :=
  match copyOf 2 (fun i n => rdN s (a + i) n) with
  | some c => if c.2.length < 64 then none else some c
  | none => none

/-! ### Bodies (R411, R412) -/

/-- The registers whose values the settings copy holds, and AON registers among them (R412). -/
def settingRegs : List Nat :=
  [Reg.KEEP_CFG, Reg.XCHG_BCN_CFG] ++ (List.range 4).map Reg.XCHG_BCN_TREE ++ [Reg.PART_LOG_CTL, Reg.PART_LOG_HIGH, Reg.PART_LOG_LOW, Reg.REL_SCRUB,
    Reg.REL_MEM_TO, Reg.REL_SND_CTL, Reg.REL_SND_THR, Reg.REL_SND_VOFS, Reg.REL_PWR_CFG]

/-- The fields software may write in a register. -/
def rowWritable (off : Nat) : Nat := match regRow off with | some r => Nat.lor r.rw r.rws | none => 0

/-- The settings body: the live values of R412's registers. -/
def settingsBody (s : State) : List Byte :=
  settingRegs.flatMap (fun o => leBytes 2 o ++ [0, 0] ++ leBytes 4 (Nat.land (reg s o) (rowWritable o)))

/-- The pool body: the live class-pool configuration. -/
def poolBodyOf (s : State) : List Byte :=
  (List.range 5).flatMap (fun n => let p := poolRegs (reg s) n; leBytes 6 p.1 ++ leBytes 6 p.2.2 ++ leBytes 4 p.2.1)

/-- The entries of a settings body. -/
def settingEntries (b : List Byte) : List (Nat × Nat) := (List.range (b.length / 8)).map (fun i => (leAt b (8 * i) 2, leAt b (8 * i + 4) 4))

/-- The class pools of a pool body. -/
def bodyPools (b : List Byte) : List (Nat × Addr × Nat × Addr) :=
  (List.range 5).map (fun i => (i, leAt b (16 * i) 6, leAt b (16 * i + 12) 4 % 2 ^ 17, leAt b (16 * i + 6) 6))

/-! ### Status (R417) -/

/-- The status bits of valid copies, the GEN in use, the wear. -/
def nvmStatus (s : State) : State :=
  let v (r : Nat) (b : Bool) : Nat := b2n (nvmCopy s r b).isSome
  let s := setFld Reg.REL_NVM_STAT 4 4 (v 2 true) (setFld Reg.REL_NVM_STAT 3 3 (v 2 false)
    (setFld Reg.REL_NVM_STAT 1 1 (v 0 true) (setFld Reg.REL_NVM_STAT 0 0 (v 0 false) s)))
  let w := max s.nvm.cycSettings (max s.nvm.cycPool s.nvm.cycImage)
  let s := setReg Reg.REL_NVM_WEAR (min w 0xFFFFFFFF) (setFld Reg.REL_NVM_STAT 6 6 (b2n (decide (100000 ≤ w))) s)
  setReg Reg.REL_NVM_GEN (match nvmUse s 0 with | some u => u.2.1 | none => 0) s

/-- Count written copies of a region (R413). -/
def nvmWear (r n : Nat) (s : State) : State :=
  { s with nvm := match r with
      | 0 => { s.nvm with cycSettings := s.nvm.cycSettings + n }
      | 1 => { s.nvm with cycPool := s.nvm.cycPool + n }
      | _ => { s.nvm with cycImage := s.nvm.cycImage + n } }

/-- GEN one above that of the copy in use; 1 where none is valid (R413; log entry 34). -/
def nvmNextGen (s : State) (r : Nat) : Nat := match nvmUse s r with | some u => (u.2.1 + 1) % 2 ^ 32 | none => 1

/-- The copies a STORE_NVM writes: region and bytes (R413). -/
def storeCopies (s : State) (regions : Nat) : List (Nat × List Byte) :=
  let body (r : Nat) : List Byte := match r with
    | 0 => settingsBody s
    | 1 => poolBodyOf s
    | _ => match imageAt s (addrReg s Reg.REL_NVM_SRC_LO) with | some c => c.2 | none => []
  ((List.range 3).filter (fun r => bit regions r)).map (fun r => (r, mkCopy r (nvmNextGen s r) (body r)))

/-- A region's bytes after two failed read-backs: free, but no valid copy (R411, R413). -/
def badCopy (r : Nat) (s : State) : List Byte :=
  let l := (List.range (nvmSize r)).map (fun i => Config.freeByte s.free i)
  if (copyOf r (fun i n => (l.drop i).take n)).isSome then (0 : Byte) :: l.drop 1 else l

/-- One copy is written: the one not in use, and once more where its read-back fails, which of a copy that passes in the end is a free bit
(R413; log entry 108). -/
def storeOne (r : Nat) (l : List Byte) (failed : Bool) (s : State) : State :=
  let at' := nvmOff r (match nvmUse s r with | some u => !u.1 | none => false)
  if failed then tick (nvmWear r 2 (nvmWr at' (badCopy r s) s))
  else tick (nvmWear r (1 + (fresh s).toNat % 2) (nvmWr at' l s))

/-- NO_IMAGE as the copies now stand (R417). -/
def imageStatus (s : State) : State := setFld Reg.REL_NVM_STAT 5 5 (b2n (nvmUse s 2).isNone) s

/-- STORE_NVM ends (R307, R413). -/
def storeDone (failed : BitVec 3) (s : State) : State :=
  match s.longOp with
  | .store regions copies r =>
    let bad := copies.any (fun c => failed.getLsbD c.1)
    let s := copies.foldl (fun s c => storeOne c.1 c.2 (failed.getLsbD c.1) s) s
    let s := imageStatus <| nvmStatus (raiseIf bad Reg.REL_NVM_STAT 7 { s with longOp := .none })
    let g (i : Nat) : W32 := if bit regions i then BitVec.ofNat 32 (match copies.find? (fun c => c.1 == i) with | some c => leAt c.2 4 4 | none => 0) else 0
    queueReply (if bad then { r with status := 5 } else { r with r0 := g 0, r1 := g 1, r2 := g 2 }) s
  | _ => s

/-- STORE_NVM_DONE. -/
def execStoreNvmDone (failed : BitVec 3) (s : State) : Host.Outcome State Fault Refusal := finish (if keeperUp s then storeDone failed s else s)

end Sys2Proof.Machine
end

