-- ==== Sys2Proof/Machine/Mailbox.lean ====
section
/-! DEFINITION. The remaining host opcodes, the Keeper taking a packet, and the mailbox (spec/10 R297 to R307; spec/13 R364, R370, R372; spec/11 R332;
spec/15 R400, R405 to R408, R413, R415; spec/16 R432). -/

namespace Sys2Proof.Machine

/-! ### NOP, GET_INFO, CFG_COMMIT, LOG_FLUSH -/

/-- GET_INFO (R301). -/
def doInfo (p : HostPkt) (s : State) : State :=
  ok p [reg s Reg.KEEP_FW_VER, ownDa s + partId s * 2 ^ 20 + b2n (assigned s) * 2 ^ 30, reg s Reg.CORE_DEVID_LO, reg s Reg.CORE_DEVID_HI] s

/-- CFG_COMMIT's rules (R432). -/
def cfgChecks (p : HostPkt) : Verdict :=
  { pre := [ (bit (hPar p 4 1) 0 && hPar p 0 4 != 0, 4, 32, 0), parRsv p 4 1 0xFE 0, parZero p 5 3 0 ] }

/-- CFG_COMMIT: the reference, and the running CRC as it then stands (R432). -/
def doCfg (p : HostPkt) (s : State) : State :=
  let s := if bit (hPar p 4 1) 0 then commitSelf (crcDone s) else setReg Reg.CORE_CFG_REF (hPar p 0 4) s
  ok p [reg s Reg.CORE_CFG_REF, reg s Reg.CORE_CFG_CRC] s

/-- LOG_FLUSH: answered at the flush boundary (R332). -/
def doFlush (p : HostPkt) (s : State) : State :=
  raiseBit Reg.PART_LOG_STAT 2 { s with log := { s.log with flushReplies := s.log.flushReplies ++ [mkReply p 0 []] } }

/-! ### CAPTURE and REPLAY (R364, R370, R372) -/

/-- The ring lies in a window of the partition, with `w` one it may write. -/
def ringInWindow (s : State) (w : Bool) (a n : Nat) : Bool :=
  s.part.wins.any (fun e => bit e 96 && (!w || bit e 97) && inside a n (bits e 47 0) (bits e 95 64 * 4096))

/-- The parameters of R364, with the rest of an opcode's checks after the stream is read. -/
def capChecks (s : State) (w : Bool) (p : HostPkt) (mode : Nat) : Verdict :=
  let stop := bit (hPar p 0 1) 0
  let nbuf := hPar p 2 2
  let ring := hPar p 4 4 * 0x10000
  let base := bits (hPar p 8 8) 47 0
  if stop then { pre := [ parRsv p 0 1 0xFE 0, parZero p 1 15 0, (capMode s != mode, 5, 32, 0), (mode == 1 && s.cap.stop.isSome, 6, 32, 0) ] }
  else
    { pre := [ parRsv p 0 1 0xFE 0, parRsv p 1 1 0xFE 0, (decide (nbuf < 2) || decide (64 < nbuf), 4, 34, 0), (ring == 0, 4, 36, 0),
          (decide (base % 0x10000 ≠ 0), 4, 40, 0), (!(ringInWindow s w base ring), 8, 40, 0), parZero p 14 2 0, (capMode s != 0, 5, 32, 0) ]
      read := if w then none else some 40
      ranges := if w then [] else [(base, 32)]
      post := (if w then [] else
          [ (rd8 s base != 1 || rdLe s (base + 16) 4 != stateDigest s, 5, 40, 0) ]) ++ [ (!s.cap.bufs.isEmpty, 1, 0, 0) ] }

/-- Take the capture buffers of a START (R364). -/
def takeCap (p : HostPkt) (k : State → State) (s : State) : State :=
  match allocBufs 2 (hPar p 2 2) none s with
  | (0, l, s) =>
    k { s with cap := { s.cap with digest := bit (hPar p 1 1) 0, bufs := l, ringBase := bits (hPar p 8 8) 47 0, ringSize := hPar p 4 4 * 0x10000,
                                   staged := [], sent := 0, reserved := 0, keepUsed := 0, arr := [], work := [], waiting := [] } }
  | (_, _, s) => reject p { code := 7, off := 34 } s

/-- CAPTURE. -/
def doCapture (p : HostPkt) (s : State) : State :=
  let r := mkReply p 0 []
  if bit (hPar p 0 1) 0 then { s with cap := { s.cap with stop := some r } }
  else
    takeCap p (fun s =>
      let s := setReg Reg.PART_CAP_SW_LO 0 (setReg Reg.PART_CAP_SW_HI 0 (setReg Reg.PART_CAP_DONE_LO 0 (setReg Reg.PART_CAP_DONE_HI 0 s)))
      setFld Reg.PART_CAP_STAT 1 0 3 { s with cap := { s.cap with start := some r, sw := 0 } }) s

/-- REPLAY. -/
def doReplay (p : HostPkt) (s : State) : State :=
  if bit (hPar p 0 1) 0 then
    let d := match s.cap.divSeq with | some q => q.toNat | none => 0
    ok p [d] (repStop s)
  else takeCap p (fun s => repStart (ok p [] s)) s

/-! ### STORE_NVM and SELF_TEST (R307, R413, R415) -/

/-- STORE_NVM's rules. -/
def storeChecks (s : State) (p : HostPkt) : Verdict :=
  let r := hPar p 0 1
  let a := addrReg s Reg.REL_NVM_SRC_LO
  let n := 16 + min (rdLe s (a + 8) 4) 196592
  let img := bit r 2
  { pre := [ parRsv p 0 1 0xF8 0, (bits r 2 0 == 0, 4, 32, 0), (img && !(mayReach s false a n), 8, 32, 0) ]
    read := if img then some 32 else none
    ranges := if img then [(a, n)] else []
    post := [ (img && (imageAt s a).isNone, 4, 32, 0), parZero p 1 3 0 ] }

/-- STORE_NVM starts: the values are taken now. -/
def doStore (p : HostPkt) (s : State) : State :=
  { s with longOp := .store (hPar p 0 1) (storeCopies s (hPar p 0 1)) (mkReply p 0 []) }

/-- SELF_TEST's rules. -/
def testChecks (s : State) (p : HostPkt) : Verdict :=
  { pre := [ parRsv p 0 1 0xF8 0, (bits (hPar p 0 1) 2 0 == 0, 4, 32, 0), parZero p 1 3 0, (!s.steps.isEmpty, 5, 32, 0) ] }

/-- SELF_TEST starts. -/
def doTest (p : HostPkt) (s : State) : State := { s with longOp := .selfTest (hPar p 0 1) (mkReply p 0 []) }

/-- The units a self-test ran on, of those that a failure mask names: active ones under ENGINES, the lightship under LIGHTSHIPS (R415). -/
def tested (units act spare mask : Nat) : Nat :=
  Nat.land mask ((if bit units 0 then act else 0) + (if bit units 2 then (if bit act spare then 0 else 2 ^ spare) else 0))

/-- SELF_TEST ends: FAILED bits, and the reply with the masks (R415). -/
def testDone (tiles : BitVec 9) (lanes : BitVec 5) (words : W32) (s : State) : State :=
  match s.longOp with
  | .selfTest units r =>
    let t := tested units (fld s Reg.SCORE_TILE_MAP 8 0) (fld s Reg.SCORE_TILE_MAP 12 9) tiles.toNat
    let l := tested units (fld s Reg.SORT_LANE_MAP 4 0) (fld s Reg.SORT_LANE_MAP 7 5) lanes.toNat
    let s := ((List.range 9).filter (bit t)).foldl (fun s i => tileFailed i s) { s with longOp := .none }
    let s := ((List.range 5).filter (bit l)).foldl (fun s i => laneFailed i s) s
    queueReply { r with r0 := BitVec.ofNat 32 (t + l * 2 ^ 16), r1 := if bit units 1 then words else 0 } s
  | _ => s

/-! ### SUSPEND and RESUME (R405 to R408) -/

/-- SUSPEND's rules. -/
def suspendChecks (s : State) (p : HostPkt) : Verdict :=
  { pre := [ parRsv p 0 1 0xFE 0, parZero p 1 3 0,
      (decide (pwrState s ≠ 0) || decide (s.power.susp ≠ .none) || !s.steps.isEmpty || decide (capMode s ≠ 0) || (bit (hPar p 0 1) 0 && assigned s), 5, 32, 0) ] }

/-- SUSPEND: the answer, then IDLE, or the fence that starts the way to DARK. -/
def doSuspend (p : HostPkt) (s : State) : State :=
  let s := ok p [] s
  if bit (hPar p 0 1) 0 then
    sendFence (ownDa s) { s with power := { s.power with susp := .fencing } }
  else setFld Reg.REL_PWR_STAT 1 0 1 s

/-- RESUME's rules: refused in RUN, unless the slice is on its way to DARK. -/
def resumeChecks (s : State) (p : HostPkt) : Verdict :=
  { pre := [ parRsv p 0 1 0xFE 0, parZero p 1 3 0, (!(sleepy s), 5, 32, 0) ] }

/-- RESUME as a wake source. -/
def resumeWake (p : HostPkt) : Wake := { bit := 0, reason := 0, link := 0, full := some (bit (hPar p 0 1) 0), reply := some (mkReply p 0 []) }

/-- RESUME taken by the Keeper: answered once the slice is in RUN; a second one while IDLE ends is answered with the first. -/
def doResume (p : HostPkt) (s : State) : State :=
  match s.power.susp with
  | .none => { recordWake (resumeWake p) s with power := { s.power with susp := .leavingIdle (some (mkReply p 0 [])) } }
  | .leavingIdle _ => { recordWake (resumeWake p) s with power := { s.power with heldWakes := s.power.heldWakes ++ [resumeWake p] } }
  | _ => wakeUp (resumeWake p) s

/-! ### A packet is taken (R297, R303) -/

/-- The opcode's own rules. -/
def hostVerdict (s : State) (p : HostPkt) : Verdict :=
  match hOp p with
  | 0x10 => loadChecks s p | 0x11 => unloadChecks s p | 0x12 => switchChecks s p | 0x20 => runChecks s p | 0x21 => killChecks p
  | 0x22 => queryChecks s p | 0x30 => rllChecks s p | 0x40 => partChecks' s p | 0x50 => storeChecks s p | 0x51 => testChecks s p
  | 0x52 => suspendChecks s p | 0x53 => resumeChecks s p | 0x60 => capChecks s true p 1 | 0x61 => capChecks s false p 2
  | 0x80 => submitChecks s p | 0x81 => cntChecks s true p | 0x82 => cntChecks s false p | 0x83 => acpChecks s p | 0x84 => fcpChecks s p
  | 0x90 => cfgChecks p
  | _ => { pre := [] }

/-- The opcode's effect. -/
def hostDo (p : HostPkt) (s : State) : State :=
  match hOp p with
  | 0x00 => ok p [] s | 0x01 => doInfo p s | 0x10 => doLoad p s | 0x11 => doUnload p s | 0x12 => doSwitch p s | 0x20 => doRun p s
  | 0x21 => doKill p s | 0x22 => doQuery p s | 0x30 => doReadLl p s | 0x40 => doPart p s | 0x50 => doStore p s | 0x51 => doTest p s
  | 0x52 => doSuspend p s | 0x53 => doResume p s | 0x60 => doCapture p s | 0x61 => doReplay p s | 0x70 => doFlush p s | 0x80 => doSubmit p s
  | 0x81 => doAllocCnt p s | 0x82 => doFreeCnt p s | 0x83 => doAllocCpool p s | 0x84 => doFreeCpool p s | 0x90 => doCfg p s
  | _ => s

/-- The HOST record of a packet taken, or its comparison in replay; the REPLAY STOP that ends a replay is no part of its stream, a START refused
meanwhile is compared as any packet (R366, R372). -/
def capHost (p : HostPkt) (s : State) : State :=
  if hOp p = 0x61 ∧ capMode s = 2 ∧ bit (hPar p 0 1) 0 then s else
  let b := leBytes 32 p.hdr.toNat ++ hBytes p
  capEvent 3 0 false (s.nextSeq - 1).toNat b b.length 0 s

/-- The ranges the Keeper reads for a packet: none where a check before the first read fails (R303). -/
def takeRanges (p : HostPkt) (s : State) : List (Addr × Nat) :=
  let v := hostVerdict s p
  if (firstBad (hdrChecks p ++ partChecks s p ++ v.pre)).isSome then []
  else v.ranges ++ (v.more.map Prod.snd).toList ++ (if hOp p = 0x80 then listReads s (subCtx s p) else [])

/-- The state in which the Keeper checks a packet it takes: counted, and captured or compared; a read beyond a window's mapping is counted (R297, R324,
R366, R372). -/
def hostSeen (p : HostPkt) (s : State) : State :=
  let s := capHost p (bump Reg.KEEP_MB_ACC_CNT 1 s)
  (takeRanges p s).foldl (fun s r => aperMiss r.1 r.2 s) s

/-- The reads of die memory that the check of a packet waits for (R303, R382). -/
def takeReads (p : HostPkt) (s : State) : List (Addr × Nat) := dieReads s (takeRanges p s)

/-- The packet is under check no longer. -/
def letGo (s : State) : State := { s with taking := none }

/-- The checks from the parameters on, in state s, and the packet's effect, on state t; a held boundary is attempted again after a write of the reference
(R303, R383). -/
def judgePkt (p : HostPkt) (s t : State) : State :=
  match judge s (hostVerdict s p) with
  | some j => reject p j t
  | none => if hOp p == 0x90 || hOp p == 0x40 then retryHold (hostDo p t) else hostDo p t

/-- The Keeper takes a packet: it is counted, captured, checked, and acted on, once what its checks read from die memory is there (R297, R303, R382; log
entry 81). -/
def takePkt (p : HostPkt) (s : State) : State :=
  let s := hostSeen p s
  match firstBad (hdrChecks p ++ partChecks s p) with
  | some c => reject p (rejOf c) s
  | none =>
    let l := takeReads p s
    if l.isEmpty then judgePkt p s s else memRequests takeEng false l { s with taking := some { pkt := p } }

/-- A read for the packet under check has ended; once all have, it is judged (R303, R382). -/
def takeBack (t : MemTag) (bad : Option Bool) (s : State) : State :=
  match s.taking with
  | none => s
  | some k =>
    let k := { k with bad := k.bad ++ (match bad with | some late => [(t.addr, t.n, late)] | none => []) }
    let s := { s with taking := some k }
    if readsOut s takeEng || !(keeperUp s) then s else judgePkt k.pkt s (letGo s)

/-- KEEPER_READ_TIMEOUT: the reads that have not completed in time end the check of the packet under check (R303; log entry 79). -/
def keeperLate (s : State) : State :=
  match s.taking with
  | none => s
  | some k =>
    if !(keeperUp s) then s else
    let out := (s.memTags.filter (fun t => t.busy && t.eng == takeEng)).map (fun t => (t.addr, t.n, true))
      ++ (s.memb.mem.filter (fun m => !m.write && m.eng == takeEng)).map (fun m => (m.addr, m.n, true))
    let s := dropReads takeEng { s with taking := some { k with bad := k.bad ++ out } }
    judgePkt k.pkt s (letGo s)

/-- The Keeper may take a packet: it runs, no long operation runs, no packet is under check, the reply FIFO has room, and capture does not hold it, save for the REPLAY STOP
that ends a hold (R297, R307, R368, R372). -/
def mayTake (p : HostPkt) (s : State) : Bool :=
  keeperUp s && decide (s.longOp = .none) && s.taking.isNone && decide (s.replies.length < 16) && (!(capHold s) || (decide (capMode s = 2) && hOp p == 0x61))

/-! ### The doorbell (R297, R306, R400, R407) -/

/-- The control port answers: powered, past CTL_UP, its clock running; or the AON responder in DARK (R400, R407, R409). -/
def ctlUp (s : State) : Bool := s.powered && !s.power.clkStopped && (decide (1 ≤ fld s Reg.REL_PWR_STAT 4 3) || decide (pwrState s = 2))

/-- The mailbox takes no packet yet: not ready, or DARK. -/
def bellClosed (s : State) : Bool := !(ready s) || decide (pwrState s = 2)

/-- A doorbell while the mailbox is closed: NOT_READY; a RESUME that passes the header checks wakes a DARK slice, or is recorded while it wakes
(R306, R407, R408). -/
def closedBell (p : HostPkt) (s : State) : State :=
  let resume := hOp p == 0x53 && (firstBad (hdrChecks p)).isNone
  let w := resumeWake p
  if resume && decide (pwrState s = 2) then answer (mkReply p 2 [1]) (wakeReset { w with reply := none } s)
  else if resume && decide (pwrState s = 3) then answer (mkReply p 2 [1]) (recordWake w s)
  else answer (mkReply p 2 [0]) s

/-- A packet comes to the Keeper by the mailbox. -/
def hostRow (op : Nat) (sel : HostPkt → Bool) (p : HostPkt) (s : State) : State :=
  if !(ctlUp s) || hOp p != op || !(sel p) then s
  else if bellClosed s then closedBell p s
  else if s.mboxPkt.isNone && mayTake p s then takePkt p s
  else s

/-- The packet in the CMD registers (R297). -/
def cmdPkt (s : State) : HostPkt :=
  let w (i : Nat) : W32 := cellGet (fun _ => 0) s.mboxCmd i
  { hdr := BitVec.ofNat 256 (leNat ((List.range 8).flatMap (fun i => leBytes 4 (w i).toNat)))
    params := (List.range 56).flatMap (fun i => leBytes 4 (w (8 + i)).toNat) }

/-- MB_DOORBELL (R297, R306, R307). -/
def doorbell (data : W32) (s : State) : State :=
  if !(ctlUp s) || !(data.getLsbD 0) then s
  else if bellClosed s then closedBell (cmdPkt s) s
  else if s.mboxPkt.isSome || decide (s.longOp ≠ .none) then raiseBit Reg.KEEP_MB_STAT 7 (bump Reg.KEEP_MB_DROP_CNT 1 s)
  else { s with mboxPkt := some (cmdPkt s) }

/-- A write to CMD register n (R297). -/
def cmdWrite (n : Nat) (data : W32) (s : State) : State :=
  if !(ctlUp s) || decide (63 < n) then s
  else if s.mboxPkt.isSome then raiseBit Reg.KEEP_MB_STAT 8 s
  else { s with mboxCmd := cellSet (fun _ => 0) s.mboxCmd n data }

/-- MB_POP (R297). -/
def pop (data : W32) (s : State) : State :=
  if !(ctlUp s) || !(data.getLsbD 0) || decide (pwrState s = 2) then s else { s with replies := s.replies.drop 1 }

/-- The Keeper takes the latched packet. -/
def mbTake (s : State) : State :=
  match s.mboxPkt with
  | none => s
  | some p => if mayTake p s then takePkt p { s with mboxPkt := none } else s

/-- The oldest queued reply enters the FIFO; a NOT_READY also while the Keeper does not run (R297, R400, R402). -/
def replyEnter (s : State) : State :=
  match s.replyq with
  | [] => s
  | r :: t => if s.replies.length < 16 ∧ (keeperUp s ∨ (ctlUp s = true ∧ bellClosed s = true)) then { s with replies := s.replies ++ [r], replyq := t } else s

/-! ### The commands -/

/-- NOP. -/
def execNop (p : HostPkt) (s : State) : Host.Outcome State Fault Refusal := finish (hostRow 0x00 (fun _ => true) p s)
/-- GET_INFO. -/
def execGetInfo (p : HostPkt) (s : State) : Host.Outcome State Fault Refusal := finish (hostRow 0x01 (fun _ => true) p s)
/-- LOAD_MODEL. -/
def execLoadModel (p : HostPkt) (s : State) : Host.Outcome State Fault Refusal := finish (hostRow 0x10 (fun _ => true) p s)
/-- UNLOAD_MODEL. -/
def execUnloadModel (p : HostPkt) (s : State) : Host.Outcome State Fault Refusal := finish (hostRow 0x11 (fun _ => true) p s)
/-- SWITCH_MODEL. -/
def execSwitchModel (p : HostPkt) (s : State) : Host.Outcome State Fault Refusal := finish (hostRow 0x12 (fun _ => true) p s)
/-- RUN_STEP. -/
def execRunStep (p : HostPkt) (s : State) : Host.Outcome State Fault Refusal := finish (hostRow 0x20 (fun _ => true) p s)
/-- KILL_STEP with DROP = 0. -/
def execKillStepRerun (p : HostPkt) (s : State) : Host.Outcome State Fault Refusal := finish (hostRow 0x21 (fun p => !(bit (hPar p 0 1) 0)) p s)
/-- KILL_STEP with DROP = 1. -/
def execKillStepDrop (p : HostPkt) (s : State) : Host.Outcome State Fault Refusal := finish (hostRow 0x21 (fun p => bit (hPar p 0 1) 0) p s)
/-- QUERY_STEP. -/
def execQueryStep (p : HostPkt) (s : State) : Host.Outcome State Fault Refusal := finish (hostRow 0x22 (fun _ => true) p s)
/-- READ_LL. -/
def execReadLl (p : HostPkt) (s : State) : Host.Outcome State Fault Refusal := finish (hostRow 0x30 (fun _ => true) p s)
/-- PART_CONFIG with OP = SET, or an OP that is reserved. -/
def execPartConfigSet (p : HostPkt) (s : State) : Host.Outcome State Fault Refusal := finish (hostRow 0x40 (fun p => bits (hPar p 2 1) 1 0 != 1) p s)
/-- PART_CONFIG with OP = LEAVE. -/
def execPartConfigLeave (p : HostPkt) (s : State) : Host.Outcome State Fault Refusal := finish (hostRow 0x40 (fun p => bits (hPar p 2 1) 1 0 == 1) p s)
/-- STORE_NVM. -/
def execStoreNvm (p : HostPkt) (s : State) : Host.Outcome State Fault Refusal := finish (hostRow 0x50 (fun _ => true) p s)
/-- SELF_TEST. -/
def execSelfTest (p : HostPkt) (s : State) : Host.Outcome State Fault Refusal := finish (hostRow 0x51 (fun _ => true) p s)
/-- SELF_TEST_DONE. -/
def execSelfTestDone (tiles : BitVec 9) (lanes : BitVec 5) (words : W32) (s : State) : Host.Outcome State Fault Refusal :=
  finish (if keeperUp s then testDone tiles lanes words s else s)
/-- SUSPEND with LEVEL = 0. -/
def execSuspendIdle (p : HostPkt) (s : State) : Host.Outcome State Fault Refusal := finish (hostRow 0x52 (fun p => !(bit (hPar p 0 1) 0)) p s)
/-- SUSPEND with LEVEL = 1. -/
def execSuspendDark (p : HostPkt) (s : State) : Host.Outcome State Fault Refusal := finish (hostRow 0x52 (fun p => bit (hPar p 0 1) 0) p s)
/-- RESUME. -/
def execResume (p : HostPkt) (s : State) : Host.Outcome State Fault Refusal := finish (hostRow 0x53 (fun _ => true) p s)
/-- CAPTURE with OP = START. -/
def execCaptureStart (p : HostPkt) (s : State) : Host.Outcome State Fault Refusal := finish (hostRow 0x60 (fun p => !(bit (hPar p 0 1) 0)) p s)
/-- CAPTURE with OP = STOP. -/
def execCaptureStop (p : HostPkt) (s : State) : Host.Outcome State Fault Refusal := finish (hostRow 0x60 (fun p => bit (hPar p 0 1) 0) p s)
/-- REPLAY with OP = START. -/
def execReplayStart (p : HostPkt) (s : State) : Host.Outcome State Fault Refusal := finish (hostRow 0x61 (fun p => !(bit (hPar p 0 1) 0)) p s)
/-- REPLAY with OP = STOP. -/
def execReplayStop (p : HostPkt) (s : State) : Host.Outcome State Fault Refusal := finish (hostRow 0x61 (fun p => bit (hPar p 0 1) 0) p s)
/-- LOG_FLUSH. -/
def execLogFlush (p : HostPkt) (s : State) : Host.Outcome State Fault Refusal := finish (hostRow 0x70 (fun _ => true) p s)
/-- SUBMIT_LIST. -/
def execSubmitList (p : HostPkt) (s : State) : Host.Outcome State Fault Refusal := finish (hostRow 0x80 (fun _ => true) p s)
/-- ALLOC_COUNTERS. -/
def execAllocCounters (p : HostPkt) (s : State) : Host.Outcome State Fault Refusal := finish (hostRow 0x81 (fun _ => true) p s)
/-- FREE_COUNTERS. -/
def execFreeCounters (p : HostPkt) (s : State) : Host.Outcome State Fault Refusal := finish (hostRow 0x82 (fun _ => true) p s)
/-- ALLOC_CPOOL. -/
def execAllocCpool (p : HostPkt) (s : State) : Host.Outcome State Fault Refusal := finish (hostRow 0x83 (fun _ => true) p s)
/-- FREE_CPOOL. -/
def execFreeCpool (p : HostPkt) (s : State) : Host.Outcome State Fault Refusal := finish (hostRow 0x84 (fun _ => true) p s)
/-- CFG_COMMIT with SELF = 0. -/
def execCfgCommitRef (p : HostPkt) (s : State) : Host.Outcome State Fault Refusal := finish (hostRow 0x90 (fun p => !(bit (hPar p 4 1) 0)) p s)
/-- CFG_COMMIT with SELF = 1. -/
def execCfgCommitSelf (p : HostPkt) (s : State) : Host.Outcome State Fault Refusal := finish (hostRow 0x90 (fun p => bit (hPar p 4 1) 0) p s)
/-- MB_DOORBELL. -/
def execMbDoorbell (data : W32) (s : State) : Host.Outcome State Fault Refusal := finish (doorbell data s)
/-- MB_CMD_WRITE. -/
def execMbCmdWrite (n : Nat) (data : W32) (s : State) : Host.Outcome State Fault Refusal := finish (cmdWrite n data s)
/-- MB_POP. -/
def execMbPop (data : W32) (s : State) : Host.Outcome State Fault Refusal := finish (pop data s)
/-- MB_TAKE. -/
def execMbTake (s : State) : Host.Outcome State Fault Refusal := finish (mbTake s)
/-- KEEPER_READ_TIMEOUT. -/
def execKeeperReadTimeout (s : State) : Host.Outcome State Fault Refusal := finish (keeperLate s)
/-- REPLY_FIFO_ENTER. -/
def execReplyFifoEnter (s : State) : Host.Outcome State Fault Refusal := finish (replyEnter s)

end Sys2Proof.Machine
end

