-- ==== Sys2Proof/Machine/Bringup.lean ====
section
/-! DEFINITION. Resets, bring-up, power states and the AON tick (spec/15 R398 to R414, spec/11 R316, spec/16 R424, R433). -/

namespace Sys2Proof.Machine

/-! ### Values a writable field ignores (R421) -/

/-- A value written to the RW fields of a register, fields that ignore it kept, with the status bits of what was ignored (R331, R396, R397). -/
def rwScreen (s : State) (off v : Nat) : Nat × Bool × List (Nat × Nat) :=
  let l := reg s off
  if off = Reg.REL_SCRUB ∨ off = Reg.REL_SND_CTL then
    if bits v 8 1 = 0 then (setBits v 8 1 (bits l 8 1), true, []) else (v, false, [])
  else if off = Reg.REL_SND_THR then
    if bits v 7 0 ≤ bits v 15 8 ∨ bits v 15 8 ≤ bits v 23 16 then (l, true, [(Reg.REL_SND_STAT, 3)]) else (v, false, [])
  else if off = Reg.PART_LOG_HIGH then
    if bits v 21 0 ≤ fld s Reg.PART_LOG_LOW 21 0 ∨ logCap s < bits v 21 0 then (l, true, [(Reg.PART_LOG_STAT, 3)]) else (v, false, [])
  else if off = Reg.PART_LOG_LOW then
    if fld s Reg.PART_LOG_HIGH 21 0 ≤ bits v 21 0 ∨ logCap s < fld s Reg.PART_LOG_HIGH 21 0 then (l, true, [(Reg.PART_LOG_STAT, 3)]) else (v, false, [])
  else (v, false, [])

/-- Write the RW fields of a register, under a mask of bits written (R421). -/
def writeRw (off mask v : Nat) (s : State) : State :=
  match regRow off with
  | none => s
  | some r =>
    let m := Nat.land r.rw mask
    if m = 0 then s else
    let x := rwScreen s off (Nat.lor (Nat.land (reg s off) (0xFFFFFFFF - m)) (Nat.land v m))
    setReg off x.1 (x.2.2.foldl (fun s b => raiseBit b.1 b.2 s) s)

/-! ### Resets (R385, R398) -/

/-- PWR_GOOD_RISE (R398): a cold reset. -/
def execPwrGoodRise (s : State) : Host.Outcome State Fault Refusal := finish (if s.powered then s else resetTo .cold s)

/-- PWR_GOOD_FALL (R385). -/
def execPwrGoodFall (s : State) : Host.Outcome State Fault Refusal := finish { s with powered := false, alarm := false }

/-- RESET_N (R398): a pulse shorter than 25 AON cycles is ignored. -/
def execResetN (aonCycles : Nat) (s : State) : Host.Outcome State Fault Refusal :=
  finish (if s.powered && decide (25 ≤ aonCycles) then resetTo .warm s else s)

/-! ### Phase A (R399, R410, R411) -/

/-- Bring-up stands in a phase and can go on. -/
def inPhase (s : State) (n : Nat) : Bool :=
  s.powered && !s.power.clkStopped && decide (fld s Reg.REL_PWR_STAT 4 3 = n) && !(ready s) && !(flag s Reg.REL_PWR_STAT 5) && decide (pwrState s ≠ 2)

/-- The durations of the phases before phase i, in units of 10 µs. -/
def bootSum (s : State) (i : Nat) : Nat := total ((List.range i).map (fun j => reg s (Reg.REL_BOOT_T j)))

/-- A phase ends: its duration, a free number of 10 µs units that keeps the time since the reset's cause within the bound, is written (R399). -/
def phaseTime (i bound : Nat) (s : State) : State := tick (setReg (Reg.REL_BOOT_T i) (min (Config.freeCycles s.free) (bound - bootSum s i)) s)

/-- The store's identity, settings entries and pool body into the AON shadows (R399, R411); not after a wake (R398). -/
def loadShadows (s : State) : State :=
  if s.power.waking then s else
  let id := nvmRd s 0 8
  let ents := match nvmUse s 0 with | some u => settingEntries u.2.2 | none => []
  { s with power := { s.power with
      shadow := (Reg.CORE_DEVID_LO, leAt id 0 4) :: (Reg.CORE_DEVID_HI, leAt id 4 4) :: ents
      poolBody := (nvmUse s 1).map (fun u => u.2.2) } }

/-- The device identity of the shadows (R410, R434). -/
def showIdentity (s : State) : State :=
  let v (o : Nat) : Nat := match s.power.shadow.find? (fun e => e.1 == o) with | some e => e.2 | none => 0
  setReg Reg.CORE_DEVID_HI (v Reg.CORE_DEVID_HI) (setReg Reg.CORE_DEVID_LO (v Reg.CORE_DEVID_LO) s)

/-- Phase A ends: the shadows hold the store's choice, CTL_UP is asserted (R399). -/
def endPhaseA (s : State) : State :=
  if !(inPhase s 0) then s else
  phaseTime 0 200 (setFld Reg.REL_PWR_STAT 4 3 1 (showIdentity (nvmStatus (loadShadows s))))

/-- PHASE_A_END (R399). -/
def execPhaseAEnd (s : State) : Host.Outcome State Fault Refusal := finish (endPhaseA s)

/-! ### Phase B and the start of phase C (R316, R399, R402, R411, R412, R414) -/

/-- Bring-up cannot finish (R402). -/
def bringupFail (s : State) : State := { raiseBit Reg.REL_PWR_STAT 5 s with alarm := true }

/-- Staging SRAM is zero, with fresh check bits (R399). -/
def clearStaging (s : State) : State :=
  { s with mem := s.mem.filter (fun e => !(inStaging e.1)), poison := s.poison.filter (fun w => !(inStaging (w * 8))) }

/-- One settings entry: refused values and unlisted offsets set SET_IGN; a kept VOFS is not lowered, a PWR_CFG kept over a wake stays
(R398, R412; log entry 37): `kept` is the VOFS held before the first entry. -/
def applySetting (kept : Nat) (e : Nat × Nat) (s : State) : State :=
  let ign (b : Bool) (s : State) : State := raiseIf b Reg.REL_NVM_STAT 8 s
  if !(settingRegs.contains e.1) then ign true s
  else if e.1 = Reg.REL_PWR_CFG && s.power.waking then s
  else match regRow e.1 with
    | none => ign true s
    | some r =>
      let v := if e.1 = Reg.REL_SND_VOFS then max (bits e.2 3 0) kept else e.2
      let x := screen s e.1 (Nat.land v r.rws)
      let y := rwScreen s e.1 (Nat.lor (Nat.land (reg s e.1) (0xFFFFFFFF - r.rw)) (Nat.land v r.rw))
      let w := Nat.lor (Nat.land y.1 (0xFFFFFFFF - r.rws)) (Nat.land x.1 r.rws)
      ign (!x.2.isEmpty || y.2.1) (setStg e.1 (Nat.land x.1 r.rws) (setReg e.1 w s))

/-- The settings entries in the shadows, behind the device identity, are applied in order; the running CRC is computed anew (R411, R431). -/
def applySettings (s : State) : State :=
  let kept := fld s Reg.REL_SND_VOFS 3 0
  { (s.power.shadow.drop 2).foldl (fun s e => applySetting kept e s) s with cfgBusy := true }

/-- A class pool's registers, live and staged. -/
def setPoolRegs (p : Nat × Addr × Nat × Addr) (s : State) : State :=
  let w (o v : Nat) (s : State) : State := setStg o v (setReg o v s)
  let a := p.2.1
  let r := p.2.2.2
  w (Reg.COMB_POOL_BASE_LO p.1) (a % 2 ^ 32) (w (Reg.COMB_POOL_BASE_HI p.1) (a / 2 ^ 32) (w (Reg.COMB_POOL_CNT p.1) p.2.2.1
    (w (Reg.COMB_POOL_RING_LO p.1) (r % 2 ^ 32) (w (Reg.COMB_POOL_RING_HI p.1) (r / 2 ^ 32) s))))

/-- The pools are built: class pools from a valid pool body, else the uniform pool with FALLBACK (R316). -/
def buildPools (s : State) : State :=
  let ps := match s.power.poolBody with | some b => bodyPools b | none => []
  if s.power.poolBody.isSome && poolsValid [] (ps ++ [(5, poolRegs (reg s) 5)]) then
    rebuildPools (setFld Reg.COMB_POOL_STAT 1 0 0 (raiseBit Reg.REL_NVM_STAT 2 (ps.foldl (fun s p => setPoolRegs p s) s)))
  else
    faultRec 0x06 16 (ownDa s) 0 0 noStep (rebuildPools (setFld Reg.COMB_POOL_STAT 1 0 3 (dropBit Reg.REL_NVM_STAT 2 s)))

/-- The image in use is loaded, its version shown; without a valid copy the slice waits for an external one (R279, R411, R414). -/
def loadImage (s : State) : State :=
  match nvmUse s 2 with
  | none => { raiseBit Reg.REL_NVM_STAT 5 s with power := { s.power with fwVer := none } }
  | some u => setReg Reg.KEEP_FW_VER (leAt u.2.2 0 4) (setFld Reg.REL_PWR_STAT 6 6 (b2n u.1) { s with power := { s.power with fwVer := some (leAt u.2.2 0 4) } })

/-- Phase B ends: failed units are substituted, SRAM is clear; phase C starts with the shadows applied, the pools built and the image loaded
(R399, R400). -/
def endPhaseB (tiles lanes : Nat) (s : State) : State :=
  if !(inPhase s 1) then s else
  let full := !s.power.waking || s.power.full
  let s := if full then setFld Reg.SORT_LANE_FAIL 4 0 lanes (setFld Reg.SCORE_TILE_FAIL 8 0 tiles s) else s
  let s := substLanes (substTiles (clearStaging s))
  let s := phaseTime 1 (if full then 4000 else 1200) (setFld Reg.REL_PWR_STAT 4 3 2 s)
  let s := loadImage (buildPools (applySettings s))
  if flag s Reg.SCORE_TILE_MAP 14 || flag s Reg.SORT_LANE_MAP 9 then bringupFail s else s

/-- PHASE_B_END (R399). -/
def execPhaseBEnd (tiles : BitVec 9) (lanes : BitVec 5) (s : State) : Host.Outcome State Fault Refusal :=
  finish (endPhaseB tiles.toNat lanes.toNat s)

/-! ### The end of phase C (R401, R402, R414, R433) -/

/-- The slice becomes ready once it has an image (R401). -/
def becomeReady (startupOk : Bool) (s : State) : State :=
  if !(inPhase s 2) then s else
  match s.power.fwVer with
  | none => s
  | some _ =>
    if !startupOk then bringupFail s else
    let s := phaseTime 2 (if flag s Reg.REL_PWR_STAT 7 then 1020000 + bootSum s 2 else if s.power.waking && !s.power.full then 12000 else 20000) s
    let s := setFld Reg.REL_PWR_STAT 4 0 0x1C s
    let s := crcDone (commitSelf s)
    let s := writeGroups { s with power := { s.power with waking := false } }
    let found := (s.links.filter (fun e => e.2.discovered)).map Prod.fst
    let s := found.foldl (fun s l => sendReply l s) s
    forwardHeld (startElection s)

/-- SLICE_READY (R401). -/
def execSliceReady (startupOk : Bool) (s : State) : Host.Outcome State Fault Refusal := finish (becomeReady startupOk s)

/-- The external image at BOOT_SRC: aligned to 64, wholly outside staging and the apertures, and a valid image copy (R414). -/
def extImage (s : State) : Option (Nat × List Byte) :=
  let a := addrReg s Reg.REL_BOOT_SRC_LO
  let n := 16 + rdLe s (a + 8) 4
  if decide (a % 64 = 0) && !(overlap a n Config.stagingBase Config.stagingSize) && decide (a + n ≤ Config.apertureBase) then imageAt s a else none

/-- BOOT_CTL.GO: a slice that waits for an image reads and checks the external one (R414). -/
def bootGo (data : Nat) (s : State) : State :=
  if !(bit data 0) || !(inPhase s 2) || s.power.fwVer.isSome then s else
  match extImage s with
  | some c => setReg Reg.KEEP_FW_VER (leAt c.2 0 4) <| raiseBit Reg.REL_PWR_STAT 7 { s with power := { s.power with fwVer := some (leAt c.2 0 4) } }
  | none => raiseBit Reg.REL_BOOT_CTL 1 s

/-- EXT_IMAGE_TIMEOUT (R414). -/
def execExtImageTimeout (s : State) : Host.Outcome State Fault Refusal :=
  finish (if inPhase s 2 && s.power.fwVer.isNone then bringupFail s else s)

/-! ### Power states (R404 to R408) -/

/-- Leaving IDLE completes: the slice is in RUN; the RESUME, and any that came meanwhile, are answered (R404, R407, R408). -/
def idleExit (s : State) : State :=
  match s.power.susp with
  | .leavingIdle r =>
    let more := s.power.heldWakes.filterMap Wake.reply
    let s := setFld Reg.REL_PWR_STAT 1 0 0 { s with power := { s.power with susp := .none, heldWakes := [] } }
    ((match r with | some r => [r] | none => []) ++ more).foldl (fun s r => answer r s) s
  | _ => s

/-- IDLE_EXIT_DONE (R404). -/
def execIdleExitDone (s : State) : Host.Outcome State Fault Refusal := finish (if forwarding s then idleExit s else s)

/-- DARK_DRAIN_TIMER (R406): forwarding ends. -/
def execDarkDrainTimer (s : State) : Host.Outcome State Fault Refusal :=
  finish (match s.power.susp with
    | .fencing => if forwarding s then { s with power := { s.power with susp := .draining } } else s
    | _ => s)

/-- Held wake sources start the wake now: one wake, FULL_BIST from a RESUME among them; each is recorded, each RESUME answered (R408). -/
def darkWakes (ws : List Wake) (s : State) : State :=
  match ws with
  | [] => s
  | w :: t =>
    let first := (ws.find? (fun w => w.full.isSome)).getD w
    let s := wakeReset first s
    let s := (w :: t).foldl (fun s w => if w = first then s else recordWake w s) s
    (ws.filterMap Wake.reply).foldl (fun s r => answer { r with status := 2, r0 := 1 } s) s

/-- The packets that came in, and the slice's own, have left its buffers (R193, R406). -/
def buffersEmpty (s : State) : Bool := s.inQ.isEmpty && s.ejectQ.isEmpty && s.fabQ.isEmpty && s.injQ.isEmpty

/-- DARK, once the input buffers are empty: every domain but AON is gated, a packet latched in the mailbox with them; wake sources held on the way
start the wake (R406, R407, R408). -/
def enterDark (s : State) : State :=
  match s.power.susp with
  | .draining =>
    if !(buffersEmpty s) then s else
    let ws := s.power.heldWakes
    let s := setFld Reg.REL_PWR_STAT 1 0 2 { s with mboxPkt := none, taking := none, switchRun := none, power := { s.power with susp := .none, heldWakes := [] } }
    darkWakes ws s
  | _ => s

/-- DARK_ENTER (R406). -/
def execDarkEnter (s : State) : Host.Outcome State Fault Refusal := finish (if forwarding s then enterDark s else s)

/-! ### The AON tick (R396, R409, R424) -/

/-- Staged PWR_CFG and VOFS apply when the comparison succeeds; a step of VOFS that sounding asked for is taken (R383, R396, R424; log entry
37). In DARK, before readiness and after a clock loss there is nothing to compare: the other domains are gated or in reset, or the reference is not set
yet (R39, R409, R433; log entry 74). -/
def aonTick (s : State) : State :=
  let pend := s.power.vofsSet || decide (Nat.land (stg s Reg.REL_PWR_CFG) 3 ≠ Nat.land (reg s Reg.REL_PWR_CFG) 3)
  let up := s.power.vofsUp
  let ok := !(forwarding s) || !(cfgMismatch s)
  let s := { s with power := { s.power with vofsUp := false } }
  let set := s.power.vofsSet
  let s := if !pend then s
    else if !ok then cfgHold s
    else
      let s := applyReg Reg.REL_PWR_CFG (cfgRelease s)
      if set then applyReg Reg.REL_SND_VOFS { s with power := { s.power with vofsSet := false } } else s
  if up && !(pend && ok && set) then setFld Reg.REL_SND_VOFS 3 0 (min (fld s Reg.REL_SND_VOFS 3 0 + 1) 15) s else s

/-- AON_TICK (R424): every rising AON edge, whatever state the other domains are in (R39, R398, R409). -/
def execAonTick (s : State) : Host.Outcome State Fault Refusal := finish (if s.powered then aonTick s else s)

/-! ### Fatal conditions of the Keeper (R278, R279) -/

/-- A mismatch of the Keeper's cores, or its watchdog: the bit is set; a slice in service is lost, one still in phase C cannot finish bring-up
(R278, R279, R402; log entry 107). -/
def keeperFatal (code b : Nat) (s : State) : State :=
  let t := raiseBit Reg.KEEP_STAT b s
  if forwarding s then ownLoss code 1 0 0 t
  else if inPhase s 2 then bringupFail t else s

/-- LOCKSTEP_MISMATCH (R278). -/
def execLockstepMismatch (s : State) : Host.Outcome State Fault Refusal := finish (keeperFatal 0x80 0 s)

/-- WATCHDOG_EXPIRE (R279). -/
def execWatchdogExpire (s : State) : Host.Outcome State Fault Refusal := finish (keeperFatal 0x81 1 s)

end Sys2Proof.Machine
end

