-- ==== Sys2Proof/Machine/LogFifo.lean ====
section
/-! DEFINITION. Reading and flushing the log FIFO (spec/11 R327 to R332). -/

namespace Sys2Proof.Machine

/-- The FIFO word that holds a packet's next words: data, then the tag (R327). -/
def fifoWord (p : LogPkt) (lost : Bool) : BitVec 256 :=
  let now := p.words.take 7
  let tag := 4 * now.length + b2n (decide (p.words.length ≤ 7)) * 2 ^ 5 + 2 ^ 6 + b2n lost * 2 ^ 7 + p.wseq % 2 ^ 16 * 2 ^ 16
  BitVec.ofNat 256 (leNat (now.flatMap (fun w => leBytes 4 w.toNat)) + tag * 2 ^ 224)

/-- The FIFO words of a packet as they stand in the FIFO, LOST not yet known (R327, R329); k bounds them. -/
def packetWords : Nat → LogPkt → List (BitVec 256)
  | 0, _ => []
  | k + 1, p =>
    if p.words.isEmpty then [] else fifoWord p false :: packetWords k { p with words := p.words.drop 7, wseq := (p.wseq + 1) % 2 ^ 16 }

/-- A CORE cycle of the spill path: the oldest word between the first 8 and the last 8 held that is not there yet goes to the spill ring, at its place
by its number among the words entered; the path is the slice's own, and no bucket meters it (R329, R344; log entry 77). -/
def spillCycle (s : State) : State :=
  let size := fld s Reg.PART_LOG_SPILL_SZ 10 0
  let head := s.log.entered - logFill s
  let i := max s.log.spilledTo (head + 8)
  if size = 0 || decide (s.log.entered < i + 9) then s else
  match (s.log.pkts.flatMap (fun p => packetWords p.words.length p))[i - head]? with
  | none => s
  | some w =>
    putAll (wrBytes (addrReg s Reg.PART_LOG_SPILL_LO + 32 * (i % (2048 * size))) (leBytes 32 w.toNat)) { s with log := { s.log with spilledTo := i + 1 } }

/-- Packets at the head whose spilled words come back with an uncorrectable error go whole and count as lost (R329; log entry 2); k bounds the
packets looked at. -/
def spillCheck : Nat → State → State
  | 0, s => s
  | k + 1, s =>
    match s.log.pkts with
    | [] => s
    | p :: t =>
      if !p.spilled then s
      else if Config.spillBad s.free then
        spillCheck k (raiseBit Reg.PART_LOG_STAT 4 (logLose (fifoWords p.words.length) (tick { s with log := { s.log with pkts := t } })))
      else tick { s with log := { s.log with pkts := { p with spilled := false } :: t } }

/-- The prefetch is being refilled: 4 CTL cycles, 8 ns, from a take on (R11, R328). -/
def refilling (s : State) : Bool := match s.log.takenAt with | none => false | some t => decide (s.clock < t + 13)

/-- Take the next word into the output latch; on an empty FIFO, and while the prefetch is refilled, the latch is all zero and nothing is taken (R328
to R330). -/
def logTake (s : State) : State :=
  if refilling s then { s with log := { s.log with latch := 0 } } else
  let s := spillCheck s.log.pkts.length s
  match s.log.pkts with
  | [] => logFell { s with log := { s.log with latch := 0 } }
  | p :: t =>
    let rest := p.words.drop 7
    let pkts := if rest.isEmpty then t else { words := rest, wseq := (p.wseq + 1) % 2 ^ 16, spilled := false } :: t
    logFell { s with log := { s.log with pkts := pkts, latch := fifoWord p s.log.lossMark, lossMark := false, takenAt := some s.clock } }

/-- Word m of the latch. -/
def latchWord (s : State) (m : Nat) : Nat := bits s.log.latch.toNat (32 * m + 31) (32 * m)

/-- A flush is requested (R332). -/
def flushAsk (s : State) : State := raiseBit Reg.PART_LOG_STAT 2 s

/-- The staged spill values apply where the comparison succeeds (R332, R383). -/
def flushApply (s : State) : State :=
  if !(pendOf s .flush) then s
  else if cfgMismatch s then cfgHold s
  else (offsOf .flush).foldl (fun s o => applyReg o s) (cfgRelease s)

/-- The flush takes effect: everything held goes without counting as lost, staged spill values apply, the replies are queued (R332). -/
def flushNow (s : State) : State :=
  if !(flag s Reg.PART_LOG_STAT 2) then s else
  let rs := s.log.flushReplies
  let s := { s with log := { s.log with pkts := [], latch := 0, flushReplies := [] } }
  let s := dropBit Reg.PART_LOG_STAT 2 (logFell (flushApply s))
  rs.foldl (fun s r => queueReply r s) s

/-- LOG_FLUSH_BOUNDARY (R332). -/
def execLogFlushBoundary (s : State) : Host.Outcome State Fault Refusal :=
  finish (if s.powered && !s.power.clkStopped && decide (pwrState s < 2) then flushNow s else s)

end Sys2Proof.Machine
end

