-- ==== Sys2Proof/Machine/Window.lean ====
section
/-! DEFINITION. The 64 KiB register window: what a register reads as, what a write does, widths and alignment, bit aliases, the AON responder
(spec/16 R418 to R434, R436; spec/15 R407). -/

namespace Sys2Proof.Machine

/-! ### What a register reads as -/

/-- An RC bit is set in a page (R434). -/
def pageRc (s : State) (page : Nat) : Bool :=
  regTable.any (fun r => decide (r.off / 4096 = page) && decide (r.rc ≠ 0) && decide (Nat.land (reg s r.off) r.rc ≠ 0))

/-- A ring's status word (R309). -/
def ringStat (s : State) (n : Nat) : Nat :=
  (s.ringq.filter (fun r => r.ring == n)).length % 2 ^ 13 + b2n (s.running.any (fun u => u.cmd.ring == n)) * 2 ^ 13
    + b2n (s.steps.any (fun x => x.held.any (fun h => h.ring == n))) * 2 ^ 14

/-- The credit pool shown (R309). -/
def cpoolVal (s : State) : Nat :=
  match cpoolAt s (fld s Reg.KEEP_CPOOL_SEL 5 0) with
  | some p => p.credits % 2 ^ 12 + p.size % 2 ^ 12 * 2 ^ 12 + 2 ^ 24
  | none => 0

/-- CORE_STAT's live bits: CFG_BUSY and CFG_MISMATCH (R431, R432). -/
def coreStat (s : State) : Nat :=
  reg s Reg.CORE_STAT + b2n s.cfgBusy * 4 + b2n (!s.cfgBusy && decide (reg s Reg.CORE_CFG_CRC ≠ reg s Reg.CORE_CFG_REF)) * 8

/-- CORE_PEND (R428, R434). -/
def corePend (s : State) : Nat :=
  b2n (pendOf s .step) + b2n (pendOf s .flip) * 2 + b2n (pendOf s .aon) * 4 + b2n (pendOf s .flush) * 8 + b2n (pendOf s .pool) * 16
    + b2n (s.refused.any (fun e => stg s e.1 == e.2)) * 32

/-- LOG_STAT with the pins LOG_XOFF and LOG_IRQ (R331, R335). -/
def logStat (s : State) : Nat :=
  let v := reg s Reg.PART_LOG_STAT
  v + b2n (bit v 0) * 32 + b2n (flag s Reg.PART_LOG_CTL 3 && (bit v 0 || bit v 1)) * 64

/-- The live value of a register; those that mirror other state take it from there (R309, R334, R335, R356, R434). -/
def view (s : State) (o : Nat) : Nat :=
  let m := (o - Reg.KEEP_MB_REPLY 0) / 4
  if o = Reg.CORE_ID then reg s o / 2 ^ 20 * 2 ^ 20 + ownDa s
  else if o = Reg.CORE_STAT then coreStat s
  else if o = Reg.CORE_PEND then corePend s
  else if o = Reg.CORE_SUMMARY then
    ((List.range 7).map (fun i => b2n (pageRc s (i + 1)) * 2 ^ i)).foldl (· + ·) (b2n (decide (bits (reg s Reg.CORE_STAT) 1 0 ≠ 0)) * 2 ^ 7)
  else if o = Reg.KEEP_CNT_VAL then (cnt s (fld s Reg.KEEP_CNT_SEL 9 0)).toNat
  else if o = Reg.KEEP_CPOOL_VAL then cpoolVal s
  else if Reg.KEEP_RING_STAT 0 ≤ o ∧ o ≤ Reg.KEEP_RING_STAT 19 then ringStat s ((o - Reg.KEEP_RING_STAT 0) / 4)
  else if o = Reg.KEEP_MB_STAT then
    reg s o + b2n s.mboxPkt.isSome + s.replies.length % 32 * 2 + b2n (decide (s.longOp ≠ .none)) * 64
  else if Reg.KEEP_MB_REPLY 0 ≤ o ∧ o ≤ Reg.KEEP_MB_REPLY 7 then
    (match s.replies with | [] => 0 | r :: _ => ((replyWords r)[m]?).getD 0 % 2 ^ 32)
  else if o = Reg.SORT_LL_STAT then reg s o + b2n (curEpoch s)
  else if (List.range 6).any (fun n => Reg.COMB_POOL_FREE n == o) then (poolAt s ((o - Reg.COMB_POOL_FREE 0) / 32)).free.length % 2 ^ 17
  else if o = Reg.SORT_LL_PIN then reg s o / 2 ^ 15 * 2 ^ 15 + llPinned s (curEpoch s) % 2 ^ 15
  else if o = Reg.COMB_POOL_STAT then Nat.lor (reg s o) (b2n (poolWait s) * 4)
  else if o = Reg.PART_STAT then reg s o + b2n (switching s || s.switchRun.isSome || pinsOut s) * 16
  else if o = Reg.COMB_XLATE then xlateUsed s % 2 ^ 14
  else if Reg.PART_ACCT_VAL 0 ≤ o ∧ o ≤ Reg.PART_ACCT_VAL 7 then
    bits s.acct.toNat (32 * ((o - Reg.PART_ACCT_VAL 0) / 4) + 31) (32 * ((o - Reg.PART_ACCT_VAL 0) / 4))
  else if Reg.PART_WIN_VAL 0 ≤ o ∧ o ≤ Reg.PART_WIN_VAL 3 then
    bits ((s.part.wins[fld s Reg.PART_WIN_SEL 3 0]?).getD 0) (32 * ((o - Reg.PART_WIN_VAL 0) / 4) + 31) (32 * ((o - Reg.PART_WIN_VAL 0) / 4))
  else if o = Reg.PART_LOG_STAT then logStat s
  else if o = Reg.PART_LOG_FILL then logFill s % 2 ^ 22
  else if o = Reg.PART_LOG_PKT then s.log.pkts.length % 2 ^ 22
  else if Reg.PART_LOG_WORD 0 ≤ o ∧ o ≤ Reg.PART_LOG_WORD 7 then latchWord s ((o - Reg.PART_LOG_WORD 0) / 4)
  else reg s o

/-- What the host reads: staged copies in RWS fields under STAGED_VIEW (R428). -/
def hostView (s : State) (o : Nat) : Nat :=
  match regRow o with
  | none => 0
  | some r =>
    let v := Nat.land (view s o) (0xFFFFFFFF - r.wo)
    if flag s Reg.CORE_CTL 0 then Nat.lor (Nat.land v (0xFFFFFFFF - r.rws)) (Nat.land (stg s o) r.rws) else v

/-! ### Aliases (R429) -/

/-- The register offset an access offset reaches, and the bit it is an alias of. -/
def target (o : Nat) : Nat × Option Nat :=
  if o < 0x8000 then (o / 4 * 4, none) else
  let k := (o - 0x8000) / 4
  (k / 32 * 4, some (k % 32))

/-- An offset is mapped (R418). -/
def mapped (o : Nat) : Bool := (regRow (target o).1).isSome

/-! ### Reads (R421, R423, R429) -/

/-- The value a 32-bit read of an aligned offset returns, before its side effects. -/
def read32 (s : State) (o : Nat) : Nat :=
  match target o with
  | (b, none) => hostView s b
  | (b, some k) => b2n (bit (hostView s b) k)

/-- Clear the RC bits a read returned as 1. -/
def clearRc (o v : Nat) (s : State) : State :=
  match regRow (target o).1 with
  | none => s
  | some r =>
    let m := match (target o).2 with
      | none => Nat.land r.rc v
      | some k => if bit v 0 && bit r.rc k then 2 ^ k else 0
    if m = 0 then s else setReg r.off (Nat.land (reg s r.off) (0xFFFFFFFF - m)) s

/-- The side effect before a 32- or 64-bit read: WORD0 takes the next word (R328). -/
def readTake (o : Nat) (s : State) : State := if o = Reg.PART_LOG_WORD 0 then logTake s else s

/-! ### Status of accesses (R418, R423, R436) -/

/-- Record an access that set ACCESS_ERR or UNMAPPED. -/
def accessErr (err unm : Bool) (off kind : Nat) (remote : Bool) (s : State) : State :=
  if !err && !unm then s else
  let s := raiseIf unm Reg.CORE_STAT 1 (raiseIf err Reg.CORE_STAT 0 s)
  bump Reg.CORE_ERR_CNT 1 (setReg Reg.CORE_ERR_ADDR (off % 2 ^ 16 + kind * 2 ^ 16 + b2n remote * 2 ^ 19) s)

/-- The _LO registers at offsets 4 above a multiple of 8 (R423). -/
def pairOffs : List Nat :=
  [Reg.KEEP_PUB_LO, Reg.XCHG_RT_BASE_LO, Reg.XCHG_FETCH_BYTES_LO, Reg.XCHG_FETCH_SERVED_LO, Reg.XCHG_FETCH_BUSY_LO, Reg.PART_TDC_LO,
   Reg.PART_CAP_DONE_LO, Reg.PART_CAP_SW_LO, Reg.PART_LOG_SPILL_LO, Reg.REL_ERR_LO, Reg.REL_CE_LO, Reg.REL_HOLE_LO]
  ++ (List.range 6).map Reg.COMB_POOL_RING_LO

/-- An access is aligned (R423). -/
def aligned (off size : Nat) : Bool := decide (off % size = 0) || (size == 8 && pairOffs.contains off)

/-- OFFSET and the unmapped halves of an aligned 64-bit access (R436). -/
def wideErr (off : Nat) : Bool × Nat :=
  let a := mapped off
  let b := mapped (off + 4)
  (!a || !b, if a && !b then off + 4 else off)

/-- A read of the register window. -/
def windowRead (off size : Nat) (s : State) : State :=
  if !(aligned off size) then
    emit (.readData size (BitVec.ofNat 64 (2 ^ (8 * size) - 1))) (accessErr true (!(mapped off)) off 4 false s)
  else if size < 4 then
    let v := read32 s off / 2 ^ (8 * (off % 4))
    emit (.readData size (BitVec.ofNat 64 (v % 2 ^ (8 * size)))) (accessErr true (!(mapped off)) off (size - 1) false s)
  else if size = 4 then
    let s := readTake off s
    let v := read32 s off
    emit (.readData 4 (BitVec.ofNat 64 v)) (accessErr false (!(mapped off)) off 6 false (clearRc off v s))
  else
    let s := readTake off s
    let v := read32 s off
    let w := read32 s (off + 4)
    let e := wideErr off
    emit (.readData 8 (BitVec.ofNat 64 (v + w * 2 ^ 32))) (accessErr false e.1 e.2 6 false (clearRc (off + 4) w (clearRc off v s)))

/-! ### Writes (R420, R421, R429) -/

/-- TDC and its sources go to zero (R363); what has accrued since the last COMMIT record still counts in the next one (R366). -/
def clearTdc (s : State) : State :=
  let s := { s with cap := { s.cap with tdcAt := (withIdx 0 s.cap.tdcAt).map (fun e => e.2 - (reg s (Reg.PART_TDC_SRC e.1) : Int)) } }
  ([Reg.PART_TDC_LO, Reg.PART_TDC_HI] ++ (List.range 6).map Reg.PART_TDC_SRC).foldl (fun s o => setReg o 0 s) s

/-- The copy of the selected client's accounting entry reads it through the die memory port (R344, R350, R382). -/
def acctRead (s : State) : State :=
  if s.part.acctBase = 0 then s else keeperRead [(s.part.acctBase + 32 * fld s Reg.PART_ACCT_SEL 12 0, 32)] s

/-- What a write of 1 to a WO bit, or a write of a field that starts something, does: `m` the bits written, `v` the value (R71, R297, R332, R350,
R363, R368, R414). -/
def writeFx (o m v : Nat) (s : State) : State :=
  let w := Nat.land v m
  if Reg.KEEP_MB_CMD 0 ≤ o ∧ o ≤ Reg.KEEP_MB_CMD 63 then
    let n := (o - Reg.KEEP_MB_CMD 0) / 4
    let old := (cellGet (fun _ => 0) s.mboxCmd n : W32).toNat
    if m = 0 then s else cmdWrite n (BitVec.ofNat 32 (Nat.lor (Nat.land old (0xFFFFFFFF - m)) w)) s
  else if o = Reg.KEEP_MB_DOORBELL then doorbell (BitVec.ofNat 32 w) s
  else if o = Reg.KEEP_MB_POP then pop (BitVec.ofNat 32 w) s
  else if o = Reg.COMB_CNT_CLR then
    let s := if bit w 0 then setReg Reg.COMB_CLAMP_CNT_HI 0 (setReg Reg.COMB_CLAMP_CNT_LO 0 s) else s
    if bit w 1 then setReg Reg.COMB_SAT_CNT 0 s else s
  else if o = Reg.PART_ACCT_SEL then (if Nat.land m 0x1FFF = 0 then s else raiseBit o 31 (acctRead s))
  else if o = Reg.PART_DET_CTL then (if bit w 13 then clearTdc s else s)
  else if o = Reg.PART_CAP_SW_HI then (if m = 0 then s else capSw (BitVec.ofNat 32 (reg s o)) s)
  else if o = Reg.PART_CAP_MARGIN then capMargin s
  else if o = Reg.PART_LOG_CTL then (if bit w 4 then flushAsk s else s)
  else if o = Reg.REL_BOOT_CTL then bootGo w s
  else s

/-- Write the bits of a mask of a register, each field by its access code. -/
def writeReg (o mask v : Nat) (s : State) : State :=
  match regRow o with
  | none => s
  | some r =>
    let s := writeRw o mask v s
    let m := Nat.land r.rws mask
    let s := if m = 0 then s else stageBits o m v s
    writeFx o mask v s

/-- Write 32 bits at an aligned offset, a register or a bit alias, under a mask (R421, R429). -/
def write32 (o mask v : Nat) (s : State) : State :=
  match target o with
  | (b, none) => writeReg b mask v s
  | (b, some k) => if bit mask 0 then writeReg b (2 ^ k) (b2n (bit v 0) * 2 ^ k) s else s

/-- A write of the register window. -/
def windowWrite (off size : Nat) (v : Nat) (s : State) : State :=
  if !(aligned off size) then accessErr true (!(mapped off)) off 5 false s
  else if size < 4 then accessErr true (!(mapped off)) off (size + 1) false s
  else if size = 4 then accessErr false (!(mapped off)) off 7 false (write32 off 0xFFFFFFFF (v % 2 ^ 32) s)
  else
    let e := wideErr off
    accessErr false e.1 e.2 7 false (write32 (off + 4) 0xFFFFFFFF (v / 2 ^ 32 % 2 ^ 32) (write32 off 0xFFFFFFFF (v % 2 ^ 32) s))

/-! ### The control port (R400, R407, R409) -/

/-- The AON responder serves an offset as usual. -/
def aonServed (off : Nat) : Bool := decide (0x7200 ≤ off) && decide (off < 0x7400)

/-- A read at the control port: the AON responder answers in DARK. -/
def portRead (off size : Nat) (s : State) : State :=
  if !(ctlUp s) then s
  else if pwrState s = 2 && !(aonServed off) then emit (.readData size (BitVec.ofNat 64 (2 ^ (8 * size) - 1))) s
  else windowRead off size s

/-- A write at the control port. -/
def portWrite (off size v : Nat) (s : State) : State :=
  if !(ctlUp s) then s
  else if pwrState s = 2 && !(aonServed off || (decide (Reg.KEEP_MB_CMD 0 ≤ off) && decide (off ≤ Reg.KEEP_MB_DOORBELL))) then s
  else windowWrite off size v s

/-- REGISTER_READ (R423). -/
def execRegisterRead (off size : Nat) (s : State) : Host.Outcome State Fault Refusal := finish (portRead off size s)
/-- REGISTER_WRITE (R421). -/
def execRegisterWrite (off size : Nat) (data : W64) (s : State) : Host.Outcome State Fault Refusal := finish (portWrite off size data.toNat s)
/-- LOG_WORD0_READ (R328). -/
def execLogWord0Read (wide : Bool) (s : State) : Host.Outcome State Fault Refusal :=
  finish (portRead (Reg.PART_LOG_WORD 0) (if wide then 8 else 4) s)
/-- LOG_CTL_FLUSH (R332). -/
def execLogCtlFlush (data : W32) (s : State) : Host.Outcome State Fault Refusal := finish (portWrite Reg.PART_LOG_CTL 4 data.toNat s)
/-- CLAMP_CLR (R71). -/
def execClampClr (data : W32) (s : State) : Host.Outcome State Fault Refusal := finish (portWrite Reg.COMB_CNT_CLR 4 data.toNat s)
/-- SAT_CLR (R71). -/
def execSatClr (data : W32) (s : State) : Host.Outcome State Fault Refusal := finish (portWrite Reg.COMB_CNT_CLR 4 data.toNat s)
/-- TDC_CLR (R363). -/
def execTdcClr (data : W32) (s : State) : Host.Outcome State Fault Refusal := finish (portWrite Reg.PART_DET_CTL 4 data.toNat s)
/-- ACCT_SEL_WRITE (R350). -/
def execAcctSelWrite (data : W32) (s : State) : Host.Outcome State Fault Refusal := finish (portWrite Reg.PART_ACCT_SEL 4 data.toNat s)
/-- CAP_SW_WRITE (R368). -/
def execCapSwWrite (data : W32) (s : State) : Host.Outcome State Fault Refusal := finish (portWrite Reg.PART_CAP_SW_HI 4 data.toNat s)
/-- BOOT_GO (R414). -/
def execBootGo (data : W32) (s : State) : Host.Outcome State Fault Refusal := finish (portWrite Reg.REL_BOOT_CTL 4 data.toNat s)

/-- The copy of the selected client's entry is complete; zero without a table (R350). -/
def acctCopied (s : State) : State :=
  if !(flag s Reg.PART_ACCT_SEL 31) then s else
  let v := if s.part.acctBase = 0 then 0 else rdLe s (s.part.acctBase + 32 * fld s Reg.PART_ACCT_SEL 12 0) 32
  dropBit Reg.PART_ACCT_SEL 31 { s with acct := BitVec.ofNat 256 v }

/-- ACCT_COPY_DONE (R350). -/
def execAcctCopyDone (s : State) : Host.Outcome State Fault Refusal := finish (if ctlUp s && decide (pwrState s < 2) then acctCopied s else s)

end Sys2Proof.Machine
end

