-- ==== Sys2Proof/Machine/Ctrl.lean ====
section
/-! DEFINITION. CTRL packets between Keepers of a partition (spec/10 R296, R301, R308; spec/16 R428, R436). -/

namespace Sys2Proof.Machine

/-- CTRL_OP of a packet (R188). -/
def ctrlOp (p : Packet) : Nat := pTs p 16 31 0

/-- The CTRL_RESULT of a request (R301). -/
def ctrlAnswer (p : Packet) (status value : Nat) (s : State) : State :=
  inject (mkCtrl s (pSrc p) 0x7F (leBytes 1 status ++ [0, 0, 0] ++ leBytes 4 value ++ leBytes 4 (ctrlOp p)))
    { s with ownAcks := s.ownAcks ++ [(4, pSrc p, curEpoch s)] }

/-- The CTRL record of an accepted packet, under the step it names or else the newest accepted one (R365; log entry 25), or its comparison in replay (R366,
R372). -/
def capCtrl (p : Packet) (s : State) : State :=
  let b := leBytes 4 (pSrc p) ++ leBytes 8 (p.ts.toNat % 2 ^ 64) ++ p.payload
  capEvent 4 0 false (if ctrlOp p = 0x10 then leAt p.payload 0 4 else (s.nextSeq - 1).toNat) b b.length 0 s

/-- A CTRL packet with an operation is ejected: acknowledged, captured, then acted on (R196, R301). -/
def ctrlRow (op : Nat) (k : State → State) (p : Packet) (s : State) : State :=
  if pTyp p != 4 || ctrlOp p != op then s else eject false p (fun s => k (capCtrl p (ackAccept p s))) s

/-- REG_WRITE: the masked bits by the rules for host writes, then the reference is committed with SELF = 1 (R301, R432; log entry 40). -/
def onRegWrite (p : Packet) (s : State) : State :=
  let off := leAt p.payload 0 2
  if off % 4 ≠ 0 then ctrlAnswer p 4 0 (accessErr true (!(mapped off)) off 5 true s)
  else if !(mapped off) then ctrlAnswer p 0xD 0 (accessErr false true off 7 true s)
  else retryHold (ctrlAnswer p 0 0 (commitSelf (write32 off (leAt p.payload 8 4) (leAt p.payload 4 4) s)))

/-- A live value, or one bit of it at an alias; no staged view and no side effect of a read (R428). -/
def liveAt (s : State) (o : Nat) : Nat :=
  let v (b : Nat) : Nat := Nat.land (view s b) (match regRow b with | some r => 0xFFFFFFFF - r.wo | none => 0)
  match target o with
  | (b, none) => v b
  | (b, some k) => b2n (bit (v b) k)

/-- REG_READ (R301, R428; log entry 40). -/
def onRegRead (p : Packet) (s : State) : State :=
  let off := leAt p.payload 0 2
  if off % 4 ≠ 0 then ctrlAnswer p 4 0 (accessErr true (!(mapped off)) off 4 true s)
  else if !(mapped off) then ctrlAnswer p 0xD 0 (accessErr false true off 6 true s)
  else ctrlAnswer p 0 (liveAt s off) s

/-- A killed step whose STEP_ABORT came: it ends with that code. KILLED says that its kill was a KILL_STEP, so that kill was a pre-emption (R296, R349). -/
def abortStep (code : Nat) (x : Step) : Step :=
  if code = 0x0B ∧ !x.lastHost then
    { x with endCode := some code, preempts := x.preempts + 1, faultKills := x.faultKills - 1, lastHost := true }
  else { x with endCode := some code }

/-- STEP_ABORT: the step is not rerun; one not accepted yet ends once it is; one that has ended, or ends already with another code, is a
contradiction; one that ends here with the same code, as after its last rerun, learns the cause of its kill (R296, R308, R349; log entry 46). -/
def onStepAbort (p : Packet) (s : State) : State :=
  let q : W32 := BitVec.ofNat 32 (leAt p.payload 0 4)
  let code := leAt p.payload 4 1
  match stepAt s q with
  | none =>
    if seqBefore q s.nextSeq || s.aborts.any (fun a => a.1 == q) then ctrlAnswer p 5 0 s
    else ctrlAnswer p 0 0 { s with aborts := s.aborts ++ [(q, code)] }
  | some x =>
    let same := x.phase == .killed && x.endCode == some code
    if (x.endCode.isSome && !same) || s.aborts.any (fun a => a.1 == q) then ctrlAnswer p 5 0 s
    else
      let s := { s with aborts := s.aborts ++ [(q, code)] }
      ctrlAnswer p 0 0 (if x.phase == .killed then modStep q (abortStep code) s else s)

/-- PART_HOLD: no further step of the partition is enqueued (R301). -/
def onPartHold (p : Packet) (s : State) : State := ctrlAnswer p 0 0 (raiseBit Reg.KEEP_STAT 3 s)

/-- PART_RESUME ends PART_HOLD; without one it contradicts the state (R301, R308). -/
def onPartResume (p : Packet) (s : State) : State :=
  if partHeld s then ctrlAnswer p 0 0 (dropBit Reg.KEEP_STAT 3 s) else ctrlAnswer p 5 0 s

/-- CTRL_RESULT: the request it answers is no longer outstanding (R301). -/
def onCtrlResult (p : Packet) (s : State) : State :=
  { s with ctrlWait := dropFirst (fun w => w.1 == leAt p.payload 8 4 && w.2 == pSrc p) s.ctrlWait }

/-- REG_WRITE. -/
def execRegWrite (p : Packet) (s : State) : Host.Outcome State Fault Refusal := finish (ctrlRow 0x01 (onRegWrite p) p s)
/-- REG_READ. -/
def execRegRead (p : Packet) (s : State) : Host.Outcome State Fault Refusal := finish (ctrlRow 0x02 (onRegRead p) p s)
/-- STEP_ABORT. -/
def execStepAbort (p : Packet) (s : State) : Host.Outcome State Fault Refusal := finish (ctrlRow 0x10 (onStepAbort p) p s)
/-- PART_HOLD. -/
def execPartHold (p : Packet) (s : State) : Host.Outcome State Fault Refusal := finish (ctrlRow 0x11 (onPartHold p) p s)
/-- PART_RESUME. -/
def execPartResume (p : Packet) (s : State) : Host.Outcome State Fault Refusal := finish (ctrlRow 0x12 (onPartResume p) p s)
/-- CTRL_RESULT. -/
def execCtrlResult (p : Packet) (s : State) : Host.Outcome State Fault Refusal := finish (ctrlRow 0x7F (onCtrlResult p) p s)

end Sys2Proof.Machine
end

