-- ==== Sys2Proof/Machine/Lines.lean ====
section
/-! DEFINITION. The light list's packets: requests at a directory, write-backs, grants and retries at a requester (spec/06 R156 to R159,
R438). -/

namespace Sys2Proof.Machine

/-! ### At the directory (R158, R159) -/

/-- An LL_WB reaches its directory: a copy written back in stage 1 of a flip is one the flip publishes (R158, R213). -/
def onWriteBack (p : Packet) (s : State) : State :=
  let s := onLlWb p s
  if prep s then mergeNext s.flip.target s else s

/-- LL_REQ_READ (R158). -/
def execLlReqRead (p : Packet) (s : State) : Host.Outcome State Fault Refusal :=
  finish (if pTyp p == 5 then eject false p (onLlRead p) s else s)

/-- LL_REQ_OWN (R159). -/
def execLlReqOwn (p : Packet) (rivals : List DA) (s : State) : Host.Outcome State Fault Refusal :=
  finish (if pTyp p == 5 then eject false p (onLlOwn p rivals) s else s)

/-- LL_WB (R158, R159). -/
def execLlWb (p : Packet) (s : State) : Host.Outcome State Fault Refusal :=
  finish (if pTyp p == 6 then eject false p (onWriteBack p) s else s)

/-! ### At the requester (R157 to R159) -/

/-- Commands that waited for lines go on once they miss none: SORT, PLAN, DISPATCH, FETCH (R157). -/
def resumeAll (s : State) : State :=
  let is (e : Nat) (p : Record → Bool) (s : State) : Bool := match runOn s e with | some u => p u.cmd.raw | none => false
  let s := if is 3 isSort s then resumeLines 3 sortNeed sortJob s else s
  let s := if is 4 (fun r => rOp r == 0x20) s then resumeLines 4 planNeed planJob s else s
  let s := if is 9 isDispatch s then resumeLines 9 dispatchNeed dispatchJob s else s
  let s := resumeFetch s
  if is 6 isFetchSrv s then resumeLines 6 serverNeed fetchSrvJob s else s

/-- The lookups that a command started and waiting for lines makes (R157). -/
def lineNeeds (s : State) (u : Run) : List (Bool × Nat) :=
  let keys (q : Bool × Nat × Nat × List Nat) : List (Bool × Nat) := q.2.2.2.map (fun x => (q.1, llKey 0 q.2.1 q.2.2.1 x))
  if u.stage ≠ 1 then [] else
  if u.eng = 3 then keys (sortNeed s u.cmd)
  else if u.eng = 4 then keys (planNeed s u.cmd)
  else if u.eng = 9 ∧ isDispatch u.cmd.raw then keys (dispatchNeed s u.cmd)
  else if u.eng = 6 ∧ isFetchReq u.cmd.raw then keys (fetchNeed s u.cmd)
  else if u.eng = 6 then keys (serverNeed s u.cmd)
  else []

/-- Drop the n oldest cached lines that are not pinned and that no waiting command needs. -/
def evictLines (need : List (Bool × Nat)) : Nat → List LLine → List LLine
  | 0, l => l
  | n + 1, l => evictLines need n (dropFirst (fun x => x.cached && !x.pinned && !x.next && !(need.contains (x.epoch, lineKey x.data))) l)

/-- The n newest cached lines that are not pinned go aside, to the commands that wait for them; the list is newest first. -/
def asideLines : Nat → List LLine → List LLine
  | _, [] => []
  | 0, l => l
  | n + 1, x :: t => if x.cached && !x.pinned then { x with aside := true } :: asideLines n t else x :: asideLines (n + 1) t

/-- The cache is cut to its 16,384 lines: the oldest lines that are neither pinned nor needed go, then the newest needed ones stay with the waiting
commands alone, for as long as one needs them (R5, R156; log entry 19). -/
def llTrim (s : State) : State :=
  let need := s.running.flatMap (lineNeeds s)
  let l := evictLines need (llCached s - 16384) (s.ll.filter (fun x => !x.aside || need.contains (x.epoch, lineKey x.data)))
  { s with ll := (asideLines ((l.filter LLine.cached).length - 16384) l.reverse).reverse }

/-- The outstanding request a grant answers: READ or OWN of a key. -/
def reqFor (s : State) (key : Nat) (own : Bool) : Option LLReq := s.llReqs.find? (fun r => r.key == key && r.own == own)

/-- A requested line arrives and is kept, pinned where that was asked (R156, R157). -/
def onGrantData (p : Packet) (s : State) : State :=
  let key := pTs p 16 28 0
  let ep := pEpoch p
  if pTs p 20 1 0 ≠ 0 then s else
  match s.llReqs.find? (fun r => r.key == key && !r.own && r.epoch == ep) with
  | none => s
  | some q =>
    let line := BitVec.ofNat 256 (setBits (leAt p.payload 0 32) 28 0 key)
    let s := resumeAll (llKeep ep line q.pin { s with llReqs := dropFirst (fun r => r == q) s.llReqs })
    llTrim (sendPins s.llReqs.length s)

/-- Ownership is granted: the writer returns the granted copy of the line with LL_WB; the placements a placement change writes into it are free
values (R158, R159; log entry 36). -/
def onGrantOwn (p : Packet) (s : State) : State :=
  let key := pTs p 16 28 0
  if pTs p 20 1 0 ≠ 1 then s else
  match reqFor s key true with
  | none => s
  | some q =>
    let w (i : Nat) : Nat := (Config.freeWord (s.free + i)).toNat
    let line := (lSet (lSet (BitVec.ofNat 256 (leAt p.payload 0 32)) 16 47 24 (w 0 % 2 ^ 24)) 24 47 0 (w 1 % 2 ^ 48)).toNat
    let s := { s with llReqs := dropFirst (fun r => r == q) s.llReqs, free := s.free + 2, ownAcks := s.ownAcks ++ [(6, pSrc p, pEpoch p)] }
    inject (mkPacket s { typ := 6, dst := pSrc p, be := pBe p, epoch := pEpoch p, layer := bits key 23 16, half := false, model := bits key 27 24,
                         kgen := kgen s, ts := tsAt 16 key } (leBytes 32 line)) s

/-- Ownership is refused for now: counted, and the request waits for its resend (R159). -/
def onLlRetry (p : Packet) (s : State) : State :=
  if pTs p 20 1 0 ≠ 2 then s else
  let key := pTs p 16 28 0
  let s := raiseBit Reg.SORT_LL_STAT 1 (bump Reg.SORT_LL_RETRY_CNT 1 s)
  { s with llReqs := modFirst (fun r => r.key == key && r.own) (fun r => { r with retry := true }) s.llReqs }

/-- The delay of a refused request has passed: it is sent again (R159). -/
def onRetryResend (i : Nat) (s : State) : State :=
  match s.llReqs[i]? with
  | none => s
  | some q =>
    if !(forwarding s) || fenced s || !q.own || !q.retry then s else
    inject (llRequest s (keyDir s q.epoch q.key) q.key true false q.epoch)
      { s with llReqs := (s.llReqs.take i) ++ { q with retry := false } :: s.llReqs.drop (i + 1) }

/-- LL_GRANT_DATA (R158). -/
def execLlGrantData (p : Packet) (s : State) : Host.Outcome State Fault Refusal :=
  finish (if pTyp p == 12 then eject true p (onGrantData p) s else s)

/-- LL_GRANT_GRANT (R158). -/
def execLlGrantGrant (p : Packet) (s : State) : Host.Outcome State Fault Refusal :=
  finish (if pTyp p == 12 then eject true p (onGrantOwn p) s else s)

/-- LL_RETRY (R159). -/
def execLlRetry (p : Packet) (s : State) : Host.Outcome State Fault Refusal :=
  finish (if pTyp p == 12 then eject true p (onLlRetry p) s else s)

/-- LL_RETRY_RESEND (R159). -/
def execLlRetryResend (i : Nat) (s : State) : Host.Outcome State Fault Refusal := finish (onRetryResend i s)

end Sys2Proof.Machine
end

