-- ==== Sys2Proof/Machine/Faults.lean ====
section
/-! DEFINITION. Memory errors, the die memory port, staging accesses of other initiators, the scrubber, sounding and the clock check
(spec/11 R324, spec/14 R377 to R382, R395, R396, R435, spec/15 R409). -/

namespace Sys2Proof.Machine

/-! ### Die memory port (R381, R382, R435) -/

/-- The work of a record, by its opcode (R284). -/
def jobOf (s : State) (r : RingRec) : Job :=
  let p := rParam r.raw
  match rOp r.raw with
  | 0x01 => scoreJob s r
  | 0x02 => scoreCountJob s r
  | 0x08 => sfuJob s r
  | 0x10 => if rGonly r.raw then gonlyJob s r else selectJob s r
  | 0x18 => if bit p 0 then sortGwJob s r else sortJob s r
  | 0x20 => planJob s r
  | 0x28 => sendJob s r
  | 0x29 => recvJob s r
  | 0x2A => forwardJob s r
  | 0x30 => if bit p 13 then fetchSrvJob s r else fetchReqJob s r
  | 0x38 => combJob s r
  | 0x39 => combJob s r
  | 0x40 => moveJob s r
  | 0x48 => dispatchJob s r
  | _ => if bit p 7 then reduceBcnJob s r else reduceJob s r

/-- The core, memory and fabric clocks run (R399, R404, R409). -/
def clocked (s : State) : Bool := s.powered && !s.power.clkStopped && decide (2 ≤ fld s Reg.REL_PWR_STAT 4 3) && decide (pwrState s < 2)

/-- The run that a tag's read belongs to. -/
def runOfTag (s : State) (t : MemTag) : Option Run := s.running.find? (fun u => u.eng == t.eng && u.memSlots.contains t.slot)

/-- Change a tag slot. -/
def setTag (t : MemTag) (s : State) : State := { s with memTags := t :: s.memTags.filter (fun x => x.slot != t.slot) }

/-- A read of the Keeper's has ended, well, poisoned (some false) or late (some true): what waited for it goes on once all its reads have ended (R303,
R353, R382, R390). -/
def keeperBack (t : MemTag) (bad : Option Bool) (s : State) : State :=
  if t.eng = takeEng then takeBack t bad s
  else if t.eng = switchEng then switchBack t bad s
  else askWarm s

/-- A read that ends as a poisoned read: its record and the kill of its step; of a command that is gone its record alone, and of the Keeper's its record
and what the reader makes of it (R381, R390). -/
def failedRead (code : Nat) (late : Bool) (t : MemTag) (s : State) : State :=
  match runOfTag s t with
  | none => keeperBack t (some late) (faultRec code 22 (ownDa s) (if byKeeper t.eng then 0xFF else 2 * t.eng + b2n t.be) t.addr noStep s)
  | some u => raiseKill .poisonedRead (some u.cmd.step) (faultRec code 22 (ownDa s) u.cmd.ring t.addr u.cmd.step.toNat s)

/-- A completion arrives: dropped as late when its generation is not its slot's, else good or poisoned; the command goes on once all its reads have
returned (R381, R382). -/
def onCompletion (tag : Nat) (poisoned : Bool) (s : State) : State :=
  let slot := bits tag 9 0
  let gen := bits tag 13 10
  if gen ≠ slotGen s slot then tdc 3 (raiseBit Reg.REL_STAT 6 (bump Reg.REL_LATE_CPL 1 s))
  else match s.memTags.find? (fun t => t.slot == slot && t.busy) with
    | none => s
    | some t =>
      let s1 := setTag { t with busy := false } s
      if poisoned then
        failedRead 0x03 false t (raiseBit Reg.REL_STAT 4 (bump Reg.REL_MEM_POISON_CNT 1 s1))
      else match runOfTag s t with
        | none => keeperBack t none s1
        | some u =>
          let v : Run := { u with memSlots := u.memSlots.filter (· != slot) }
          let s2 := modRun u.eng (fun _ => v) s1
          if !(readsBack v s2) then s2 else if u.stage = 4 then served s2 else doJob u (jobOf s1 u.cmd) s2

/-- MEM_COMPLETION (R382). -/
def execMemCompletion (tag : BitVec 14) (poisoned : Bool) (s : State) : Host.Outcome State Fault Refusal :=
  finish (if clocked s then onCompletion tag.toNat poisoned s else s)

/-- A read is timed out: its slot's generation advances and the slot is withheld (R382). -/
def onReadTimeout (slot : Nat) (s : State) : State :=
  match s.memTags.find? (fun t => t.slot == slot && t.busy) with
  | none => s
  | some t =>
    let hold := 8 * fld s Reg.REL_MEM_TO 15 0 * 1024
    let s1 := setTag { t with busy := false, gen := (t.gen + 1) % 16, freeAt := s.clock + hold } s
    failedRead 0x04 true t (raiseBit Reg.REL_STAT 5 (bump Reg.REL_MEM_TO_CNT 1 s1))

/-- MEM_READ_TIMEOUT (R382). -/
def execMemReadTimeout (slot : Nat) (s : State) : Host.Outcome State Fault Refusal :=
  finish (if clocked s then onReadTimeout slot s else s)

/-- A write of a running command through the die memory port fails: a poisoned access of it (R435). -/
def onWriteTimeout (eng : Nat) (addr : Addr) (s : State) : State :=
  match runOn s eng with
  | none => s
  | some u => if inStaging addr || decide (Config.apertureBase ≤ addr) then s else raiseKill .poisonedRead (some u.cmd.step) s

/-- MEM_WRITE_TIMEOUT (R435). -/
def execMemWriteTimeout (eng : Nat) (addr : Addr) (s : State) : Host.Outcome State Fault Refusal :=
  finish (if clocked s then onWriteTimeout eng addr s else s)

/-! ### Accesses of other initiators (R324, R378, R379) -/

/-- The staging words that the bytes of an access touch, in order. -/
def wordsOf (s : State) (a : Addr) (n : Nat) : List Nat :=
  (((List.range n).filterMap (fun j => phys s (a + j))).filter inStaging).map (fun p => p / 8) |>.dedup

/-- A word's check finds an uncorrectable error: it is poisoned already, or it is the first word and that is what was found. -/
def wordBad (s : State) (first : Bool) (f : Ecc) (w : Nat) : Bool :=
  s.poison.contains w || (first && (match f with | .uncorrectable => true | _ => false))

/-- The bit corrected in the first word, where that is what was found. -/
def wordFixed (f : Ecc) : Option Nat := match f with | .corrected b => some b | _ => none

/-- A read of another initiator: its bytes, or a poisoned completion (R324, R378). -/
def extRead (a : Addr) (n : Nat) (f : Ecc) (s : State) : State :=
  let ws := withIdx 0 (wordsOf s a n)
  let bad := (ws.filter (fun e => wordBad s (e.1 == 0) f e.2)).map Prod.snd
  let s := aperMiss a n s
  let s := match wordFixed f, ws with
    | some b, e :: _ => if s.poison.contains e.2 then s else ceDetect (e.2 * 8) b s
    | _, _ => s
  match bad with
  | [] => emit (.memData (rdN s a n)) s
  | w :: t => emit .memPoisoned ((w :: t).foldl (fun s w => ueDetect (w * 8) 0 noStep s) s)

/-- A write of another initiator, word by word: whole words are written, a partial one is corrected first, or aborted with a poisoned
completion (R324, R379). -/
def extWrite (a : Addr) (data : List Byte) (f : Ecc) (s : State) : State :=
  let n := data.length
  let ph := (List.range n).filterMap (phys s ∘ (a + ·))
  let whole (w : Nat) : Bool := (List.range 8).all (fun j => ph.contains (w * 8 + j))
  let ws := (withIdx 0 (wordsOf s a n)).filter (fun e => !(whole e.2))
  let bad := (ws.filter (fun e => wordBad s (e.1 == 0) f e.2)).map Prod.snd
  let keep (p : Addr × Byte) : Bool := match phys s p.1 with | none => false | some q => !(inStaging q && bad.contains (q / 8))
  let pairs := ((withIdx 0 data).map (fun e => (a + e.1, e.2))).filter keep
  let s := aperMiss a n s
  let s := match wordFixed f, ws with
    | some b, (0, w) :: _ =>
      if s.poison.contains w then s else raiseBit Reg.REL_STAT 2 (bump Reg.REL_PARTIAL_CNT 1 (ceDetect (w * 8) b s))
    | _, _ => s
  let s := wrAll pairs (healAll (pairs.map Prod.fst) s)
  match bad with
  | [] => s
  | _ => emit .memPoisoned (bad.foldl (fun s w => ueDetect (w * 8) 1 noStep (partialAbort s)) s)

/-- An access meets the command rings, the hold area or the Keeper region, which only the Keeper and the buffer pool manager reach (R281, R310). -/
def keeperOnly (s : State) (a : Addr) (n : Nat) : Bool :=
  (List.range n).any (fun j => match phys s (a + j) with | none => false | some p => inStaging p && decide (p < Config.stagingBase + Config.poolRegionOff))

/-- An access of another initiator of the die, at the staging SRAM's own addresses or through the aperture; one to the Keeper's own regions is
refused: it reads and writes nothing (R310; log entry 73). -/
def onAccess (x : MemAccess) (s : State) : State :=
  if !(inStaging x.addr || decide (Config.apertureBase ≤ x.addr)) || keeperOnly s x.addr (if x.write then x.data.length else x.n) then s
  else if x.write then extWrite x.addr x.data x.found s else extRead x.addr x.n x.found s

/-- APERTURE_ACCESS (R324). -/
def execApertureAccess (a : MemAccess) (s : State) : Host.Outcome State Fault Refusal := finish (if clocked s then onAccess a s else s)

/-! ### The scrubber (R379) -/

/-- One visit. -/
def onScrub (f : Ecc) (s : State) : State :=
  let w := Config.stagingBase / 8 + s.scrubPos
  let a := w * 8
  let s := if wordBad s true f w then ueDetect a 2 noStep s
    else match wordFixed f with
      | some b => ceDetect a b s
      | none => s
  if s.scrubPos + 1 < Config.stagingSize / 8 then { s with scrubPos := s.scrubPos + 1 }
  else bump Reg.REL_SCRUB_PASS 1 { s with scrubPos := 0 }

/-- SCRUB_VISIT (R379). -/
def execScrubVisit (found : Ecc) (s : State) : Host.Outcome State Fault Refusal :=
  finish (if clocked s && flag s Reg.REL_SCRUB 0 then onScrub found s else s)

/-! ### Sounding (R395, R396) -/

/-- A sample's margin of domain i. -/
def sndMargin (i m : Nat) (s : State) : State :=
  let s := setFld (Reg.REL_SND_M i) 7 0 m s
  if m < fld s (Reg.REL_SND_M i) 15 8 then setFld (Reg.REL_SND_M i) 15 8 m s else s

/-- The lowest margin and its domain, the first of equals. -/
def sndLowest : Nat → List Nat → Nat × Nat
  | _, [] => (256, 0)
  | i, m :: t => let r := sndLowest (i + 1) t; if m ≤ r.1 then (m, i) else r

/-- A sample of the five domains and what the lowest margin calls for. -/
def onSound (l : List Nat) (s : State) : State :=
  let s := (withIdx 0 l).foldl (fun s e => sndMargin e.1 e.2 s) s
  let r := sndLowest 0 l
  let vofs := fld s Reg.REL_SND_VOFS 3 0
  let vmax := fld s Reg.REL_SND_CTL 12 9
  let detail := r.2 + r.1 * 2 ^ 8 + vofs * 2 ^ 16
  let event (b : Nat) (s : State) : State := setFld Reg.REL_SND_STAT 6 4 r.2 (raiseBit Reg.REL_SND_STAT b s)
  if r.1 ≤ fld s Reg.REL_SND_THR 23 16 then
    ownLoss 0x86 23 detail 0 (event 2 s)
  else if r.1 ≤ fld s Reg.REL_SND_THR 15 8 && vofs == vmax then faultRec 0x19 23 (ownDa s) detail 0 noStep (event 1 s)
  else if r.1 ≤ fld s Reg.REL_SND_THR 7 0 && decide (vofs < vmax) then
    let s := faultRec 0x18 23 (ownDa s) detail 0 noStep (event 0 s)
    { s with power := { s.power with vofsUp := true } }
  else s

/-- SOUND_SAMPLE (R395, R396): the sounding unit runs in the AON domain, in DARK and after the loss of another clock too (R39, R409). -/
def execSoundSample (core fab ctl bcn aon : Byte) (s : State) : Host.Outcome State Fault Refusal :=
  finish (if s.powered && flag s Reg.REL_SND_CTL 0 then
    onSound [core.toNat, fab.toNat, ctl.toNat, bcn.toNat, aon.toNat] s else s)

/-! ### The clock check (R409) -/

/-- One window: a clock bad in this and the last one is lost. -/
def onClockWindow (bad : Nat) (s : State) : State :=
  let lost := Nat.land bad s.power.clkBad
  let s := { s with power := { s.power with clkBad := bad } }
  if lost = 0 then s else
  let s := raiseBit Reg.REL_RESET_CAUSE 3 (setFld Reg.REL_CLK_STAT 3 0 (Nat.lor (fld s Reg.REL_CLK_STAT 3 0) lost) s)
  { s with alarm := true, power := { s.power with clkStopped := true } }

/-- CLOCK_WINDOW (R409): counted while the clocks run, from phase B on and not in DARK. -/
def execClockWindow (bad : BitVec 4) (s : State) : Host.Outcome State Fault Refusal :=
  finish (if s.powered && decide (1 ≤ fld s Reg.REL_PWR_STAT 4 3) && decide (pwrState s ≠ 2) && !s.power.clkStopped then
    onClockWindow bad.toNat s else s)

end Sys2Proof.Machine
end

