-- ==== Sys2Proof/Machine/Eject.lean ====
section
/-! DEFINITION. The REQ ejection queue behind a packet that waits for room in the hold area (spec/09 R251). -/

namespace Sys2Proof.Machine

/-- What a CTRL packet's operation does (R301); none other is named. -/
def ctrlDo (p : Packet) : State → State :=
  match ctrlOp p with
  | 0x01 => onRegWrite p
  | 0x02 => onRegRead p
  | 0x10 => onStepAbort p
  | 0x11 => onPartHold p
  | 0x12 => onPartResume p
  | 0x7F => onCtrlResult p
  | _ => id

/-- What a REQ packet does once it is accepted, by its type (R187). -/
def onReq (p : Packet) (s : State) : State :=
  match pTyp p with
  | 1 => onDispatch (pTs p 26 2 2 == 1) p s
  | 2 => serveAll { s with rdHeld := s.rdHeld ++ [p] }
  | 3 => if pTs p 18 3 0 = 0 then onCount p s else onColl p s
  | 4 => ctrlDo p (capCtrl p (ackAccept p s))
  | 5 => if pTs p 20 0 0 = 0 then onLlRead p s else onLlOwn p [] s
  | 6 => onWriteBack p s
  | _ => s

/-- The head of the waiting REQ ejection queue is tried again: held or placed now, or it goes on waiting (R251). -/
def ejectHead (s : State) : State :=
  match s.ejectQ with
  | [] => s
  | p :: t => atHead false p (onReq p) { s with ejectQ := t }

/-- Of the REQ packets that wait for the ejection output, the one that is taken, and whether it had a rival: LC goes before BE where they wait at
different inputs. Which input a packet waits at is not known: a free value (R194, R362; log entry 39). -/
def ejectPick (s : State) : Option (Packet × Bool) :=
  if decide (2 ≤ s.inQ.length) && bit (fresh s).toNat 0 then (lcFirst s.inQ).map (fun p => (p, true)) else s.inQ.head?.map (fun p => (p, false))

/-- A REQ packet that waits at its input enters the ejection queue once that gives credit again (R36, R194, R369). -/
def ejectNext (s : State) : State :=
  match ejectPick s with
  | none => s
  | some (p, rival) =>
    let s0 := { s with inQ := dropFirst (fun q => q == p) s.inQ }
    if noCredit false { s0 with inQ := [] } then s else
    let s1 := bump64 Reg.XCHG_RX_PKT_LO 1 (outputTurn false 6 p rival (tick s0))
    if s1.ejectQ.isEmpty then atHead false p (onReq p) s1 else { s1 with ejectQ := s1.ejectQ ++ [p] }

end Sys2Proof.Machine
end

