-- ==== Sys2Proof/Machine/Idle.lean ====
section
/-! DEFINITION. The two token buckets, and what one tick of time does when no command waits (spec/12 R344, R345, spec/13 R368, R371; log entry 3). -/

namespace Sys2Proof.Machine

/-- A bucket's count after one cycle's filling (R344). -/
def refill (rate depth : Nat) (tk : Int) : Int := if rate = 0 then tk else min (tk + rate) (1024 * (depth : Int))

/-- The head waiting on the FAB bucket for one network, LC first, is admitted when the count allows (R344). -/
def admitNet (rsp : Bool) (s : State) : State :=
  if bucketRate s Reg.PART_REG_FAB ≠ 0 ∧ s.fab.tk < 0 then s else
  if rsp then
    match lcFirst s.fab.rsp with
    | none => s
    | some p => admitPkt p { s with fab := { s.fab with rsp := dropFirst (fun q => q == p) s.fab.rsp } }
  else
    match lcFirst s.fab.req with
    | none => s
    | some p => admitPkt p { s with fab := { s.fab with req := dropFirst (fun q => q == p) s.fab.req } }

/-- The head waiting on the MEM bucket, LC first. -/
def memHead (s : State) : Option MemReq :=
  match s.memb.mem.find? (fun m => !m.be) with
  | some m => some m
  | none => s.memb.mem.head?

/-- The head waiting on the MEM bucket is admitted and charged when the count allows: a read is issued, a command whose writes waited does its work
(R344); a read waits until a tag slot is free (R382). -/
def admitMem (s : State) : State :=
  let rate := bucketRate s Reg.PART_REG_MEM
  if rate ≠ 0 ∧ s.memb.tk < 0 then s else
  match memHead s with
  | none => s
  | some m =>
    if !m.write && (freeSlot s).isNone then s else
    let s := chargeMem m.n { s with memb := { s.memb with mem := dropFirst (fun x => x == m) s.memb.mem } }
    if m.write then (match runOn s m.eng with | none => s | some u => jobGo false u (jobOf s u.cmd) s) else issueRead m.eng m.be m.addr m.n s

/-- The head of a network waits on the FAB bucket. -/
def netWaits (rsp : Bool) (s : State) : Bool :=
  !((if rsp then s.fab.rsp else s.fab.req).isEmpty) && bucketRate s Reg.PART_REG_FAB != 0 && decide (s.fab.tk < 0)

/-- The head of the die-memory requests waits on the MEM bucket. -/
def memWaits (s : State) : Bool := !s.memb.mem.isEmpty && bucketRate s Reg.PART_REG_MEM != 0 && decide (s.memb.tk < 0)

/-- Count a cycle in which a head was not admitted by its bucket (R345). -/
def stalls (net mem : Bool) (s : State) : State :=
  let s := if net then raiseBit Reg.PART_STAT 0 (bump64 Reg.PART_FAB_STALL_LO 1 s) else s
  if mem then raiseBit Reg.PART_STAT 1 (bump64 Reg.PART_MEM_STALL_LO 1 s) else s

/-- Both buckets run for one CORE cycle: REQ first and then RSP, each on the count left by the one before (R344). -/
def bucketCycle (s : State) : State :=
  let t := admitNet false s
  let s := stalls (netWaits false s || netWaits true t) (memWaits s) (admitMem (admitNet true t))
  { s with fab := { s.fab with tk := refill (fld s Reg.PART_REG_FAB 15 0) (fld s Reg.PART_REG_FAB 31 16) s.fab.tk },
           memb := { s.memb with tk := refill (fld s Reg.PART_REG_MEM 15 0) (fld s Reg.PART_REG_MEM 31 16) s.memb.tk } }

/-- Each 1,024 cycles of hold count once (R368; log entry 3). -/
def holdCycle (s : State) : State :=
  if !(capHold s) then s
  else if s.cap.heldFor < 1023 then { s with cap := { s.cap with heldFor := s.cap.heldFor + 1 } }
  else bump Reg.PART_CAP_HOLD_CNT 1 { s with cap := { s.cap with heldFor := 0 } }

/-- One tick: the model's clock counts one CORE cycle, the buckets run, one packet of each network leaves, a
packet that waits for the hold area is tried again, commands that wait on a counter inside
look at it, a replay stream moves on, the log FIFO's spill path moves a word. -/
def idle (s : State) : State :=
  let s := { s with clock := s.clock + 1 }
  if forwarding s && !fenced s then settle (repAdvance (replayRows (resumeFetch (checkRecv (combPoll (holdCycle (ejectNext (ejectHead (fabDrain true (fabDrain false (bucketCycle (spillCycle s))))))))))))
  else if forwarding s then settle (spillCycle s)
  else s

/-- BUCKET_ADMIT (R344). -/
def execBucketAdmit (mem : Bool) (s : State) : Host.Outcome State Fault Refusal :=
  finish (if !(forwarding s) || fenced s then s else if mem then admitMem s else admitNet true (admitNet false s))

end Sys2Proof.Machine
end

