-- ==== Sys2Proof/Machine/Transit.lean ====
section
/-! DEFINITION. Packets that only pass through the die, and packets discarded at ejection (spec/07 R189, R191, R198; spec/14 R386, R387). -/

namespace Sys2Proof.Machine

/-- The die lies in the anchor's row or column: the port away from the anchor (R198). -/
def awayPort (s : State) (p : Packet) : Option Nat :=
  let o := ownDa s
  let a := pDst p
  if a / 64 ≠ o / 64 || !(pMcast p == 1 || pMcast p == 2) then none else
  let row := pMcast p == 1
  let pos (d : Nat) : Nat := if row then d % 8 else d / 8 % 8
  let line (d : Nat) : Nat := if row then d / 8 % 8 else d % 8
  if line o ≠ line a || pos o = pos a then none
  else some (if row then (if pos a < pos o then 0 else 1) else (if pos a < pos o then 2 else 3))

/-- A die of the mask lies beyond this one, away from the anchor. -/
def copyBeyond (s : State) (p : Packet) (port : Nat) : Bool :=
  let me := if pMcast p == 1 then ownDa s % 8 else ownDa s / 8 % 8
  (List.range 8).any (fun i => bit (pMmask p) i && (if port = 0 ∨ port = 2 then decide (me < i) else decide (i < me)))

/-- Die steps between two dies of a package. -/
def meshDist (a b : Nat) : Nat := (a % 8 - b % 8) + (b % 8 - a % 8) + (a / 8 % 8 - b / 8 % 8) + (b / 8 % 8 - a / 8 % 8)

/-- The port of a multicast copy on its way from the anchor to a marked die; none for a packet still on its way to the anchor. The header does not tell
the two apart: from a source in the package the hops made do; from another package it is a free value (R198; log entry 39). -/
def copyPort (s : State) (p : Packet) : Option Nat :=
  match awayPort s p with
  | none => none
  | some port =>
    if !(copyBeyond s p port) then none
    else if pSrc p / 64 = ownDa s / 64 then (if meshDist (pSrc p) (pDst p) ≤ pHops p then some port else none)
    else if bit (Config.freeWord s.free).toNat 0 then some port else none

/-- A transit packet: the fence discard, the hop limit, then its port with HOPS one higher (R189, R191, R386, R387). -/
def transit (p : Packet) (contended : Bool) (s : State) : State :=
  if !(takesPackets s) || (pDst p == ownDa s) then s
  else if isFenced s (pSrc p) || ((pTyp p == 1 || pTyp p == 9) && isFenced s (pTs p 16 19 0)) then bump Reg.REL_FENCE_DROP_CNT 1 s
  else if pHops p = 63 then discard Reg.XCHG_FAB_DROP_CNT Reg.XCHG_FAB_STAT 3 s
  else
    let q : Packet := { p with w0 := BitVec.ofNat 64 (setBits p.w0.toNat 61 56 (pHops p + 1)) }
    match copyPort s p with
    | some port => passCopy port q contended (tick s)
    | none => match route s p with
      | some port => passOn port q contended s
      | none => discard Reg.XCHG_FAB_DROP_CNT Reg.XCHG_FAB_STAT 7 (if contended then tdc 1 s else s)

/-- TRANSIT_FORWARD (R191). -/
def execTransitForward (p : Packet) (contended : Bool) (s : State) : Host.Outcome State Fault Refusal := finish (transit p contended s)

/-- A packet that fails check 1 or 2 of R189. -/
def badPacket (rsp : Bool) (p : Packet) : Bool :=
  !(pCrcOk p) || !([1, 2, 3, 4, 5, 6, 9, 10, 11, 12].contains (pTyp p)) || bit (pTyp p) 3 != rsp

/-- BAD_TYPE_PACKET (R189). -/
def execBadTypePacket (rsp : Bool) (p : Packet) (s : State) : Host.Outcome State Fault Refusal :=
  finish (if badPacket rsp p then eject rsp p id s else s)

end Sys2Proof.Machine
end

