-- ==== Sys2Proof/Machine/Dispatch.lean ====
section
/-! DEFINITION. One arm per command: the meaning it calls. -/

namespace Sys2Proof.Machine

/-- The effect of a command on everything but the queue. -/
def exec (i : Instr) (s : State) : Host.Outcome State Fault Refusal :=
  match i with
  | .nop p => Sys2Proof.Machine.execNop p s
  | .getInfo p => Sys2Proof.Machine.execGetInfo p s
  | .loadModel p => Sys2Proof.Machine.execLoadModel p s
  | .unloadModel p => Sys2Proof.Machine.execUnloadModel p s
  | .switchModel p => Sys2Proof.Machine.execSwitchModel p s
  | .runStep p => Sys2Proof.Machine.execRunStep p s
  | .killStepRerun p => Sys2Proof.Machine.execKillStepRerun p s
  | .killStepDrop p => Sys2Proof.Machine.execKillStepDrop p s
  | .queryStep p => Sys2Proof.Machine.execQueryStep p s
  | .readLl p => Sys2Proof.Machine.execReadLl p s
  | .partConfigSet p => Sys2Proof.Machine.execPartConfigSet p s
  | .partConfigLeave p => Sys2Proof.Machine.execPartConfigLeave p s
  | .storeNvm p => Sys2Proof.Machine.execStoreNvm p s
  | .storeNvmDone failed => Sys2Proof.Machine.execStoreNvmDone failed s
  | .selfTest p => Sys2Proof.Machine.execSelfTest p s
  | .selfTestDone tiles lanes words => Sys2Proof.Machine.execSelfTestDone tiles lanes words s
  | .suspendIdle p => Sys2Proof.Machine.execSuspendIdle p s
  | .suspendDark p => Sys2Proof.Machine.execSuspendDark p s
  | .resume p => Sys2Proof.Machine.execResume p s
  | .captureStart p => Sys2Proof.Machine.execCaptureStart p s
  | .captureStop p => Sys2Proof.Machine.execCaptureStop p s
  | .replayStart p => Sys2Proof.Machine.execReplayStart p s
  | .replayStop p => Sys2Proof.Machine.execReplayStop p s
  | .logFlush p => Sys2Proof.Machine.execLogFlush p s
  | .submitList p => Sys2Proof.Machine.execSubmitList p s
  | .allocCounters p => Sys2Proof.Machine.execAllocCounters p s
  | .freeCounters p => Sys2Proof.Machine.execFreeCounters p s
  | .allocCpool p => Sys2Proof.Machine.execAllocCpool p s
  | .freeCpool p => Sys2Proof.Machine.execFreeCpool p s
  | .cfgCommitRef p => Sys2Proof.Machine.execCfgCommitRef p s
  | .cfgCommitSelf p => Sys2Proof.Machine.execCfgCommitSelf p s
  | .mbDoorbell data => Sys2Proof.Machine.execMbDoorbell data s
  | .mbCmdWrite n data => Sys2Proof.Machine.execMbCmdWrite n data s
  | .mbPop data => Sys2Proof.Machine.execMbPop data s
  | .mbTake => Sys2Proof.Machine.execMbTake s
  | .keeperReadTimeout => Sys2Proof.Machine.execKeeperReadTimeout s
  | .replyFifoEnter => Sys2Proof.Machine.execReplyFifoEnter s
  | .ringPlaceResume => Sys2Proof.Machine.execRingPlaceResume s
  | .stepEnqueue spareFail => Sys2Proof.Machine.execStepEnqueue spareFail s
  | .idleStepBoundary spareFail => Sys2Proof.Machine.execIdleStepBoundary spareFail s
  | .cfgHoldRetry => Sys2Proof.Machine.execCfgHoldRetry s
  | .cfgFlipTimeout => Sys2Proof.Machine.execCfgFlipTimeout s
  | .cfgCrcDone => Sys2Proof.Machine.execCfgCrcDone s
  | .pdResolve => Sys2Proof.Machine.execPdResolve s
  | .score be fail => Sys2Proof.Machine.execScore be fail s
  | .scoreCount be fail => Sys2Proof.Machine.execScoreCount be fail s
  | .func be => Sys2Proof.Machine.execFunc be s
  | .rowMax be => Sys2Proof.Machine.execRowMax be s
  | .rowSumexp be => Sys2Proof.Machine.execRowSumexp be s
  | .softmax be => Sys2Proof.Machine.execSoftmax be s
  | .rowRms be => Sys2Proof.Machine.execRowRms be s
  | .renorm be => Sys2Proof.Machine.execRenorm be s
  | .select be => Sys2Proof.Machine.execSelect be s
  | .selectGonly be => Sys2Proof.Machine.execSelectGonly be s
  | .sort be fail => Sys2Proof.Machine.execSort be fail s
  | .sortGateway be fail => Sys2Proof.Machine.execSortGateway be fail s
  | .plan be => Sys2Proof.Machine.execPlan be s
  | .send be => Sys2Proof.Machine.execSend be s
  | .recv be => Sys2Proof.Machine.execRecv be s
  | .forward be => Sys2Proof.Machine.execForward be s
  | .fetchRequester be => Sys2Proof.Machine.execFetchRequester be s
  | .fetchServer be => Sys2Proof.Machine.execFetchServer be s
  | .combine be => Sys2Proof.Machine.execCombine be s
  | .combineAck be => Sys2Proof.Machine.execCombineAck be s
  | .move be => Sys2Proof.Machine.execMove be s
  | .dispatch be => Sys2Proof.Machine.execDispatch be s
  | .reduceStatsFabric be => Sys2Proof.Machine.execReduceStatsFabric be s
  | .reduceStatsBeacon be => Sys2Proof.Machine.execReduceStatsBeacon be s
  | .commit => Sys2Proof.Machine.execCommit s
  | .stepKill cause => Sys2Proof.Machine.execStepKill cause s
  | .rerun => Sys2Proof.Machine.execRerun s
  | .modelSwitch read => Sys2Proof.Machine.execModelSwitch read s
  | .ingressBeat cluster flag data => Sys2Proof.Machine.execIngressBeat cluster flag data s
  | .ingTimeout => Sys2Proof.Machine.execIngTimeout s
  | .shDone cluster => Sys2Proof.Machine.execShDone cluster s
  | .clusterResultRow cluster tag row => Sys2Proof.Machine.execClusterResultRow cluster tag row s
  | .workRecordTaken cluster => Sys2Proof.Machine.execWorkRecordTaken cluster s
  | .dlbSteal => Sys2Proof.Machine.execDlbSteal s
  | .warmDone cluster => Sys2Proof.Machine.execWarmDone cluster s
  | .halfArmed half => Sys2Proof.Machine.execHalfArmed half s
  | .dispatchPacket p => Sys2Proof.Machine.execDispatchPacket p s
  | .bundlePacket p => Sys2Proof.Machine.execBundlePacket p s
  | .fetchRd p => Sys2Proof.Machine.execFetchRd p s
  | .fetchCpl p => Sys2Proof.Machine.execFetchCpl p s
  | .countRecords p => Sys2Proof.Machine.execCountRecords p s
  | .collData p => Sys2Proof.Machine.execCollData p s
  | .result p => Sys2Proof.Machine.execResult p s
  | .ack p => Sys2Proof.Machine.execAck p s
  | .ackBatchTimer idx => Sys2Proof.Machine.execAckBatchTimer idx s
  | .ackTimeout eng => Sys2Proof.Machine.execAckTimeout eng s
  | .resultTimeout half => Sys2Proof.Machine.execResultTimeout half s
  | .fetchRdLate => Sys2Proof.Machine.execFetchRdLate s
  | .fetchStreamShort => Sys2Proof.Machine.execFetchStreamShort s
  | .sharedRowsTimeout => Sys2Proof.Machine.execSharedRowsTimeout s
  | .llReqRead p => Sys2Proof.Machine.execLlReqRead p s
  | .llReqOwn p rivals => Sys2Proof.Machine.execLlReqOwn p rivals s
  | .llWb p => Sys2Proof.Machine.execLlWb p s
  | .llGrantData p => Sys2Proof.Machine.execLlGrantData p s
  | .llGrantGrant p => Sys2Proof.Machine.execLlGrantGrant p s
  | .llRetry p => Sys2Proof.Machine.execLlRetry p s
  | .llRetryResend idx => Sys2Proof.Machine.execLlRetryResend idx s
  | .regWrite p => Sys2Proof.Machine.execRegWrite p s
  | .regRead p => Sys2Proof.Machine.execRegRead p s
  | .stepAbort p => Sys2Proof.Machine.execStepAbort p s
  | .partHold p => Sys2Proof.Machine.execPartHold p s
  | .partResume p => Sys2Proof.Machine.execPartResume p s
  | .ctrlResult p => Sys2Proof.Machine.execCtrlResult p s
  | .transitForward p contended => Sys2Proof.Machine.execTransitForward p contended s
  | .bucketAdmit mem => Sys2Proof.Machine.execBucketAdmit mem s
  | .apertureAccess a => Sys2Proof.Machine.execApertureAccess a s
  | .memCompletion tag poisoned => Sys2Proof.Machine.execMemCompletion tag poisoned s
  | .memReadTimeout slot => Sys2Proof.Machine.execMemReadTimeout slot s
  | .join link f => Sys2Proof.Machine.execJoin link f s
  | .release link f => Sys2Proof.Machine.execRelease link f s
  | .alarm link f => Sys2Proof.Machine.execAlarm link f s
  | .wake link f => Sys2Proof.Machine.execWake link f s
  | .heartbeat link f => Sys2Proof.Machine.execHeartbeat link f s
  | .heartbeatPeriod => Sys2Proof.Machine.execHeartbeatPeriod s
  | .claim link f => Sys2Proof.Machine.execClaim link f s
  | .root link f => Sys2Proof.Machine.execRoot link f s
  | .electSettle => Sys2Proof.Machine.execElectSettle s
  | .treeRootTimeout => Sys2Proof.Machine.execTreeRootTimeout s
  | .discover link f => Sys2Proof.Machine.execDiscover link f s
  | .discoverReply link f => Sys2Proof.Machine.execDiscoverReply link f s
  | .flipReq link f => Sys2Proof.Machine.execFlipReq link f s
  | .flipReqTimer => Sys2Proof.Machine.execFlipReqTimer s
  | .flipPrep link f => Sys2Proof.Machine.execFlipPrep link f s
  | .flipStage1Done => Sys2Proof.Machine.execFlipStage1Done s
  | .flipGo link f => Sys2Proof.Machine.execFlipGo link f s
  | .flipRetireJoin => Sys2Proof.Machine.execFlipRetireJoin s
  | .drainTimeout => Sys2Proof.Machine.execDrainTimeout s
  | .drainDone => Sys2Proof.Machine.execDrainDone s
  | .killFrame link f => Sys2Proof.Machine.execKillFrame link f s
  | .fence link f => Sys2Proof.Machine.execFence link f s
  | .beaconFrameAck link cls => Sys2Proof.Machine.execBeaconFrameAck link cls s
  | .beaconResend link cls => Sys2Proof.Machine.execBeaconResend link cls s
  | .darkSidebandChange link dark => Sys2Proof.Machine.execDarkSidebandChange link dark s
  | .lockstepMismatch => Sys2Proof.Machine.execLockstepMismatch s
  | .watchdogExpire => Sys2Proof.Machine.execWatchdogExpire s
  | .scrubVisit found => Sys2Proof.Machine.execScrubVisit found s
  | .soundSample core fab ctl bcn aon => Sys2Proof.Machine.execSoundSample core fab ctl bcn aon s
  | .clockWindow bad => Sys2Proof.Machine.execClockWindow bad s
  | .pwrGoodRise => Sys2Proof.Machine.execPwrGoodRise s
  | .resetN aonCycles => Sys2Proof.Machine.execResetN aonCycles s
  | .phaseAEnd => Sys2Proof.Machine.execPhaseAEnd s
  | .phaseBEnd tiles lanes => Sys2Proof.Machine.execPhaseBEnd tiles lanes s
  | .sliceReady startupOk => Sys2Proof.Machine.execSliceReady startupOk s
  | .bootGo data => Sys2Proof.Machine.execBootGo data s
  | .extImageTimeout => Sys2Proof.Machine.execExtImageTimeout s
  | .idleExitDone => Sys2Proof.Machine.execIdleExitDone s
  | .darkDrainTimer => Sys2Proof.Machine.execDarkDrainTimer s
  | .darkEnter => Sys2Proof.Machine.execDarkEnter s
  | .logWord0Read wide => Sys2Proof.Machine.execLogWord0Read wide s
  | .logCtlFlush data => Sys2Proof.Machine.execLogCtlFlush data s
  | .logFlushBoundary => Sys2Proof.Machine.execLogFlushBoundary s
  | .clampClr data => Sys2Proof.Machine.execClampClr data s
  | .satClr data => Sys2Proof.Machine.execSatClr data s
  | .tdcClr data => Sys2Proof.Machine.execTdcClr data s
  | .acctSelWrite data => Sys2Proof.Machine.execAcctSelWrite data s
  | .acctCopyDone => Sys2Proof.Machine.execAcctCopyDone s
  | .capSwWrite data => Sys2Proof.Machine.execCapSwWrite data s
  | .captureStartApply => Sys2Proof.Machine.execCaptureStartApply s
  | .captureStopApply => Sys2Proof.Machine.execCaptureStopApply s
  | .registerWrite off size data => Sys2Proof.Machine.execRegisterWrite off size data s
  | .registerRead off size => Sys2Proof.Machine.execRegisterRead off size s
  | .pwrGoodFall => Sys2Proof.Machine.execPwrGoodFall s
  | .aonTick => Sys2Proof.Machine.execAonTick s
  | .badTypePacket rsp p => Sys2Proof.Machine.execBadTypePacket rsp p s
  | .unlistedBeaconFrame link f => Sys2Proof.Machine.execUnlistedBeaconFrame link f s
  | .captureRingCopy => Sys2Proof.Machine.execCaptureRingCopy s
  | .memWriteTimeout eng addr => Sys2Proof.Machine.execMemWriteTimeout eng addr s

end Sys2Proof.Machine
end

