-- ==== Sys2Proof/Safety.lean ====
section
/-! DEFINITION. What every step keeps, and what counts as a completed step. -/

namespace Sys2Proof.Machine

/-- Every byte map, register map and counter map is in its one canonical form. -/
def State.wf (s : State) : Bool :=
  cellWf regReset s.live && cellWf regReset s.staged && cellWf (fun _ => 0) s.cnt && cellWf (fun _ => 0) s.pub
  && cellWf (fun _ => 0) s.mboxCmd && cellWf memDefault s.mem && cellWf memDefault s.nvm.bytes

/-- The bounds the spec sets: at most sixteen replies in the FIFO (R297), at most one command on an engine (R31), at most 64 steps that have not
finished (R289). -/
def State.bounded (s : State) : Bool :=
  decide (s.replies.length ≤ 16) && decide ((s.running.map Run.eng).Nodup) && decide (s.steps.length ≤ 64)

/-- The step answers a next state. -/
def completes (o : Host.Outcome State Fault Refusal) : Prop := ∃ t, o = .next t

/-! ### The control port -/

/-- The control port answers a read at an offset: it is up, and in DARK the offset is the AON responder's (R400, R407). -/
def portServes (s : State) (off : Nat) : Prop := ctlUp s = true ∧ (pwrState s = 2 → aonServed off = true)

/-- The control port takes a write at an offset: it is up, and in DARK the offset is the AON responder's or the mailbox's (R400, R407). -/
def portTakes (s : State) (off : Nat) : Prop :=
  ctlUp s = true ∧ (pwrState s = 2 → aonServed off = true ∨ (Reg.KEEP_MB_CMD 0 ≤ off ∧ off ≤ Reg.KEEP_MB_DOORBELL))

/-- Offsets at which a write does something of its own beside writing its fields. -/
def writeActs (o : Nat) : Bool :=
  (decide (Reg.KEEP_MB_CMD 0 ≤ o) && decide (o ≤ Reg.KEEP_MB_CMD 63)) ||
  [Reg.KEEP_MB_DOORBELL, Reg.KEEP_MB_POP, Reg.COMB_CNT_CLR, Reg.PART_ACCT_SEL, Reg.PART_DET_CTL, Reg.PART_CAP_SW_HI, Reg.PART_CAP_MARGIN,
   Reg.PART_LOG_CTL, Reg.REL_BOOT_CTL].contains o

/-- Registers whose RW fields ignore some values (R331, R396, R397). -/
def ignores (o : Nat) : Bool := [Reg.REL_SCRUB, Reg.REL_SND_CTL, Reg.REL_SND_THR, Reg.PART_LOG_HIGH, Reg.PART_LOG_LOW].contains o

/-! ### Host packets (R297, R303) -/

/-- A packet of an opcode reaches a Keeper that may take it: the port is up, the mailbox open and empty (R297, R400). -/
def hostReaches (op : Nat) (p : HostPkt) (s : State) : Prop :=
  hOp p = op ∧ ctlUp s = true ∧ bellClosed s = false ∧ s.mboxPkt = none ∧ mayTake p s = true

/-- A packet passes every check of R303, with what they read in staging, so that none waits for the die memory port (R382). -/
def hostPasses (p : HostPkt) (s : State) : Prop :=
  firstBad (hdrChecks p ++ partChecks (hostSeen p s) p) = none ∧ takeReads p (hostSeen p s) = []
    ∧ judge (hostSeen p s) (hostVerdict (hostSeen p s) p) = none

/-- The rows that bring a packet to the Keeper: the packet, the row's opcode, and whether the packet's form is the row's (R300). -/
def hostRowOf (i : Instr) : Option (HostPkt × Nat × Bool) :=
  match i with
  | .nop p => some (p, 0x00, true) | .getInfo p => some (p, 0x01, true) | .loadModel p => some (p, 0x10, true)
  | .unloadModel p => some (p, 0x11, true) | .switchModel p => some (p, 0x12, true) | .runStep p => some (p, 0x20, true)
  | .killStepRerun p => some (p, 0x21, !(bit (hPar p 0 1) 0)) | .killStepDrop p => some (p, 0x21, bit (hPar p 0 1) 0)
  | .queryStep p => some (p, 0x22, true) | .readLl p => some (p, 0x30, true)
  | .partConfigSet p => some (p, 0x40, bits (hPar p 2 1) 1 0 != 1) | .partConfigLeave p => some (p, 0x40, bits (hPar p 2 1) 1 0 == 1)
  | .storeNvm p => some (p, 0x50, true) | .selfTest p => some (p, 0x51, true)
  | .suspendIdle p => some (p, 0x52, !(bit (hPar p 0 1) 0)) | .suspendDark p => some (p, 0x52, bit (hPar p 0 1) 0)
  | .resume p => some (p, 0x53, true)
  | .captureStart p => some (p, 0x60, !(bit (hPar p 0 1) 0)) | .captureStop p => some (p, 0x60, bit (hPar p 0 1) 0)
  | .replayStart p => some (p, 0x61, !(bit (hPar p 0 1) 0)) | .replayStop p => some (p, 0x61, bit (hPar p 0 1) 0)
  | .logFlush p => some (p, 0x70, true) | .submitList p => some (p, 0x80, true)
  | .allocCounters p => some (p, 0x81, true) | .freeCounters p => some (p, 0x82, true)
  | .allocCpool p => some (p, 0x83, true) | .freeCpool p => some (p, 0x84, true)
  | .cfgCommitRef p => some (p, 0x90, !(bit (hPar p 4 1) 0)) | .cfgCommitSelf p => some (p, 0x90, bit (hPar p 4 1) 0)
  | _ => none

/-! ### Records that start on engines (R31, R33) -/

/-- What a job leaves when its command completes: its work, the BUSY count, the digests, then credits, signal, slot and TRACE (R33, R367). -/
def jobDone (u : Run) (j : Job) (s : State) : State :=
  complete u (digests u.cmd j.outs (if j.busyLo = 0 then jobWork j s else busy j.busyLo j.bound (jobWork j s)))

/-- What starting a record with a job that nothing stops leaves: its work, and its completion unless it goes on waiting. -/
def jobEnds (s : State) (e : Nat) (r : RingRec) (j : Job) : State :=
  if j.wait then jobWork j (j.start (startRun e r s)) else jobDone (newRun s e r) j (j.start (startRun e r s))

/-- The record at the head of an engine's ring starts and can do its job at once: operands in staging, no poisoned word read, no kill, no
poisoned word partly written, no buffer read before its writer signalled, no write that the MEM bucket meters (R25, R31, R344, R379, R381). -/
def jobRuns (s : State) (e : Nat) (be : Bool) (r : RingRec) (j : Job) : Prop :=
  startable s e be = some r ∧ dieBytes s j.reads = 0 ∧ poisonAny (j.start (startRun e r s)) (cmdSpan r :: j.reads) = none ∧ j.kill = none
    ∧ partialPoison (j.start (startRun e r s)) (j.writes.map Wr.a) = none ∧ readsEarly (j.start (startRun e r s)) r j.reads = false
    ∧ metered j (j.start (startRun e r s)) = 0

/-- The rows that start a record with one job and no further condition: engine, class, the records that are the row's, the job (R284). -/
def jobRowOf (i : Instr) : Option (Nat × Bool × (Record → Bool) × (State → RingRec → Job)) :=
  match i with
  | .func be => some (1, be, isSfu 0, funcJob) | .rowMax be => some (1, be, isSfu 1, rowMaxJob)
  | .rowSumexp be => some (1, be, isSfu 2, rowSumexpJob) | .softmax be => some (1, be, isSfu 3, softmaxJob)
  | .rowRms be => some (1, be, isSfu 4, rowRmsJob) | .renorm be => some (1, be, isSfu 5, renormJob)
  | .select be => some (2, be, isSelect, selectJob) | .selectGonly be => some (2, be, isGonly, gonlyJob)
  | .recv be => some (5, be, isRecv, recvJob) | .forward be => some (5, be, isForward, forwardJob)
  | .move be => some (8, be, fun r => rOp r == 0x40, moveJob) | .reduceStatsFabric be => some (9, be, isReduce, reduceJob)
  | _ => none

/-- A state with room reserved in capture staging for n arrival records, where capture runs (R369). -/
def reserving (n : Nat) (s : State) : State := if capMode s = 1 then capCred { s with cap := { s.cap with reserved := s.cap.reserved + 16 * n } } else s

/-- Capture staging holds n arrival records more, or no capture runs (R369). -/
def staged16 (n : Nat) (s : State) : Bool := capMode s != 1 || decide (16 * n ≤ capFree s)

/-- Every row that starts a record with one job, with the state it starts in and what must hold first: no failed check, its lines held, its bundles
there, room in capture staging, no fifth barrier instance (R157, R179, R270, R284, R369). -/
def jobRowIf (i : Instr) (s : State) (r : RingRec) : Option (Nat × Bool × (Record → Bool) × (State → RingRec → Job) × State × Bool) :=
  let holds (t : State) (q : Bool × Nat × Nat × List Nat) : Bool := (llMissing t q.1 q.2.1 q.2.2.1 q.2.2.2).isEmpty
  let held := holds s
  let joins (id : Step → BarId) : Bool := match stepAt s r.step with | none => true | some x => barFree s (id x)
  let sends := sumExpChunks (planSum s r.step (xBlock s r.raw).planBase)
  match i with
  | .score be none => some (0, be, fun r => rOp r == 0x01, scoreJob, s, true)
  | .scoreCount be none => some (0, be, isScoreCount, scoreCountJob, s, true)
  | .sort be none => some (3, be, isSort, sortJob, s, held (sortNeed s r))
  | .sortGateway be none => some (3, be, isSortGw, sortGwJob, s, gwReady s be)
  | .plan be => some (4, be, fun r => rOp r == 0x20, planJob, s, held (planNeed s r))
  | .send be => some (5, be, isSend, sendJob, reserving sends s, staged16 sends s)
  | .fetchRequester be =>
    let u := reserving (fetchRoom s r) s
    some (6, be, isFetchReq, fetchReqJob, u, held (fetchNeed s r) && holds u (fetchNeed u r) && staged16 (fetchRoom s r) s)
  | .fetchServer be => some (6, be, isFetchSrv, fetchSrvJob, s, held (serverNeed s r))
  | .reduceStatsBeacon be => some (9, be, isReduceBcn, reduceBcnJob, s, joins (reduceId s))
  | .dispatch be => some (9, be, isDispatch, dispatchJob, s, joins (fun x => countId s x (rHalf r.raw)) && held (dispatchNeed s r))
  | _ => (jobRowOf i).map (fun q => (q.1, q.2.1, q.2.2.1, q.2.2.2, s, true))

/-! ### Packets at the fabric interface (R189) -/

/-- The state in which a packet ejected at this die is checked: its multicast copies sent on, its turn at the ejection port, and the packet counted (R189,
R194, R198). -/
def ejected (rsp : Bool) (p : Packet) (s : State) : State := won rsp p (copied p s)

/-- A REQ packet waits behind one that waits for room in the hold area (R251). -/
def waits (rsp : Bool) (s : State) : Bool := !rsp && !s.ejectQ.isEmpty

/-- The fence discard comes before the checks: SRC, or the tag's source die of a DISPATCH or RESULT, is in the fence list (R386). -/
def srcFenced (p : Packet) (s : State) : Bool := isFenced s (pSrc p) || ((pTyp p == 1 || pTyp p == 9) && isFenced s (pTs p 16 19 0))

/-- The six checks in order: the first that fails names its counter and its bit of FAB_STAT (R189). -/
def pktVerdict (rsp : Bool) (p : Packet) (s : State) : Option (Nat × Nat) :=
  if !(pCrcOk p) then some (Reg.XCHG_FAB_CRC_CNT, 0)
  else if !([1, 2, 3, 4, 5, 6, 9, 10, 11, 12].contains (pTyp p)) || bit (pTyp p) 3 != rsp then some (Reg.XCHG_FAB_DROP_CNT, 2)
  else if pMcast p == 3 || (pMcast p != 0 && (!(mcastAllowed p) || !(bit (pMmask p) (if pMcast p = 1 then pDst p % 8 else pDst p / 8 % 8)))) then
    some (Reg.XCHG_FAB_DROP_CNT, 8)
  else if !(assigned s) || pPart p != partId s then some (Reg.XCHG_FAB_DROP_CNT, 4)
  else if !(verHeld s (pEpoch p)) then some (Reg.XCHG_FAB_DROP_CNT, 5)
  else if pKgen p != kgen s then some (Reg.XCHG_FAB_STALE_CNT, 6)
  else none

/-- A type only members of the partition may send, from a die that is none (R337). -/
def strange (p : Packet) (s : State) : Bool :=
  (pTyp p == 4 || pTyp p == 5 || pTyp p == 6 || pTyp p == 3 || pTyp p == 2) && !(isMember s (pSrc p))

/-- The rows that are packets ejected at this die: the network, the packet, whether its form is the row's, and what its engine does (R187). -/
def pktRowOf (i : Instr) : Option (Bool × Packet × Bool × (State → State)) :=
  let ctrl (p : Packet) (op : Nat) (k : State → State) : Option (Bool × Packet × Bool × (State → State)) :=
    some (false, p, pTyp p == 4 && ctrlOp p == op, fun s => k (capCtrl p (ackAccept p s)))
  match i with
  | .dispatchPacket p => some (false, p, pTyp p == 1 && pTs p 26 2 2 == 0, onDispatch false p)
  | .bundlePacket p => some (false, p, pTyp p == 1 && pTs p 26 2 2 == 1, onDispatch true p)
  | .fetchRd p => some (false, p, pTyp p == 2, fun s => serveAll { s with rdHeld := s.rdHeld ++ [p] })
  | .fetchCpl p => some (true, p, pTyp p == 10, onFetchCpl p)
  | .countRecords p => some (false, p, pTyp p == 3 && pTs p 18 3 0 == 0, onCount p)
  | .collData p => some (false, p, pTyp p == 3 && pTs p 18 3 0 != 0, onColl p)
  | .result p => some (true, p, pTyp p == 9, onResult p)
  | .ack p => some (true, p, pTyp p == 11, onAck p)
  | .llReqRead p => some (false, p, pTyp p == 5, onLlRead p)
  | .llReqOwn p rivals => some (false, p, pTyp p == 5, onLlOwn p rivals)
  | .llWb p => some (false, p, pTyp p == 6, onWriteBack p)
  | .llGrantData p => some (true, p, pTyp p == 12, onGrantData p)
  | .llGrantGrant p => some (true, p, pTyp p == 12, onGrantOwn p)
  | .llRetry p => some (true, p, pTyp p == 12, onLlRetry p)
  | .regWrite p => ctrl p 0x01 (onRegWrite p) | .regRead p => ctrl p 0x02 (onRegRead p)
  | .stepAbort p => ctrl p 0x10 (onStepAbort p) | .partHold p => ctrl p 0x11 (onPartHold p)
  | .partResume p => ctrl p 0x12 (onPartResume p) | .ctrlResult p => ctrl p 0x7F (onCtrlResult p)
  | .badTypePacket rsp p => some (rsp, p, badPacket rsp p, id)
  | _ => none

/-! ### Beacon frames (R259 to R264) -/

/-- The rows that are frames received on a link: the link, the frame, whether its class and type are the row's, whether it is handled before the slice
is ready, and what it does (R261). -/
def frameRowOf (i : Instr) : Option (Nat × Frame × Bool × Bool × (State → State)) :=
  let is (f : Frame) (c t : Nat) : Bool := fCls f == c && fTyp f == t
  match i with
  | .join l f => some (l, f, is f 1 1, false, onJoin l f)
  | .release l f => some (l, f, is f 1 2, false, onReleaseFrame f)
  | .alarm l f => some (l, f, is f 0 1, true, alarmFrame l f)
  | .wake l f => some (l, f, is f 2 1, true, wakeFrame l f)
  | .heartbeat l f => some (l, f, is f 3 1, true, onHeartbeat l f)
  | .claim l f => some (l, f, is f 3 2, false, onClaim l f)
  | .root l f => some (l, f, is f 3 3, false, onRoot l f)
  | .discover l f => some (l, f, is f 3 4, true, onDiscover l f)
  | .discoverReply l f => some (l, f, is f 3 5, false, fun s => setLink l { linkAt s l with neighbour := some (fArg f 19 0), identity := fPay f } s)
  | .flipPrep l f => some (l, f, is f 3 6, false, fun s =>
      let s := sendDown 3 (headOf 3 0x06 false true 1024 0 (fArg f 0 0)) none (capBeacon f.head.toNat 0 s)
      if fenced s then s else startPrep (fArg f 0 0 == 1) s)
  | .flipGo l f => some (l, f, is f 3 7, false, fun s =>
      let s := sendDown 3 (headOf 3 0x07 false true 1024 0 (fArg f 0 0)) none (capBeacon f.head.toNat 0 s)
      if fenced s then s else applyGo (fArg f 0 0 == 1) s)
  | .killFrame l f => some (l, f, is f 3 8, false, onKill f)
  | .fence l f => some (l, f, is f 3 9, false, onFence f)
  | .flipReq l f => some (l, f, is f 3 0xA, false, fun s =>
      if fenced s then sendUp 3 (headOf 3 0x0A false false 1024 0 (fArg f 19 0)) none s else requestFlip (fArg f 19 0) s)
  | .unlistedBeaconFrame l f => some (l, f, !(listedFrame f), true, fun s => bump Reg.XCHG_BCN_STALE_CNT 1 s)
  | _ => none

/-- The slice receives frames of a class: powered and clocked, from phase C on and not dark, but WAKE and FOGHORN always (R264, R400, R406). -/
def hears (s : State) (cls : Nat) : Prop :=
  s.powered = true ∧ s.power.clkStopped = false ∧ (cls = 0 ∨ cls = 2 ∨ (pwrState s ≠ 2 ∧ 2 ≤ fld s Reg.REL_PWR_STAT 4 3))

/-- A frame repeats the last one of its class on its link: the alternating bit is the same (R263). -/
def repeated (s : State) (l : Nat) (f : Frame) : Bool := (linkAt s l).seqRx.any (fun e => e.1 == fCls f && e.2 == b2n (fSeq f))

/-- The state in which a new frame is handled: acknowledged, the link up, its alternating bit noted (R263, R277). -/
def frameTaken (l : Nat) (f : Frame) (s : State) : State :=
  setLink l { linkAt s l with up := true, seqRx := (fCls f, b2n (fSeq f)) :: (linkAt s l).seqRx.filter (fun e => e.1 != fCls f) } (ackFrame l (fCls f) s)

end Sys2Proof.Machine
end

