-- ==== Sys2Proof/Certificates/Slice0/Obligations.lean ====
section
/-! DEFINITION. The statements for the provers: what the commands do, as the rules of spec/ say it. -/

open Sys2Proof Sys2Proof.Machine

/-- A step takes the command at the front of the queue and runs it with the queue's rest. -/
def Obligations.StepRunsFrontCommand : Prop :=
  ∀ (s : State) (c : Instr) (rest : List Instr), s.pending = c :: rest → step s = exec c { s with pending := rest }

/-- Log entry 3 (the model's choice): with an empty queue a step is one tick. -/
def Obligations.StepEmptyQueueTicks : Prop :=
  ∀ s : State, s.pending = [] → ∃ t, step s = .next t ∧
    (forwarding s = false → t = { s with clock := s.clock + 1 })
    ∧ (forwarding s = true → fenced s = true → t = settle (spillCycle { s with clock := s.clock + 1 }))
    ∧ (forwarding s = true → fenced s = false → t = settle
        (repAdvance (replayRows (resumeFetch (checkRecv (combPoll (holdCycle (ejectNext (ejectHead
          (fabDrain true (fabDrain false (bucketCycle (spillCycle { s with clock := s.clock + 1 })))))))))))))

/-- The model's choice (log entry 1): no command stops the block; each has an effect in every state (a rejection, a status bit, or none). -/
def Obligations.EveryCommandCompletes : Prop :=
  ∀ (c : Instr) (s : State), ∃ t, exec c s = .next t ∧ t.wf = true

/-- Reset lists nothing. -/
def Obligations.ResetIsCanonical : Prop := State.reset.wf = true ∧ State.reset.bounded = true

/-- The canonical form of registers, counters and memory is an invariant of every step. -/
def Obligations.StepKeepsCanonical : Prop :=
  ∀ s t : State, s.wf = true → step s = .next t → t.wf = true

/-- The end of every meaning changes no reading, and nothing on a canonical state. -/
def Obligations.SettleChangesNoReading : Prop :=
  ∀ s : State, (∀ o, reg (settle s) o = reg s o) ∧ (∀ o, stg (settle s) o = stg s o) ∧ (∀ n, cnt (settle s) n = cnt s n)
    ∧ (∀ e, cellGet (fun _ => 0) (settle s).pub e = cellGet (fun _ => 0) s.pub e)
    ∧ (∀ n, cellGet (fun _ => 0) (settle s).mboxCmd n = cellGet (fun _ => 0) s.mboxCmd n)
    ∧ (∀ a, rd8 (settle s) a = rd8 s a) ∧ (∀ o n, nvmRd (settle s) o n = nvmRd s o n)
    ∧ (s.wf = true → settle s = s)

/-- The state right after reset. -/
def Obligations.ResetValues : Prop :=
  (∀ r ∈ regTable, reg State.reset r.off = r.reset) ∧ State.reset.powered = true ∧ ready State.reset = false ∧ pwrState State.reset = 0 ∧ fld State.reset Reg.REL_PWR_STAT 4 3 = 0
    ∧ assigned State.reset = false ∧ State.reset.pools.all (fun p => p.owned.isEmpty) = true
    ∧ State.reset.steps = [] ∧ State.reset.running = [] ∧ State.reset.ringq = [] ∧ State.reset.replies = [] ∧ State.reset.replyq = []
    ∧ State.reset.mboxPkt = none ∧ State.reset.poison = [] ∧ State.reset.ll = [] ∧ State.reset.links = [] ∧ State.reset.pending = []
    ∧ (∀ n, cnt State.reset n = 0)

/-- A 32-bit read and its one side effect. -/
def Obligations.RegisterReadWord : Prop :=
  ∀ (s : State) (off : Nat) (r : RegRow), s.wf = true → portServes s off → off % 4 = 0 → off < 0x8000 → regRow off = some r → off ≠ Reg.PART_LOG_WORD 0 →
    ∃ t, exec (.registerRead off 4) s = .next t
      ∧ t.out = .readData 4 (BitVec.ofNat 64 (hostView s off)) :: s.out
      ∧ reg t off = Nat.land (reg s off) (0xFFFFFFFF - Nat.land r.rc (hostView s off))
      ∧ (∀ o, o ≠ off → reg t o = reg s o)
      ∧ t = { s with live := t.live, out := t.out }

/-- The other forms of a read. -/
def Obligations.RegisterReadForms : Prop :=
  ∀ (s : State) (off : Nat),
    (portServes s off → off % 4 = 0 → off ≠ Reg.PART_LOG_WORD 0 → exec (.registerRead off 4) s
      = .next (settle (emit (.readData 4 (BitVec.ofNat 64 (read32 s off))) (accessErr false (!(mapped off)) off 6 false (clearRc off (read32 s off) s)))))
    ∧ (portServes s off → aligned off 8 = true → off ≠ Reg.PART_LOG_WORD 0 → exec (.registerRead off 8) s
      = .next (settle (emit (.readData 8 (BitVec.ofNat 64 (read32 s off + read32 s (off + 4) * 2 ^ 32)))
          (accessErr false (!(mapped off) || !(mapped (off + 4))) (if mapped off && !(mapped (off + 4)) then off + 4 else off) 6 false
            (clearRc (off + 4) (read32 s (off + 4)) (clearRc off (read32 s off) s))))))
    ∧ (∀ size, size < 4 → portServes s off → aligned off size = true → exec (.registerRead off size) s
      = .next (settle (emit (.readData size (BitVec.ofNat 64 (read32 s off / 2 ^ (8 * (off % 4)) % 2 ^ (8 * size))))
          (accessErr true (!(mapped off)) off (size - 1) false s))))
    ∧ (∀ size, portServes s off → aligned off size = false → exec (.registerRead off size) s
      = .next (settle (emit (.readData size (BitVec.ofNat 64 (2 ^ (8 * size) - 1))) (accessErr true (!(mapped off)) off 4 false s))))
    ∧ (∀ size, ctlUp s = true → pwrState s = 2 → aonServed off = false → exec (.registerRead off size) s
      = .next (settle (emit (.readData size (BitVec.ofNat 64 (2 ^ (8 * size) - 1))) s)))
    ∧ (∀ size, ctlUp s = false → exec (.registerRead off size) s = .next (settle s))

/-- A 32-bit write by the access codes of the fields. -/
def Obligations.RegisterWriteWord : Prop :=
  ∀ (s : State) (off : Nat) (v : W64) (r : RegRow), s.wf = true → portTakes s off → off % 4 = 0 → off < 0x8000 → regRow off = some r →
    writeActs off = false → ignores off = false → v.toNat < 2 ^ 32 →
    ∃ t, exec (.registerWrite off 4 v) s = .next t
      ∧ reg t off = Nat.lor (Nat.land (reg s off) (0xFFFFFFFF - r.rw)) (Nat.land v.toNat r.rw)
      ∧ (∀ o, o ≠ off → reg t o = reg s o)
      ∧ stg t off = Nat.lor (Nat.land (stg s off) (0xFFFFFFFF - r.rws)) (Nat.land v.toNat r.rws)
      ∧ (∀ o, o ≠ off → stg t o = stg s o)
      ∧ t.cfgBusy = (s.cfgBusy || decide (r.rws ≠ 0))
      ∧ t = { s with live := t.live, staged := t.staged, cfgBusy := t.cfgBusy, power := t.power }
      ∧ t.power = { s.power with vofsSet := s.power.vofsSet || decide (off = Reg.REL_SND_VOFS ∧ r.rws ≠ 0) }

/-- The forms of a write. -/
def Obligations.RegisterWriteForms : Prop :=
  ∀ (s : State) (off : Nat) (v : W64),
    (portTakes s off → off % 4 = 0 → exec (.registerWrite off 4 v) s
      = .next (settle (accessErr false (!(mapped off)) off 7 false (write32 off 0xFFFFFFFF (v.toNat % 2 ^ 32) s))))
    ∧ (portTakes s off → aligned off 8 = true → exec (.registerWrite off 8 v) s
      = .next (settle (accessErr false (!(mapped off) || !(mapped (off + 4))) (if mapped off && !(mapped (off + 4)) then off + 4 else off) 7 false
          (write32 (off + 4) 0xFFFFFFFF (v.toNat / 2 ^ 32 % 2 ^ 32) (write32 off 0xFFFFFFFF (v.toNat % 2 ^ 32) s)))))
    ∧ (∀ size, size < 4 → portTakes s off → aligned off size = true → exec (.registerWrite off size v) s
      = .next (settle (accessErr true (!(mapped off)) off (size + 1) false s)))
    ∧ (∀ size, portTakes s off → aligned off size = false → exec (.registerWrite off size v) s
      = .next (settle (accessErr true (!(mapped off)) off 5 false s)))
    ∧ (∀ size, ¬ portTakes s off → exec (.registerWrite off size v) s = .next (settle s))

/-- Rows that are one register access each. -/
def Obligations.NamedAccessesAreRegisterAccesses : Prop :=
  ∀ (s : State) (d : W32),
    exec (.logCtlFlush d) s = exec (.registerWrite Reg.PART_LOG_CTL 4 (d.setWidth 64)) s
    ∧ exec (.clampClr d) s = exec (.registerWrite Reg.COMB_CNT_CLR 4 (d.setWidth 64)) s
    ∧ exec (.satClr d) s = exec (.registerWrite Reg.COMB_CNT_CLR 4 (d.setWidth 64)) s
    ∧ exec (.tdcClr d) s = exec (.registerWrite Reg.PART_DET_CTL 4 (d.setWidth 64)) s
    ∧ exec (.acctSelWrite d) s = exec (.registerWrite Reg.PART_ACCT_SEL 4 (d.setWidth 64)) s
    ∧ exec (.capSwWrite d) s = exec (.registerWrite Reg.PART_CAP_SW_HI 4 (d.setWidth 64)) s
    ∧ exec (.bootGo d) s = exec (.registerWrite Reg.REL_BOOT_CTL 4 (d.setWidth 64)) s
    ∧ (pwrState s ≠ 2 → exec (.mbPop d) s = exec (.registerWrite Reg.KEEP_MB_POP 4 (d.setWidth 64)) s)
    ∧ (pwrState s ≠ 2 → exec (.mbDoorbell d) s = exec (.registerWrite Reg.KEEP_MB_DOORBELL 4 (d.setWidth 64)) s)
    ∧ exec (.logWord0Read false) s = exec (.registerRead (Reg.PART_LOG_WORD 0) 4) s
    ∧ exec (.logWord0Read true) s = exec (.registerRead (Reg.PART_LOG_WORD 0) 8) s

/-- The clears of R71's two counts. -/
def Obligations.CountsClear : Prop :=
  ∀ (s : State) (d : W32) (c : Instr), portTakes s Reg.COMB_CNT_CLR → (c = .clampClr d ∨ c = .satClr d) →
    exec c s = .next (settle
      (let u := if d.getLsbD 0 then setReg Reg.COMB_CLAMP_CNT_HI 0 (setReg Reg.COMB_CLAMP_CNT_LO 0 s) else s
       if d.getLsbD 1 then setReg Reg.COMB_SAT_CNT 0 u else u))

/-- A read of LOG_WORD0 takes a word. -/
def Obligations.LogReadTakesWord : Prop :=
  ∀ s : State, ctlUp s = true → pwrState s ≠ 2 →
    (∃ t, exec (.logWord0Read false) s = .next t ∧ t.log = (logTake s).log
      ∧ t.out = .readData 4 (BitVec.ofNat 64 (latchWord (logTake s) 0)) :: s.out)
    ∧ (∃ t, exec (.logWord0Read true) s = .next t ∧ t.log = (logTake s).log
      ∧ t.out = .readData 8 (BitVec.ofNat 64 (latchWord (logTake s) 0 + latchWord (logTake s) 1 * 2 ^ 32)) :: s.out)
    ∧ (s.log.pkts = [] → (logTake s).log = { s.log with latch := 0 })
    ∧ (refilling s = true → (logTake s).log = { s.log with latch := 0 })
    ∧ (∀ p rest, refilling s = false → s.log.pkts = p :: rest → p.spilled = false →
        (logTake s).log = { s.log with
          latch := fifoWord p s.log.lossMark, lossMark := false, takenAt := some s.clock
          pkts := if (p.words.drop 7).isEmpty then rest
            else { words := p.words.drop 7, wseq := (p.wseq + 1) % 2 ^ 16, spilled := false } :: rest })

/-- Four writes that start something. -/
def Obligations.WritesThatAct : Prop :=
  ∀ (s : State) (d : W32),
    (portTakes s Reg.PART_DET_CTL → exec (.tdcClr d) s = .next (settle
      (let u := stageBits Reg.PART_DET_CTL 0x1FFF d.toNat s
       let v := { u with cap := { u.cap with tdcAt := (withIdx 0 u.cap.tdcAt).map (fun e => e.2 - (reg u (Reg.PART_TDC_SRC e.1) : Int)) } }
       if d.getLsbD 13 then ([Reg.PART_TDC_LO, Reg.PART_TDC_HI] ++ (List.range 6).map Reg.PART_TDC_SRC).foldl (fun x o => setReg o 0 x) v else u)))
    ∧ (portTakes s Reg.PART_ACCT_SEL → exec (.acctSelWrite d) s = .next (settle
      (raiseBit Reg.PART_ACCT_SEL 31 (acctRead <| setReg Reg.PART_ACCT_SEL
        (Nat.lor (Nat.land (reg s Reg.PART_ACCT_SEL) (0xFFFFFFFF - 0x1FFF)) (Nat.land d.toNat 0x1FFF)) s))))
    ∧ (portTakes s Reg.PART_CAP_SW_HI → exec (.capSwWrite d) s = .next (settle
      (capSw (BitVec.ofNat 32 (reg (writeRw Reg.PART_CAP_SW_HI 0xFFFFFFFF d.toNat s) Reg.PART_CAP_SW_HI)) (writeRw Reg.PART_CAP_SW_HI 0xFFFFFFFF d.toNat s))))
    ∧ (portTakes s Reg.PART_LOG_CTL → exec (.logCtlFlush d) s = .next (settle
      (let u := setReg Reg.PART_LOG_CTL (Nat.lor (Nat.land (reg s Reg.PART_LOG_CTL) (0xFFFFFFFF - 0xF)) (Nat.land d.toNat 0xF)) s
       if d.getLsbD 4 then raiseBit Reg.PART_LOG_STAT 2 u else u)))

/-- The end of a copy of an accounting entry. -/
def Obligations.AcctCopyShows : Prop :=
  ∀ s : State, ctlUp s = true → pwrState s < 2 →
    (flag s Reg.PART_ACCT_SEL 31 = true → exec .acctCopyDone s = .next (settle (dropBit Reg.PART_ACCT_SEL 31
      { s with acct := BitVec.ofNat 256 (if s.part.acctBase = 0 then 0 else rdLe s (s.part.acctBase + 32 * fld s Reg.PART_ACCT_SEL 12 0) 32) })))
    ∧ (flag s Reg.PART_ACCT_SEL 31 = false → exec .acctCopyDone s = .next (settle s))

/-- The flush takes effect. -/
def Obligations.LogFlushTakesEffect : Prop :=
  ∀ s : State, s.wf = true → s.powered = true → s.power.clkStopped = false → pwrState s < 2 →
    (flag s Reg.PART_LOG_STAT 2 = true → pendOf s .flush = false →
      ∃ t, exec .logFlushBoundary s = .next t ∧ t.log.pkts = [] ∧ t.log.latch = 0 ∧ t.replyq = s.replyq ++ s.log.flushReplies ∧ t.log.flushReplies = []
        ∧ flag t Reg.PART_LOG_STAT 2 = false ∧ reg t Reg.PART_LOG_LOST_PKT = reg s Reg.PART_LOG_LOST_PKT
        ∧ reg t Reg.PART_LOG_LOST_WORD = reg s Reg.PART_LOG_LOST_WORD
        ∧ t = { s with live := t.live, log := t.log, replyq := t.replyq })
    ∧ (flag s Reg.PART_LOG_STAT 2 = false → exec .logFlushBoundary s = .next (settle s))

/-- The external image. -/
def Obligations.ExternalImage : Prop :=
  ∀ (s : State) (d : W32), inPhase s 2 = true → s.power.fwVer = none →
    (∀ c, d.getLsbD 0 = true → extImage s = some c → exec (.bootGo d) s
      = .next (settle (setReg Reg.KEEP_FW_VER (leAt c.2 0 4) (raiseBit Reg.REL_PWR_STAT 7 { s with power := { s.power with fwVer := some (leAt c.2 0 4) } }))))
    ∧ (d.getLsbD 0 = true → extImage s = none → exec (.bootGo d) s = .next (settle (raiseBit Reg.REL_BOOT_CTL 1 s)))
    ∧ (d.getLsbD 0 = false → exec (.bootGo d) s = .next (settle s))
    ∧ exec .extImageTimeout s = .next (settle { raiseBit Reg.REL_PWR_STAT 5 s with alarm := true })

/-- Opcodes that answer and change little. -/
def Obligations.HostQueriesAnswer : Prop :=
  ∀ (p : HostPkt) (s : State), hostPasses p s →
    (hostReaches 0x00 p s → exec (.nop p) s = .next (settle (answer (mkReply p 0 []) (hostSeen p s))))
    ∧ (hostReaches 0x01 p s → exec (.getInfo p) s = .next (settle (answer (mkReply p 0
        [reg (hostSeen p s) Reg.KEEP_FW_VER, ownDa (hostSeen p s) + partId (hostSeen p s) * 2 ^ 20 + b2n (assigned (hostSeen p s)) * 2 ^ 30,
         reg (hostSeen p s) Reg.CORE_DEVID_LO, reg (hostSeen p s) Reg.CORE_DEVID_HI]) (hostSeen p s))))
    ∧ (∀ i, hostReaches 0x22 p s → stepInfo (hostSeen p s) (hPar p 0 4) = some i →
        exec (.queryStep p) s = .next (settle (answer (mkReply p 0 [i.1, i.2.1, i.2.2]) (hostSeen p s))))
    ∧ (hostReaches 0x70 p s → exec (.logFlush p) s = .next (settle (raiseBit Reg.PART_LOG_STAT 2 { hostSeen p s with
        log := { (hostSeen p s).log with flushReplies := (hostSeen p s).log.flushReplies ++ [mkReply p 0 []] } })))
    ∧ (hostReaches 0x90 p s → bit (hPar p 4 1) 0 = false → exec (.cfgCommitRef p) s = .next (settle (retryHold
        (let u := setReg Reg.CORE_CFG_REF (hPar p 0 4) (hostSeen p s)
         answer (mkReply p 0 [reg u Reg.CORE_CFG_REF, reg u Reg.CORE_CFG_CRC]) u))))
    ∧ (hostReaches 0x90 p s → bit (hPar p 4 1) 0 = true → exec (.cfgCommitSelf p) s = .next (settle (retryHold
        (let u := setReg Reg.CORE_CFG_REF (cfgCrc (hostSeen p s)) { setReg Reg.CORE_CFG_CRC (cfgCrc (hostSeen p s)) (hostSeen p s) with cfgBusy := false }
         answer (mkReply p 0 [reg u Reg.CORE_CFG_REF, reg u Reg.CORE_CFG_CRC]) u))))

/-- Opcodes on the Keeper's own allocations, and READ_LL. -/
def Obligations.HostAllocationsAct : Prop :=
  ∀ (p : HostPkt) (s : State), hostPasses p s →
    (hostReaches 0x81 p s → exec (.allocCounters p) s = .next (settle (answer (mkReply p 0 []) { hostSeen p s with
        cntAlloc := ((List.range (bits (hPar p 2 2) 10 0)).map (fun i => bits (hPar p 0 2) 9 0 + i)).foldl (fun a n => insNat n a) (hostSeen p s).cntAlloc })))
    ∧ (hostReaches 0x82 p s → exec (.freeCounters p) s = .next (settle (answer (mkReply p 0 []) { hostSeen p s with
        cntAlloc := (hostSeen p s).cntAlloc.filter (fun n => decide (n < bits (hPar p 0 2) 9 0) || decide (bits (hPar p 0 2) 9 0 + bits (hPar p 2 2) 10 0 ≤ n)) })))
    ∧ (∀ l u, hostReaches 0x83 p s → allocBufs (hPar p 1 1) (bits (hPar p 2 2) 11 0) (some (bits (hPar p 0 1) 5 0)) (hostSeen p s) = (0, l, u) →
        exec (.allocCpool p) s = .next (settle (answer (mkReply p 0 [])
          (let v := keeperWrite (wrBytes (bits (hPar p 8 8) 47 0) (l.flatMap (leBytes 8))) u
           let c : CPool := { id := bits (hPar p 0 1) 5 0, credits := bits (hPar p 2 2) 11 0, size := bits (hPar p 2 2) 11 0, cls := hPar p 1 1, bufs := l }
           { v with cpools := insertBy (fun a b => decide (a.id ≤ b.id)) c v.cpools }))))
    ∧ (∀ k l u, hostReaches 0x83 p s → allocBufs (hPar p 1 1) (bits (hPar p 2 2) 11 0) (some (bits (hPar p 0 1) 5 0)) (hostSeen p s) = (k + 1, l, u) →
        exec (.allocCpool p) s = .next (settle (reject p { code := 7, off := 34 } u)))
    ∧ (∀ c, hostReaches 0x84 p s → cpoolAt (hostSeen p s) (bits (hPar p 0 1) 5 0) = some c →
        exec (.freeCpool p) s = .next (settle (answer (mkReply p 0 [])
          (let u := { hostSeen p s with cpools := (hostSeen p s).cpools.filter (fun x => x.id != bits (hPar p 0 1) 5 0) }
           if pubInWindow u (bits (hPar p 0 1) 5 0) then u else freeBufs c.bufs (unmap (bits (hPar p 0 1) 5 0) u)))))
    ∧ (∀ e, hostReaches 0x30 p s → rllLine (hostSeen p s) p = some e →
        exec (.readLl p) s = .next (settle (answer (mkReply p 0 []) (keeperWrite (wrBytes (bits (hPar p 8 8) 47 0) (leBytes 32 e.toNat)) (hostSeen p s)))))

/-- Steps are accepted and killed. Which of its own counters the Keeper takes for a RUN_STEP is the model's choice (log entries 32 and 20). -/
def Obligations.HostStepsAccepted : Prop :=
  ∀ (p : HostPkt) (s : State), hostPasses p s →
    let u := hostSeen p s
    let accept (x : Step) : State :=
      let v := { answer { mkReply p 0 [x.seq.toNat] with final := false } u with
        steps := (answer { mkReply p 0 [x.seq.toNat] with final := false } u).steps ++ [x]
        nextSeq := (answer { mkReply p 0 [x.seq.toNat] with final := false } u).nextSeq + 1 }
      if pwrState v = 1 ∧ flag v Reg.REL_PWR_CFG 1 then wakeUp { bit := 3, reason := 0, link := 0, full := none, reply := none } v else v
    let n := (u.steps.filter (fun x => x.live && x.phase != .joined)).length
    (hostReaches 0x20 p s → exec (.runStep p) s = .next (settle (accept (newStep u p (hPar p 0 4) (bits (hPar p 4 1) 3 0) (hPar p 5 1)
        (bits (hPar p 6 2) 14 0) (bit (hPar p 4 1) 4) (keeperRange u.nextSeq) 63 []))))
    ∧ (hostReaches 0x80 p s → exec (.submitList p) s = .next (settle (accept (newStep u p (hPar p 16 4) (bits (hPar p 20 1) 3 0) (hPar p 21 1) 0 false
        (subFirst p) (subNum p) (listAt u (subBase p) (subNrec p))))))
    ∧ (hostReaches 0x21 p s → bit (hPar p 0 1) 0 = false → exec (.killStepRerun p) s
        = .next (settle (raiseKill .killStep none (answer (mkReply p 0 [n]) u))))
    ∧ (hostReaches 0x21 p s → bit (hPar p 0 1) 0 = true → exec (.killStepDrop p) s
        = .next (settle (raiseKill .killDrop none (answer (mkReply p 0 [n]) u))))

/-- Models and partitions. -/
def Obligations.HostModelsAndPartitions : Prop :=
  ∀ (p : HostPkt) (s : State), hostPasses p s →
    let u := hostSeen p s
    let m := bits (hPar p 0 1) 3 0
    let h := hdrMem u (bits (hPar p 8 8) 47 0)
    (hostReaches 0x10 p s → exec (.loadModel p) s = .next (settle (answer (mkReply p 0 [])
      (let v := (hdrLines u h).foldl (fun s l => putNext l s) u
       raiseBit Reg.PART_MODEL (16 + m) { v with
        imgFix := v.imgFix.filter (fun e => e.1 != hdrAt h 8 6), models := v.models ++ [{ id := m, hdr := h, resident := false, leaving := false }] }))))
    ∧ (hostReaches 0x11 p s → exec (.unloadModel p) s = .next (settle (answer (mkReply p 0 [])
      (let v := dropBit Reg.PART_MODEL m { u with
          models := u.models.map (fun x => if x.id = m then { x with resident := false, leaving := true, late := prep u } else x)
          ll := if prep u then u.ll else u.ll.filter (fun x => !(x.next && lBits x.data 0 27 24 == m)) }
       if activeModel u == some m then raiseBit Reg.PART_ACTIVE 4 { v with ll := v.ll.map (fun x => { x with pinned := false }) } else v))))
    ∧ (hostReaches 0x12 p s → exec (.switchModel p) s = .next (settle { u with
        switchq := u.switchq ++ [{ model := m, behind := u.nextSeq, reply := mkReply p 0 [] }] }))
    ∧ (hostReaches 0x40 p s → bits (hPar p 2 1) 1 0 = 1 → exec (.partConfigLeave p) s
        = .next (settle (retryHold (answer (mkReply p 0 []) (leavePart u)))))
    ∧ (hostReaches 0x40 p s → bits (hPar p 2 1) 1 0 ≠ 1 → exec (.partConfigSet p) s = .next (settle (retryHold (answer (mkReply p 0 [])
        (let b := rdN u (bits (hPar p 8 8) 47 0) 512
         let ms := mapMembers (rdN u (bits (hPar p 16 8) 47 0) 16384)
         let v := if assigned u && bits (hPar p 0 2) 9 0 == partId u then setPart p b ms u else joinPart p b ms u
         commitSelf (if bit (hPar p 3 1) 2 then stagePools b v else v))))))

/-- The long operations. -/
def Obligations.LongOperations : Prop :=
  ∀ (p : HostPkt) (s : State),
    (hostPasses p s → hostReaches 0x50 p s → exec (.storeNvm p) s = .next (settle { hostSeen p s with
        longOp := .store (hPar p 0 1) (storeCopies (hostSeen p s) (hPar p 0 1)) (mkReply p 0 []) }))
    ∧ (hostPasses p s → hostReaches 0x51 p s → exec (.selfTest p) s = .next (settle { hostSeen p s with longOp := .selfTest (hPar p 0 1) (mkReply p 0 []) }))
    ∧ (∀ tiles lanes words units r, keeperUp s = true → s.longOp = .selfTest units r → exec (.selfTestDone tiles lanes words) s = .next (settle
        (let t := tested units (fld s Reg.SCORE_TILE_MAP 8 0) (fld s Reg.SCORE_TILE_MAP 12 9) tiles.toNat
         let l := tested units (fld s Reg.SORT_LANE_MAP 4 0) (fld s Reg.SORT_LANE_MAP 7 5) lanes.toNat
         queueReply { r with r0 := BitVec.ofNat 32 (t + l * 2 ^ 16), r1 := if bit units 1 then words else 0 }
           (((List.range 5).filter (bit l)).foldl (fun s i => laneFailed i s) (((List.range 9).filter (bit t)).foldl (fun s i => tileFailed i s)
             { s with longOp := .none })))))
    ∧ (∀ failed regions copies r, keeperUp s = true → s.longOp = .store regions copies r → exec (.storeNvmDone failed) s = .next (settle
        (let bad := copies.any (fun c => failed.getLsbD c.1)
         let v := copies.foldl (fun s c => storeOne c.1 c.2 (failed.getLsbD c.1) s) s
         let gen (i : Nat) : W32 := if bit regions i then BitVec.ofNat 32 (match copies.find? (fun c => c.1 == i) with | some c => leAt c.2 4 4 | none => 0) else 0
         queueReply (if bad then { r with status := 5 } else { r with r0 := gen 0, r1 := gen 1, r2 := gen 2 })
           (imageStatus <| nvmStatus (raiseIf bad Reg.REL_NVM_STAT 7 { v with longOp := .none })))))
    ∧ (s.longOp = .none → (∀ f, exec (.storeNvmDone f) s = .next (settle s)) ∧ ∀ tiles lanes words, exec (.selfTestDone tiles lanes words) s = .next (settle s))

/-- Power states by the host and their completion. The answer to a RESUME held on the way to DARK is the model's choice (log entry 86). -/
def Obligations.PowerTransitions : Prop :=
  ∀ (p : HostPkt) (s : State),
    (hostPasses p s → hostReaches 0x52 p s → bit (hPar p 0 1) 0 = false → exec (.suspendIdle p) s
        = .next (settle (setFld Reg.REL_PWR_STAT 1 0 1 (answer (mkReply p 0 []) (hostSeen p s)))))
    ∧ (hostPasses p s → hostReaches 0x52 p s → bit (hPar p 0 1) 0 = true → exec (.suspendDark p) s
        = .next (settle (let v := answer (mkReply p 0 []) (hostSeen p s)
                         sendFence (ownDa v) { v with power := { v.power with susp := .fencing } })))
    ∧ (hostPasses p s → hostReaches 0x53 p s → (hostSeen p s).power.susp = .none → exec (.resume p) s
        = .next (settle { recordWake (resumeWake p) (hostSeen p s) with
            power := { (hostSeen p s).power with susp := .leavingIdle (some (mkReply p 0 [])) } }))
    ∧ (∀ r, hostPasses p s → hostReaches 0x53 p s → (hostSeen p s).power.susp = .leavingIdle r → exec (.resume p) s
        = .next (settle { recordWake (resumeWake p) (hostSeen p s) with
            power := { (hostSeen p s).power with heldWakes := (hostSeen p s).power.heldWakes ++ [resumeWake p] } }))
    ∧ (hostPasses p s → hostReaches 0x53 p s → ((hostSeen p s).power.susp = .fencing ∨ (hostSeen p s).power.susp = .draining) → exec (.resume p) s
        = .next (settle (wakeUp (resumeWake p) (hostSeen p s))))
    ∧ (∀ r, forwarding s = true → s.power.susp = .leavingIdle r → exec .idleExitDone s = .next (settle
        (((match r with | some r => [r] | none => []) ++ s.power.heldWakes.filterMap Wake.reply).foldl (fun s r => answer r s)
          (setFld Reg.REL_PWR_STAT 1 0 0 { s with power := { s.power with susp := .none, heldWakes := [] } }))))
    ∧ (forwarding s = true → s.power.susp = .fencing → exec .darkDrainTimer s = .next (settle { s with power := { s.power with susp := .draining } }))
    ∧ (forwarding s = true → s.power.susp = .draining → buffersEmpty s = true → exec .darkEnter s = .next (settle (darkWakes s.power.heldWakes
          (setFld Reg.REL_PWR_STAT 1 0 2 { s with mboxPkt := none, taking := none, switchRun := none, power := { s.power with susp := .none, heldWakes := [] } }))))
    ∧ (s.power.susp = .draining → buffersEmpty s = false → exec .darkEnter s = .next (settle s))
    ∧ (s.power.susp = .none → exec .idleExitDone s = .next (settle s) ∧ exec .darkDrainTimer s = .next (settle s) ∧ exec .darkEnter s = .next (settle s))

/-- The record and replay unit's commands. That START clears SW and DONE and that REPLAY STOP without a
divergence answers 0 are the model's readings (log entry 31). -/
def Obligations.CaptureAndReplay : Prop :=
  ∀ (p : HostPkt) (s : State),
    let u := hostSeen p s
    (∀ l v, hostPasses p s → hostReaches 0x60 p s → bit (hPar p 0 1) 0 = false → allocBufs 2 (hPar p 2 2) none u = (0, l, v) →
      exec (.captureStart p) s = .next (settle
        (let w := { v with cap := { v.cap with digest := bit (hPar p 1 1) 0, bufs := l, ringBase := bits (hPar p 8 8) 47 0, ringSize := hPar p 4 4 * 0x10000, staged := [], sent := 0, reserved := 0, keepUsed := 0, arr := [], work := [], waiting := [] } }
         let x := setReg Reg.PART_CAP_SW_LO 0 (setReg Reg.PART_CAP_SW_HI 0 (setReg Reg.PART_CAP_DONE_LO 0 (setReg Reg.PART_CAP_DONE_HI 0 w)))
         setFld Reg.PART_CAP_STAT 1 0 3 { x with cap := { x.cap with start := some (mkReply p 0 []), sw := 0 } })))
    ∧ (hostPasses p s → hostReaches 0x60 p s → bit (hPar p 0 1) 0 = true →
        exec (.captureStop p) s = .next (settle { u with cap := { u.cap with stop := some (mkReply p 0 []) } }))
    ∧ (∀ l v, hostPasses p s → hostReaches 0x61 p s → bit (hPar p 0 1) 0 = false → allocBufs 2 (hPar p 2 2) none u = (0, l, v) →
      exec (.replayStart p) s = .next (settle
        (let w := { v with cap := { v.cap with digest := bit (hPar p 1 1) 0, bufs := l, ringBase := bits (hPar p 8 8) 47 0, ringSize := hPar p 4 4 * 0x10000, staged := [], sent := 0, reserved := 0, keepUsed := 0, arr := [], work := [], waiting := [] } }
         repStart (answer (mkReply p 0 []) w))))
    ∧ (∀ k l v, hostPasses p s → bit (hPar p 0 1) 0 = false → allocBufs 2 (hPar p 2 2) none u = (k + 1, l, v) →
        (hostReaches 0x60 p s → exec (.captureStart p) s = .next (settle (reject p { code := 7, off := 34 } v)))
        ∧ (hostReaches 0x61 p s → exec (.replayStart p) s = .next (settle (reject p { code := 7, off := 34 } v))))
    ∧ (hostPasses p s → hostReaches 0x61 p s → bit (hPar p 0 1) 0 = true → exec (.replayStop p) s = .next (settle
        (answer (mkReply p 0 [match u.cap.divSeq with | some q => q.toNat | none => 0]) (repStop u))))
    ∧ (keeperUp s = true → exec .captureStartApply s = .next (settle (capStart s)) ∧ exec .captureStopApply s = .next (settle (capStop s))
        ∧ exec .captureRingCopy s = .next (settle (ringCopy s)))

/-- R305 for every host row, where the header decides. -/
def Obligations.RejectedPacketChangesNothingElse : Prop :=
  ∀ (i : Instr) (p : HostPkt) (op : Nat) (s : State) (k : Nat × Nat × Nat), s.wf = true → hostRowOf i = some (p, op, true) → hostReaches op p s →
    capMode s ≠ 1 → capMode s ≠ 2 → firstBad (hdrChecks p ++ partChecks (hostSeen p s) p) = some k →
    ∃ t, exec i s = .next t
      ∧ t.replies ++ t.replyq = s.replies ++ s.replyq ++ [mkReply p k.1 [0xFFFFFFFF, k.2.1, k.2.2]]
      ∧ reg t Reg.KEEP_REJ_CNT = min (reg s Reg.KEEP_REJ_CNT + 1) 0xFFFFFFFF
      ∧ reg t Reg.KEEP_MB_ACC_CNT = min (reg s Reg.KEEP_MB_ACC_CNT + 1) 0xFFFFFFFF
      ∧ (∀ o, o ∉ [Reg.KEEP_REJ_CNT, Reg.KEEP_MB_ACC_CNT, Reg.PART_LOG_STAT, Reg.PART_LOG_LOST_PKT, Reg.PART_LOG_LOST_WORD] → reg t o = reg s o)
      ∧ t = { s with live := t.live, log := t.log, replies := t.replies, replyq := t.replyq }

/-- The other ways a packet is turned away. That a row with the mailbox full, or while a long operation runs, changes nothing is the model's choice (log
entry 80): the doorbell that R297 and R307 count as dropped is MB_DOORBELL's. -/
def Obligations.HostPacketTurnedAway : Prop :=
  ∀ (i : Instr) (p : HostPkt) (op : Nat) (b : Bool) (s : State), hostRowOf i = some (p, op, b) →
    (∀ j, b = true → hostReaches op p s → firstBad (hdrChecks p ++ partChecks (hostSeen p s) p) = none →
        takeReads p (hostSeen p s) = [] → judge (hostSeen p s) (hostVerdict (hostSeen p s) p) = some j → exec i s = .next (settle (reject p j (hostSeen p s))))
    ∧ (b = true → hostReaches op p s → firstBad (hdrChecks p ++ partChecks (hostSeen p s) p) = none → takeReads p (hostSeen p s) ≠ [] →
        exec i s = .next (settle (memRequests takeEng false (takeReads p (hostSeen p s)) { hostSeen p s with taking := some { pkt := p } })))
    ∧ (b = true → hOp p = op → ctlUp s = true → bellClosed s = true → exec i s = .next (settle (closedBell p s)))
    ∧ ((b = false ∨ hOp p ≠ op ∨ ctlUp s = false ∨ (bellClosed s = false ∧ (s.mboxPkt ≠ none ∨ mayTake p s = false))) → exec i s = .next (settle s))

/-- R306. -/
def Obligations.NotReadyDoorbellAnswered : Prop :=
  ∀ (s : State) (d : W32), ctlUp s = true → ready s = false → pwrState s ≠ 2 → d.getLsbD 0 = true →
    ∃ t r, exec (.mbDoorbell d) s = .next t ∧ t.replies ++ t.replyq = s.replies ++ s.replyq ++ [r]
      ∧ r.status = 2 ∧ r.seq = BitVec.ofNat 16 (hSeq (cmdPkt s)) ∧ r.part = BitVec.ofNat 10 (hPart (cmdPkt s)) ∧ r.opcode = BitVec.ofNat 8 (hOp (cmdPkt s))

/-- The mailbox's own commands. That every read not yet back is late at a KEEPER_READ_TIMEOUT is the model's choice (log entry 79). -/
def Obligations.MailboxWorks : Prop :=
  ∀ (s : State) (d : W32) (n : Nat),
    (ctlUp s = true → n < 64 → s.mboxPkt = none → exec (.mbCmdWrite n d) s = .next (settle { s with mboxCmd := cellSet (fun _ => 0) s.mboxCmd n d }))
    ∧ (∀ p, ctlUp s = true → n < 64 → s.mboxPkt = some p → exec (.mbCmdWrite n d) s = .next (settle (raiseBit Reg.KEEP_MB_STAT 8 s)))
    ∧ (ctlUp s = true → d.getLsbD 0 = true → bellClosed s = false → s.mboxPkt = none → s.longOp = .none →
        exec (.mbDoorbell d) s = .next (settle { s with mboxPkt := some (cmdPkt s) }))
    ∧ (ctlUp s = true → d.getLsbD 0 = true → bellClosed s = false → (s.mboxPkt ≠ none ∨ s.longOp ≠ .none) →
        exec (.mbDoorbell d) s = .next (settle (raiseBit Reg.KEEP_MB_STAT 7 (bump Reg.KEEP_MB_DROP_CNT 1 s))))
    ∧ (ctlUp s = true → d.getLsbD 0 = true → pwrState s ≠ 2 → exec (.mbPop d) s = .next (settle { s with replies := s.replies.drop 1 }))
    ∧ (∀ p, s.mboxPkt = some p → mayTake p s = true → exec .mbTake s = .next (settle (takePkt p { s with mboxPkt := none })))
    ∧ (∀ k v, keeperUp s = true → s.taking = some k → v = dropReads takeEng { s with taking := some { k with
          bad := k.bad ++ ((s.memTags.filter (fun t => t.busy && t.eng == takeEng)).map (fun t => (t.addr, t.n, true))
            ++ (s.memb.mem.filter (fun m => !m.write && m.eng == takeEng)).map (fun m => (m.addr, m.n, true))) } } →
        (∀ j, judge v (hostVerdict v k.pkt) = some j → exec .keeperReadTimeout s = .next (settle (reject k.pkt j { v with taking := none })))
        ∧ (judge v (hostVerdict v k.pkt) = none → hOp k.pkt ≠ 0x90 → hOp k.pkt ≠ 0x40 →
            exec .keeperReadTimeout s = .next (settle (hostDo k.pkt { v with taking := none })))
        ∧ (judge v (hostVerdict v k.pkt) = none → (hOp k.pkt = 0x90 ∨ hOp k.pkt = 0x40) →
            exec .keeperReadTimeout s = .next (settle (retryHold (hostDo k.pkt { v with taking := none }))))
        ∧ (∀ r, firstBad (hostVerdict v k.pkt).pre = none → (hostVerdict v k.pkt).ranges.head? = some r → poisonIn s r.1 r.2 = none →
            k.bad = [] → (∃ t ∈ s.memTags, t.busy = true ∧ t.eng = takeEng ∧ overlap t.addr t.n r.1 r.2 = true) →
            ∃ j, judge v (hostVerdict v k.pkt) = some j ∧ j.code = 0xA ∧ j.off = (hostVerdict v k.pkt).read.getD 0))
    ∧ (s.taking = none → exec .keeperReadTimeout s = .next (settle s))
    ∧ (s.powered = true → s.power.clkStopped = false → pwrState s = 2 → d.getLsbD 0 = true → hOp (cmdPkt s) = 0x53 → firstBad (hdrChecks (cmdPkt s)) = none →
        exec (.mbDoorbell d) s = .next (settle (answer (mkReply (cmdPkt s) 2 [1]) (wakeReset { resumeWake (cmdPkt s) with reply := none } s))))
    ∧ (s.powered = true → s.power.clkStopped = false → pwrState s = 2 → d.getLsbD 0 = true → (hOp (cmdPkt s) ≠ 0x53 ∨ firstBad (hdrChecks (cmdPkt s)) ≠ none) →
        exec (.mbDoorbell d) s = .next (settle (answer (mkReply (cmdPkt s) 2 [0]) s)))
    ∧ (∀ r t, s.replyq = r :: t → s.replies.length < 16 → (keeperUp s = true ∨ (ctlUp s = true ∧ bellClosed s = true)) →
        exec .replyFifoEnter s = .next (settle { s with replies := s.replies ++ [r], replyq := t }))

/-- The Keeper enqueues and places. What it reads of its own region is the model's choice (log entry 96). -/
def Obligations.StepsAreEnqueued : Prop :=
  ∀ (s : State) (sp : BitVec 2) (x : Step),
    let due : Prop := oldestAccepted s = some x ∧ mayEnqueue s x = true ∧ flag s Reg.REL_STAT 8 = false
    let clean : Prop := x.opcode = 0x80 → ownPoison s = none
    let first := prepareStep x (zeroCounters x (capStart s))
    (∀ v y, due → clean → first = (true, v) → cfgMismatch v = false → fenced (stepBoundary sp v).2 = false →
      buildStep x.seq (modStep x.seq (fun z => { z with bound := (stepBoundary sp v).2.live }) (stepBoundary sp v).2) = (true, y) →
        ((stepBoundary sp v).1 = false → exec (.stepEnqueue sp) s
          = .next (settle (startStep x.seq (match stepAt y x.seq with | some z => startTile z y | none => y))))
        ∧ ((stepBoundary sp v).1 = true → exec (.stepEnqueue sp) s = .next (settle (raiseKill .badIngress (some x.seq) (modStep x.seq
            (fun z => { z with phase := .enqueued, kgen := BitVec.ofNat 4 (kgen y), epoch := curEpoch y, held := [] }) y)))))
    ∧ (∀ v, due → clean → first = (true, v) → cfgMismatch v = true → exec (.stepEnqueue sp) s = .next (settle (cfgHold { s with spareHeld := sp })))
    ∧ (∀ v, due → clean → first = (false, v) → exec (.stepEnqueue sp) s = .next (settle (roomsFail x s)))
    ∧ (∀ v y, due → clean → first = (true, v) → cfgMismatch v = false → fenced (stepBoundary sp v).2 = false →
      buildStep x.seq (modStep x.seq (fun z => { z with bound := (stepBoundary sp v).2.live }) (stepBoundary sp v).2) = (false, y) →
        exec (.stepEnqueue sp) s = .next (settle (roomsFail x s)))
    ∧ (due → x.opcode = 0x80 → exec (.stepEnqueue sp) s = .next (settle (ownRead (enqueue sp x) s)))
    ∧ (oldestAccepted s = some x → mayEnqueue s x = false → exec (.stepEnqueue sp) s = .next (settle s))
    ∧ (keeperUp s = true → exec .ringPlaceResume s
        = .next (settle (if s.steps.any (fun z => z.live && !z.held.isEmpty) then ownRead placeAll s else placeAll s)))
    ∧ (keeperUp s = true → s.steps.find? (fun z => z.live && ((planReady s z).isSome || (z.opcode != 0x20 && (pdNext s z).isSome))) = some x →
        (∀ h, planReady s x = some h → exec .pdResolve s
          = .next (settle (ownRead (fun t => pdRun x h (keeperRead [(({ x := x, h := 0, half := h } : KCtx).outList, 64)] t)) s)))
        ∧ (∀ r, planReady s x = none → pdNext s x = some r → exec .pdResolve s
          = .next (settle (ownRead (fun t => pdSubmit x r (keeperRead [(rPdBase r.raw, 64)] t)) s))))
    ∧ (∀ k : State → State, (ownPoison s = none → ownRead k s = k s)
        ∧ (∀ a, ownPoison s = some a → ownRead k s
          = if bit (fresh s).toNat 0 then loseSlice 0x85 22 0 a (ueDetect a 0 noStep (tick s)) else k (tick s)))

/-- Boundaries the Keeper passes or holds. -/
def Obligations.BoundariesApplyOrHold : Prop :=
  ∀ (s : State) (sp : BitVec 2),
    (keeperUp s = true → noSteps s = true → cfgMismatch s = false → exec (.idleStepBoundary sp) s = .next (settle (stepBoundary sp s).2))
    ∧ (keeperUp s = true → noSteps s = true → cfgMismatch s = true → exec (.idleStepBoundary sp) s = .next (settle (cfgHold { s with spareHeld := sp })))
    ∧ (s.powered = true → s.cfgBusy = true → exec .cfgCrcDone s
        = .next (settle (retryHold { setReg Reg.CORE_CFG_CRC (cfgCrc s) s with cfgBusy := false })))
    ∧ (keeperUp s = true → flag s Reg.REL_STAT 8 = true → cfgMismatch s = true → exec .cfgHoldRetry s = .next (settle (cfgHold s)))
    ∧ (keeperUp s = true → flag s Reg.REL_STAT 8 = true → noSteps s = true → cfgMismatch s = false →
        exec .cfgHoldRetry s = .next (settle (stepBoundary s.spareHeld s).2))
    ∧ (∀ x, keeperUp s = true → flag s Reg.REL_STAT 8 = true → cfgMismatch s = false → noSteps s = false → oldestAccepted s = some x →
        exec .cfgHoldRetry s = .next (settle (if mayEnqueue s x then (if x.opcode = 0x80 then ownRead (enqueue s.spareHeld x) s else enqueue s.spareHeld x s) else cfgRelease s)))
    ∧ (flag s Reg.REL_STAT 8 = false → exec .cfgHoldRetry s = .next (settle s))
    ∧ (forwarding s = true → prep s = true → cfgMismatch s = true → exec .cfgFlipTimeout s = .next (settle (loseSlice 0x87 22 (cfgCrc s) 0 s)))

/-- COMMIT. Taking up a bias update that waited for it is the model's choice (log entry 18), and so is what an unreadable entry does (log entry 95). -/
def Obligations.CommitEndsTheStep : Prop :=
  ∀ s : State, keeperUp s = true →
    (∀ x r, commitDue s = some (x, r) → x.kgen.toNat = kgen s →
      exec .commit s = .next (settle
        (let es := pubEntries s r
         let n := rPar r 47 43
         let bad := (List.range n).filterMap (pubPoisoned s r)
         let v := bad.foldl (fun t a => ueDetect a 0 x.seq.toNat t) (if n = 0 then s else keeperRead [(rPtr r 1, 16 * n)] s)
         let a := commitReplicas x (publish x es v)
         let l := commitLoop x a
         let b := commitBufs x es l.1 l.2.1 s.pub l.2.2
         let m := entryMask es
         let d := (List.range 4).foldl (fun t c => emit (.commitTag c (BitVec.ofNat 128 (leNat (commitTag b x m)))) t) b
         heldKills (loopRetry (recovIdle (recovT3 x (bump64 Reg.KEEP_COMMIT_LO 1 (endStep x 0 (capCommit x m 0 d)))))))))
    ∧ (∀ x r, commitDue s = some (x, r) → (∀ i < rPar r 47 43, poisonIn s (rPtr r 1 + 16 * i) 16 = none) →
        pubEntries s r = (List.range (rPar r 47 43)).map (fun i => (rdLe s (rPtr r 1 + 16 * i) 1 % 64, rdLe s (rPtr r 1 + 16 * i + 8) 6)))
    ∧ (∀ x r, commitDue s = some (x, r) → x.kgen.toNat ≠ kgen s → exec .commit s = .next (settle s))
    ∧ (commitDue s = none → exec .commit s = .next (settle s))

/-- Kills, reruns and switches. The read of the Keeper's own images at a rerun is the model's choice (log entry 96), that PART_HOLD and
CFG_HOLD do not hold a rerun its reading (log entry 82). -/
def Obligations.KillRerunSwitch : Prop :=
  ∀ (s : State) (c : KillCause) (read : Option (Addr × Ecc)), keeperUp s = true →
    let q := (s.steps.find? Step.live).map Step.seq
    let dead := s.steps.filter Step.live
    (dead = [] → exec (.stepKill c) s = .next (settle s))
    ∧ (dead ≠ [] → dead.any (fun x => x.phase == .joined) = true → exec (.stepKill c) s = .next (settle { s with heldKill := s.heldKill ++ [(c, q)] }))
    ∧ (dead ≠ [] → dead.any (fun x => x.phase == .joined) = false → exec (.stepKill c) s = .next (settle (joinKillDone
        (dead.foldl (fun t x => match endsOf c q x.seq with | none => t | some k => sendAborts x.seq k t)
          (sendKill ((kgen s + 1) % 16) (applyKill ((kgen s + 1) % 16) (c == .killStep || c == .killDrop) (endsOf c q) s))))))
    ∧ (s.killDone = true → recovering s = false → s.recov.active = false → flag s Reg.XCHG_FAB_DRAIN 0 = false → fld s Reg.REL_TREE 3 0 ≠ 0xF →
        exec .rerun s = .next (settle
          (let abort (x : Step) : Option Nat := (s.aborts.find? (fun a => a.1 == x.seq)).map Prod.snd
           let ended := (s.steps.filter (fun x => x.phase == .killed || (x.phase == .accepted && (abort x).isSome))).foldl (fun t x =>
             match (match x.endCode with | some k => some k | none => abort x) with | some k => endKilled x k t | none => t) s
           let t := { ended with aborts := ended.aborts.filter (fun a => !(seqBefore a.1 ended.nextSeq)) }
           let left := t.steps.filter (fun x => x.phase == .killed)
           if left.isEmpty then recovIdle t else if capHold t || pinsOut t then t else if fenced (newUnits t) then newUnits t else ownRead (reEnqueue left) (newUnits t))))
    ∧ (∀ f m h u, switching s = true → switchDue s = some f → modelHdr u m = some h →
        ((∃ w, f = .packet w ∧ m = w.model ∧ u = { s with switchq := s.switchq.drop 1 }) ∨ (∃ x, f = .step x ∧ m = x.model ∧ u = s)) →
        let v := switchMeets h read (switchOut u)
        (dieReads v (switchRanges h) ≠ [] → exec (.modelSwitch read) s = .next (settle (memRequests switchEng false (dieReads v (switchRanges h)) { v with
            switchRun := some (match f with | .packet w => { model := m, pkt := some w, step := w.behind } | .step x => { model := m, pkt := none, step := x.seq }) })))
        ∧ (∀ h', dieReads v (switchRanges h) = [] → modelHdr v m = some h' →
            (switchBad v [] h' = none → exec (.modelSwitch read) s = .next (settle (retryHold (switchEnd f (switchGood f m h' v)))))
            ∧ (∀ b a, switchBad v [] h' = some (b, a) → exec (.modelSwitch read) s = .next (settle (switchFail f b a v)))))
    ∧ (switching s = false → exec (.modelSwitch read) s = .next (settle s))

/-- The engine rows that need nothing more. -/
def Obligations.EngineRowsRun : Prop :=
  ∀ (i : Instr) (e : Nat) (be : Bool) (p : Record → Bool) (mk : State → RingRec → Job) (s : State) (r : RingRec),
    jobRowOf i = some (e, be, p, mk) → p r.raw = true → jobRuns s e be r (mk s r) → exec i s = .next (settle (jobEnds s e r (mk s r)))

/-- Engine rows with a condition of their own. -/
def Obligations.EngineRowsWithConditionsRun : Prop :=
  ∀ (s : State) (be : Bool) (r : RingRec),
    let held (q : Bool × Nat × Nat × List Nat) : Prop := llMissing s q.1 q.2.1 q.2.2.1 q.2.2.2 = []
    (rOp r.raw = 0x01 → jobRuns s 0 be r (scoreJob s r) → exec (.score be none) s = .next (settle (jobEnds s 0 r (scoreJob s r))))
    ∧ (isScoreCount r.raw = true → jobRuns s 0 be r (scoreCountJob s r) →
        exec (.scoreCount be none) s = .next (settle (jobEnds s 0 r (scoreCountJob s r))))
    ∧ (isSort r.raw = true → held (sortNeed s r) → jobRuns s 3 be r (sortJob s r) → exec (.sort be none) s = .next (settle (jobEnds s 3 r (sortJob s r))))
    ∧ (isSortGw r.raw = true → gwReady s be = true → jobRuns s 3 be r (sortGwJob s r) →
        exec (.sortGateway be none) s = .next (settle (jobEnds s 3 r (sortGwJob s r))))
    ∧ (rOp r.raw = 0x20 → held (planNeed s r) → jobRuns s 4 be r (planJob s r) → exec (.plan be) s = .next (settle (jobEnds s 4 r (planJob s r))))
    ∧ (isSend r.raw = true → capMode s ≠ 1 → jobRuns s 5 be r (sendJob s r) → exec (.send be) s = .next (settle (jobEnds s 5 r (sendJob s r))))
    ∧ (∀ u : State, isSend r.raw = true → startable s 5 be = some r → capMode s = 1 →
        16 * sumExpChunks (planSum s r.step (xBlock s r.raw).planBase) ≤ capFree s →
        u = capCred { s with cap := { s.cap with reserved := s.cap.reserved + 16 * sumExpChunks (planSum s r.step (xBlock s r.raw).planBase) } } →
        jobRuns u 5 be r (sendJob u r) → exec (.send be) s = .next (settle (jobEnds u 5 r (sendJob u r))))
    ∧ (isFetchReq r.raw = true → capMode s ≠ 1 → held (fetchNeed s r) → jobRuns s 6 be r (fetchReqJob s r) →
        exec (.fetchRequester be) s = .next (settle (jobEnds s 6 r (fetchReqJob s r))))
    ∧ (∀ u : State, isFetchReq r.raw = true → startable s 6 be = some r → held (fetchNeed s r) → capMode s = 1 → 16 * fetchRoom s r ≤ capFree s →
        u = capCred { s with cap := { s.cap with reserved := s.cap.reserved + 16 * fetchRoom s r } } →
        llMissing u (fetchNeed u r).1 (fetchNeed u r).2.1 (fetchNeed u r).2.2.1 (fetchNeed u r).2.2.2 = [] →
        jobRuns u 6 be r (fetchReqJob u r) → exec (.fetchRequester be) s = .next (settle (jobEnds u 6 r (fetchReqJob u r))))
    ∧ (isFetchSrv r.raw = true → held (serverNeed s r) → jobRuns s 6 be r (fetchSrvJob s r) →
        exec (.fetchServer be) s = .next (settle (jobEnds s 6 r (fetchSrvJob s r))))
    ∧ (∀ x, isReduceBcn r.raw = true → stepAt s r.step = some x → barFree s (reduceId s x) = true → jobRuns s 9 be r (reduceBcnJob s r) →
        exec (.reduceStatsBeacon be) s = .next (settle (jobEnds s 9 r (reduceBcnJob s r))))
    ∧ (∀ x, isDispatch r.raw = true → stepAt s r.step = some x → barFree s (countId s x (rHalf r.raw)) = true → held (dispatchNeed s r) →
        jobRuns s 9 be r (dispatchJob s r) → exec (.dispatch be) s = .next (settle (jobEnds s 9 r (dispatchJob s r))))

/-- The combine rows. One read for each unbroken run of die memory is the model's choice (log entry 81), and so are the free values of an early read
(log entry 60). -/
def Obligations.CombineRowsRun : Prop :=
  ∀ (s : State) (be : Bool) (op : Nat) (i : Instr) (r : RingRec) (x : Step),
    ((i = .combine be ∧ op = 0x38) ∨ (i = .combineAck be ∧ op = 0x39)) →
    (startable s 7 be = none → (∀ u ∈ s.running, u.eng = 7 → rOp u.cmd.raw ≠ op) → exec i s = .next (settle s))
    ∧ (startable s 7 be = some r → rOp r.raw ≠ op → exec i s = .next (settle s))
    ∧ (startable s 7 be = some r → rOp r.raw = op → stepAt s r.step = some x → (op = 0x39 → barFree s (commitId s x) = true) →
      let c := combOf s r.step r.raw
      let u := setFld Reg.COMB_STAT 6 6 (b2n c.wide) (startRun 7 r s)
      let j := combJob u r
      let d := j.doneAs u r
      let reads := cmdSpan r :: j.reads
      let goes : Prop := c.w ≤ widthLimit (bFld x.bound Reg.COMB_CFG 1 0) ∧ areaBad u r.step c.xb = false
        ∧ (c.b.nsh = 0 ∨ reached u c.b.shWait c.b.shTarget = true)
      (widthLimit (bFld x.bound Reg.COMB_CFG 1 0) < c.w → exec i s = .next (settle (raiseKill .widthBad (some r.step) (raiseBit Reg.COMB_STAT 5 u))))
      ∧ (c.w ≤ widthLimit (bFld x.bound Reg.COMB_CFG 1 0) → areaBad u r.step c.xb = true →
          exec i s = .next (settle (raiseKill .areaSmall (some r.step) (raiseBit Reg.XCHG_STAT 5 u))))
      ∧ (c.w ≤ widthLimit (bFld x.bound Reg.COMB_CFG 1 0) → areaBad u r.step c.xb = false → c.b.nsh ≠ 0 → reached u c.b.shWait c.b.shTarget = false →
          exec i s = .next (settle (modRun 7 (fun v => { v with shWait := true }) u)))
      ∧ (goes → dieBytes u j.reads ≠ 0 → exec i s = .next (settle (memRequests 7 (rBe r.raw) (dieReads u j.reads) u)))
      ∧ (∀ a, goes → dieBytes u j.reads = 0 → poisonAny u reads = some a → exec i s = .next (settle (poisonKill a 0 r.step u)))
      ∧ (∀ k, goes → dieBytes u j.reads = 0 → poisonAny u reads = none → j.kill = some k →
          exec i s = .next (settle (raiseKill k (some r.step) (j.after u))))
      ∧ (∀ a, goes → dieBytes u j.reads = 0 → poisonAny u reads = none → j.kill = none → partialPoison u (d.writes.map Wr.a) = some a →
          exec i s = .next (settle (abortWrite a r.step u)))
      ∧ (goes → dieBytes u j.reads = 0 → poisonAny u reads = none → j.kill = none → partialPoison u (d.writes.map Wr.a) = none →
          (metered d u = 0 → exec i s = .next (settle (if d.wait then jobWork d u else jobDone (newRun s 7 r) d u)))
          ∧ (metered d u ≠ 0 → 0 ≤ u.memb.tk → u.memb.mem = [] → exec i s = .next (settle (jobLast (newRun s 7 r) d (chargeMem (metered d u) u))))
          ∧ (metered d u ≠ 0 → (u.memb.tk < 0 ∨ u.memb.mem ≠ []) → exec i s = .next (settle { u with memb := { u.memb with
              mem := u.memb.mem ++ [{ be := rBe r.raw, write := true, eng := 7, n := metered d u, addr := (d.writes.map Wr.a).headD 0 }] } }))))

/-- The other ends of an engine row. One read for each unbroken run of die memory is the model's choice (log entry 81), and so are the free values of an
early read (log entry 60). -/
def Obligations.EngineRowsStopped : Prop :=
  ∀ (i : Instr) (e : Nat) (be c : Bool) (p : Record → Bool) (mk : State → RingRec → Job) (s u : State) (r : RingRec),
    jobRowIf i s r = some (e, be, p, mk, u, c) →
    let j := mk u r
    let v := j.start (startRun e r u)
    let d := j.doneAs v r
    let starts : Prop := c = true ∧ startable s e be = some r ∧ startable u e be = some r ∧ p r.raw = true
    let reads := cmdSpan r :: j.reads
    (startable s e be = none → exec i s = .next (settle s))
    ∧ (startable s e be = some r → p r.raw = false → exec i s = .next (settle s))
    ∧ (∀ a, starts → dieBytes u j.reads = 0 → poisonAny v reads = some a → exec i s = .next (settle (poisonKill a 0 r.step v)))
    ∧ (∀ k, starts → dieBytes u j.reads = 0 → poisonAny v reads = none → j.kill = some k →
        exec i s = .next (settle (raiseKill k (some r.step) (j.after v))))
    ∧ (∀ a, starts → dieBytes u j.reads = 0 → poisonAny v reads = none → j.kill = none → partialPoison v (d.writes.map Wr.a) = some a →
        exec i s = .next (settle (abortWrite a r.step v)))
    ∧ (starts → dieBytes u j.reads = 0 → poisonAny v reads = none → j.kill = none → partialPoison v (d.writes.map Wr.a) = none →
        (metered d v = 0 → exec i s = .next (settle (jobLast (newRun u e r) d v)))
        ∧ (metered d v ≠ 0 → 0 ≤ v.memb.tk → v.memb.mem = [] → exec i s = .next (settle (jobLast (newRun u e r) d (chargeMem (metered d v) v))))
        ∧ (metered d v ≠ 0 → (v.memb.tk < 0 ∨ v.memb.mem ≠ []) → exec i s = .next (settle { v with memb := { v.memb with
            mem := v.memb.mem ++ [{ be := rBe r.raw, write := true, eng := e, n := metered d v, addr := (d.writes.map Wr.a).headD 0 }] } })))
    ∧ (starts → dieBytes u j.reads ≠ 0 → exec i s = .next (settle (memRequests e be (dieReads u j.reads) v)))

/-- A command that completes signals once. -/
def Obligations.EngineCommandSignalsOnce : Prop :=
  ∀ (i : Instr) (e : Nat) (be : Bool) (p : Record → Bool) (mk : State → RingRec → Job) (s : State) (r : RingRec) (x : Step),
    s.wf = true → jobRowOf i = some (e, be, p, mk) → p r.raw = true → jobRuns s e be r (mk s r) → (mk s r).wait = false →
    (∀ u : State, (mk s r).start u = { u with live := ((mk s r).start u).live } ∧ (mk s r).after u = { u with live := ((mk s r).after u).live }
      ∧ (mk s r).rep u = { u with live := ((mk s r).rep u).live }) →
    s.cap.digest = false → stepAt s r.step = some x → (x.opcode ≠ 0x80 ∨ x.commitRec ≠ none) →
    ∃ t, exec i s = .next t
      ∧ (∀ n, cnt t n = if n = rSig r.raw then cnt s n + 1 else cnt s n)
      ∧ (∀ a, rd8 t a = rd8 (putAll (mk s r).writes ((mk s r).start (startRun e r s))) a)
      ∧ t.running = (s.running ++ [newRun s e r]).filter (fun u => u.eng != e)
      ∧ t.ringq = dropFirst (fun y => y.ring == r.ring && y.step == r.step && y.idx == r.idx) s.ringq
      ∧ t.steps = s.steps.map (fun y => if y.seq = r.step then { y with completed := y.completed + 1 } else y)
      ∧ t.poison = (putAll (mk s r).writes ((mk s r).start (startRun e r s))).poison
      ∧ t = { s with live := t.live, cnt := t.cnt, cpools := t.cpools, running := t.running, ringq := t.ringq, colls := t.colls, steps := t.steps,
                     log := t.log, free := t.free, mem := t.mem, poison := t.poison }

/-- Ejected packets, row by row. That a packet behind one that waits for the hold area waits in order is the model's choice (log entry 21). -/
def Obligations.PacketsDelivered : Prop :=
  ∀ (i : Instr) (rsp : Bool) (p : Packet) (form : Bool) (k : State → State) (s : State), pktRowOf i = some (rsp, p, form, k) →
    (form = false → exec i s = .next (settle s))
    ∧ (form = true → takesPackets s = true → fenced s = false →
        (noCredit rsp s = true → exec i s = .next (settle { copied p s with inQ := s.inQ ++ [p] }))
        ∧ (noCredit rsp s = false → waits rsp s = true → exec i s = .next (settle { ejected rsp p s with ejectQ := s.ejectQ ++ [p] }))
        ∧ (noCredit rsp s = false → waits rsp s = false → srcFenced p s = true →
            exec i s = .next (settle (bump Reg.REL_FENCE_DROP_CNT 1 (ejected rsp p s))))
        ∧ (noCredit rsp s = false → waits rsp s = false → srcFenced p s = false → pktVerdict rsp p s = none → strange p s = true →
            exec i s = .next (settle (discard Reg.PART_ISO_DROP_CNT Reg.PART_STAT 2 (raiseIf (pReserved p) Reg.XCHG_FAB_STAT 1 (ejected rsp p s)))))
        ∧ (noCredit rsp s = false → waits rsp s = false → srcFenced p s = false → pktVerdict rsp p s = none → strange p s = false →
            exec i s = .next (settle (k (raiseIf (pReserved p) Reg.XCHG_FAB_STAT 1 (ejected rsp p s))))))

/-- A discarded packet has no effect. -/
def Obligations.DiscardedPacketsHaveNoEffect : Prop :=
  ∀ (i : Instr) (rsp : Bool) (p : Packet) (k : State → State) (s : State) (c b : Nat), s.wf = true → pktRowOf i = some (rsp, p, true, k) →
    takesPackets s = true → fenced s = false → noCredit rsp s = false → waits rsp s = false → srcFenced p s = false → pktVerdict rsp p s = some (c, b) →
    let u := ejected rsp p s
    ∃ t, exec i s = .next t
      ∧ reg t c = min (reg u c + 1) 0xFFFFFFFF
      ∧ flag t Reg.XCHG_FAB_STAT b = true
      ∧ (∀ o, o ∉ [c, Reg.XCHG_FAB_STAT, Reg.SORT_CNT_STAT, Reg.SORT_CNT_DISCARD] → reg t o = reg u o)
      ∧ (¬(b = 6 ∧ pTyp p = 3 ∧ pTs p 18 3 0 = 0) → reg t Reg.SORT_CNT_STAT = reg s Reg.SORT_CNT_STAT ∧ reg t Reg.SORT_CNT_DISCARD = reg s Reg.SORT_CNT_DISCARD)
      ∧ (pMcast p ≠ 1 → pMcast p ≠ 2 → s.fabQ = [] → u = bump64 Reg.XCHG_RX_PKT_LO 1 s)
      ∧ t = { s with live := t.live, out := u.out, fabQ := u.fabQ, injQ := u.injQ }

/-- Packets in transit. -/
def Obligations.TransitForwards : Prop :=
  ∀ (p : Packet) (contended : Bool) (s : State),
    let q : Packet := { p with w0 := BitVec.ofNat 64 (setBits p.w0.toNat 61 56 (pHops p + 1)) }
    let far := takesPackets s = true ∧ pDst p ≠ ownDa s
    let met (port : Nat) (v : State) : Prop := (contended || v.fabQ.any (fun x => x.1 == bit (pTyp q) 3 && route v x.2 == some port)) = true
    let out (port : Nat) (v : State) : State :=
      emit (.packet (bit (pTyp q) 3) port q) (if pBe q then lcAhead (bit (pTyp q) 3) port 2 v else v)
    (¬far → exec (.transitForward p contended) s = .next (settle s))
    ∧ (far → srcFenced p s = true → exec (.transitForward p contended) s = .next (settle (bump Reg.REL_FENCE_DROP_CNT 1 s)))
    ∧ (far → srcFenced p s = false → pHops p = 63 →
        exec (.transitForward p contended) s = .next (settle (discard Reg.XCHG_FAB_DROP_CNT Reg.XCHG_FAB_STAT 3 s)))
    ∧ (∀ port, far → srcFenced p s = false → pHops p ≠ 63 → copyPort s p = none → route s p = some port →
        (met port s → exec (.transitForward p contended) s = .next (settle (out port (tdc 1 s))))
        ∧ (¬met port s → exec (.transitForward p contended) s = .next (settle (out port s))))
    ∧ (far → srcFenced p s = false → pHops p ≠ 63 → copyPort s p = none → route s p = none →
        exec (.transitForward p contended) s = .next (settle (discard Reg.XCHG_FAB_DROP_CNT Reg.XCHG_FAB_STAT 7 (if contended then tdc 1 s else s))))
    ∧ (∀ port, far → srcFenced p s = false → pHops p ≠ 63 → copyPort s p = some port → holeBeyond (tick s) port = true →
        exec (.transitForward p contended) s
          = .next (settle (discard Reg.XCHG_FAB_DROP_CNT Reg.XCHG_FAB_STAT 7 (if contended then tdc 1 (tick s) else tick s))))
    ∧ (∀ port, far → srcFenced p s = false → pHops p ≠ 63 → copyPort s p = some port → holeBeyond (tick s) port = false →
        (met port (tick s) → exec (.transitForward p contended) s = .next (settle (out port (tdc 1 (tick s)))))
        ∧ (¬met port (tick s) → exec (.transitForward p contended) s = .next (settle (out port (tick s)))))

/-- Timeouts of commands. -/
def Obligations.TimeoutsKill : Prop :=
  (∀ (i : Instr) (s : State) (q : W32) (stat b : Nat),
    ((∃ eng u, i = .ackTimeout eng ∧ runOn s eng = some u ∧ u.acks ≠ [] ∧ q = u.cmd.step ∧ stat = Reg.XCHG_STAT ∧ b = 0)
      ∨ (∃ half h, i = .resultTimeout half ∧ s.halves.find? (fun h => h.half == half && h.sendSignalled && decide (h.arrivals < h.expChunks)) = some h
          ∧ q = h.step ∧ stat = Reg.XCHG_STAT ∧ b = 1)
      ∨ (∃ u, i = .fetchRdLate
          ∧ s.running.find? (fun u => u.eng == 6 && u.stage == 2 && bit (rParam u.cmd.raw) 13 && u.serves.any (fun g => !g.sent)) = some u
          ∧ q = u.cmd.step ∧ stat = Reg.XCHG_FETCH_STAT ∧ b = 2)
      ∨ (∃ x, i = .fetchStreamShort ∧ s.steps.find? (fun x => x.live && x.streams.any (fun t => !t.complete)) = some x
          ∧ q = x.seq ∧ stat = Reg.XCHG_FETCH_STAT ∧ b = 1)
      ∨ (∃ u, i = .sharedRowsTimeout ∧ s.running.find? (fun u => u.eng == 7 && u.shWait) = some u
          ∧ reached s (cBlock s u.cmd.raw).shWait (cBlock s u.cmd.raw).shTarget = false ∧ q = u.cmd.step ∧ stat = Reg.COMB_STAT ∧ b = 4)) →
    (keeperUp s = true → capMode s ≠ 2 → exec i s = .next (settle (raiseKill .timeout (some q) (tdc 4 (raiseBit stat b s)))))
    ∧ (capMode s = 2 ∨ keeperUp s = false → exec i s = .next (settle s)))
  ∧ ∀ (s : State),
    (∀ eng, (∀ u, runOn s eng = some u → u.acks = []) → exec (.ackTimeout eng) s = .next (settle s))
    ∧ (∀ half, (∀ h ∈ s.halves, h.half = half → h.sendSignalled = true → h.expChunks ≤ h.arrivals) → exec (.resultTimeout half) s = .next (settle s))
    ∧ ((∀ u ∈ s.running, u.eng = 6 → u.stage = 2 → bit (rParam u.cmd.raw) 13 = true → ∀ g ∈ u.serves, g.sent = true) →
        exec .fetchRdLate s = .next (settle s))
    ∧ ((∀ x ∈ s.steps, x.live = true → ∀ t ∈ x.streams, t.complete = true) → exec .fetchStreamShort s = .next (settle s))
    ∧ ((∀ u, s.running.find? (fun u => u.eng == 7 && u.shWait) = some u → reached s (cBlock s u.cmd.raw).shWait (cBlock s u.cmd.raw).shTarget = true) →
        exec .sharedRowsTimeout s = .next (settle s))

/-- Events of the exchange. -/
def Obligations.ExchangeEventsAct : Prop :=
  ∀ (s : State) (cluster : Nat), forwarding s = true → fenced s = false →
    let hd (w : Work) (x : Step) (u : State) (tag i : Nat) : Hd := { typ := 9, dst := tag % 2 ^ 20, be := x.be, epoch := x.epoch, layer := w.layer, half := w.half, model := w.model, kgen := kgen u, ts := tsAt 16 tag + tsAt 24 w.expert + tsAt 26 i }
    (∀ half, exec (.halfArmed half) s = .next (settle (armAll (fun r => rHalf r.raw == half) s)))
    ∧ exec (.workRecordTaken cluster) s =
        .next (settle (checkSend { s with work := modFirst (fun w => w.cluster == cluster && !w.taken && !w.held) (fun w => { w with taken := true }) s.work }))
    ∧ (∀ (tag : W64) (row : List Byte) (w : Work) (u : State), rowWork s cluster tag.toNat = some w →
        u = { s with work := (modFirst (fun x => x == w) (fun x => { x with rowsLeft := x.rowsLeft - 1 }) s.work).filter (fun x => x.rowsLeft != 0 || capMode s == 2) } →
        let chunks := withIdx 0 (chunksOf 4096 (workXb s w).cpr (row.take (workXb s w).rrb))
        (w.gather = true → exec (.clusterResultRow cluster tag row) s =
          .next (settle (chunks.foldl (fun s e => appendArrival w.step w.half tag.toNat e.1 e.2 s) u)))
        ∧ (∀ x, w.gather = false → stepAt u w.step = some x → exec (.clusterResultRow cluster tag row) s =
          .next (settle (checkRecv (modHalf w.step w.half (fun h => { h with resultsSent := h.resultsSent + 1 })
            (chunks.foldl (fun s e => inject (mkPacket s (hd w x u tag.toNat e.1) e.2) s) u)))))
        )
    ∧ (∀ c d w, capMode s ≠ 2 → idleCluster s = some c → donorCluster s = some d → (tiles s d).getLast? = some w →
        exec .dlbSteal s = .next (settle (moveTile c w s)))
    ∧ (capMode s = 2 → exec .dlbSteal s = .next (settle (postHeld (workFuel s) s)))
    ∧ (∀ x, shStep cluster s = some x → exec (.shDone cluster) s = .next (settle (combPoll (signal (bFld x.bound Reg.COMB_SH_SIG 9 0)
        (modStep x.seq (fun z => { z with shDone := cluster :: z.shDone }) s)))))
    ∧ (shStep cluster s = none → flag s Reg.COMB_SH_SIG 10 = true →
        exec (.shDone cluster) s = .next (settle (combPoll (signal (fld s Reg.COMB_SH_SIG 9 0) s))))
    ∧ (shStep cluster s = none → flag s Reg.COMB_SH_SIG 10 = false → exec (.shDone cluster) s = .next (settle s))
    ∧ (∀ i a, s.acks[i]? = some a → exec (.ackBatchTimer i) s = .next (settle (sendAck a { s with acks := dropFirst (fun x => x == a) s.acks })))
    ∧ (∀ i q, s.llReqs[i]? = some q → q.own = true → q.retry = true → exec (.llRetryResend i) s =
        .next (settle (inject (llRequest s (keyDir s q.epoch q.key) q.key true false q.epoch)
          { s with llReqs := (s.llReqs.take i) ++ { q with retry := false } :: s.llReqs.drop (i + 1) })))
    ∧ exec (.bucketAdmit true) s = .next (settle (admitMem s))
    ∧ exec (.bucketAdmit false) s = .next (settle (admitNet true (admitNet false s)))

/-- Failing units and missing lines. That a failed check of a spare unit leaves TILE_FAULT and LANE_FAULT is the model's choice (log entry 94). -/
def Obligations.FailuresAndMissingLines : Prop :=
  ∀ (s : State) (be : Bool) (t : Nat) (r : RingRec),
    let tileBad := t < 9 ∧ flag s Reg.SCORE_TILE_FAIL t = false ∧ flag s Reg.SCORE_TILE_MAP t = true
    let laneBad := t < 5 ∧ flag s Reg.SORT_LANE_FAIL t = false ∧ flag s Reg.SORT_LANE_MAP t = true
    let missing (q : Bool × Nat × Nat × List Nat) : Prop := llMissing s q.1 q.2.1 q.2.2.1 q.2.2.2 ≠ []
    let asks (e : Nat) (q : Bool × Nat × Nat × List Nat) : State :=
      llAsk q.1 be false q.2.1 q.2.2.1 (llMissing s q.1 q.2.1 q.2.2.1 q.2.2.2) (modRun e (fun u => { u with stage := 1 }) (startRun e r s))
    (∀ i, tileBad → startable s 0 be = some r → (i = .score be (some t) ∧ rOp r.raw = 0x01 ∨ i = .scoreCount be (some t) ∧ isScoreCount r.raw = true) →
        exec i s = .next (settle (raiseKill .unitFailure (some r.step) (tileFailed t (scoreStart s r (startRun 0 r s))))))
    ∧ (∀ i, laneBad → startable s 3 be = some r →
        (i = .sort be (some t) ∧ isSort r.raw = true ∨ i = .sortGateway be (some t) ∧ isSortGw r.raw = true ∧ gwReady s be = true) →
        exec i s = .next (settle (raiseKill .unitFailure (some r.step) (laneFailed t (startRun 3 r s)))))
    ∧ (9 ≤ t ∨ flag s Reg.SCORE_TILE_FAIL t = true → exec (.score be (some t)) s = exec (.score be none) s ∧
        exec (.scoreCount be (some t)) s = exec (.scoreCount be none) s)
    ∧ (5 ≤ t ∨ flag s Reg.SORT_LANE_FAIL t = true → exec (.sort be (some t)) s = exec (.sort be none) s ∧
        exec (.sortGateway be (some t)) s = exec (.sortGateway be none) s)
    ∧ (t < 9 → flag s Reg.SCORE_TILE_FAIL t = false → flag s Reg.SCORE_TILE_MAP t = false → startable s 0 be = some r →
        (rOp r.raw = 0x01 →
          (fld s Reg.SCORE_TILE_MAP 12 9 = t → exec (.score be (some t)) s = exec (.score be none) (setFld Reg.SCORE_TILE_MAP 12 9 0xF (tileFailed t s)))
          ∧ (fld s Reg.SCORE_TILE_MAP 12 9 ≠ t → exec (.score be (some t)) s = exec (.score be none) s))
        ∧ (isScoreCount r.raw = true →
          (fld s Reg.SCORE_TILE_MAP 12 9 = t → exec (.scoreCount be (some t)) s = exec (.scoreCount be none) (setFld Reg.SCORE_TILE_MAP 12 9 0xF (tileFailed t s)))
          ∧ (fld s Reg.SCORE_TILE_MAP 12 9 ≠ t → exec (.scoreCount be (some t)) s = exec (.scoreCount be none) s)))
    ∧ (t < 5 → flag s Reg.SORT_LANE_FAIL t = false → flag s Reg.SORT_LANE_MAP t = false → startable s 3 be = some r →
        (isSort r.raw = true →
          (fld s Reg.SORT_LANE_MAP 7 5 = t → exec (.sort be (some t)) s = exec (.sort be none) (setFld Reg.SORT_LANE_MAP 7 5 7 (laneFailed t s)))
          ∧ (fld s Reg.SORT_LANE_MAP 7 5 ≠ t → exec (.sort be (some t)) s = exec (.sort be none) s))
        ∧ (isSortGw r.raw = true → gwReady s be = true →
          (fld s Reg.SORT_LANE_MAP 7 5 = t → exec (.sortGateway be (some t)) s
            = .next (settle (runJob 3 be isSortGw sortGwJob (setFld Reg.SORT_LANE_MAP 7 5 7 (laneFailed t s)))))
          ∧ (fld s Reg.SORT_LANE_MAP 7 5 ≠ t → exec (.sortGateway be (some t)) s = exec (.sortGateway be none) s)))
    ∧ (startable s 3 be = some r → isSort r.raw = true → missing (sortNeed s r) → exec (.sort be none) s = .next (settle (asks 3 (sortNeed s r))))
    ∧ (startable s 4 be = some r → rOp r.raw = 0x20 → missing (planNeed s r) → exec (.plan be) s = .next (settle (asks 4 (planNeed s r))))
    ∧ (startable s 6 be = some r → isFetchSrv r.raw = true → missing (serverNeed s r) → exec (.fetchServer be) s = .next (settle (asks 6 (serverNeed s r))))

/-- The ingress interface. The model's choices: a beat at a low line (log entry 59), the oldest incomplete tile with dropped ones included (log entry 49),
no flag check in a dropped tile (log entry 50), beats charged to the MEM bucket without a wait (log entry 78). -/
def Obligations.IngressBeatsLand : Prop :=
  ∀ (s : State) (c : Nat) (flg : Byte) (data : List Byte) (i : Ingress),
    let tile := ingReady s c = true ∧ s.ing.find? (fun i => decide (ingGot i.rows c < ingCount i.bound c)) = some i
    let n := ingGot i.beat c
    let t := ingFirst i.bound c + ingGot i.rows c
    let ws := wrBytes (beatAddr i.bound t n) ((data ++ List.replicate 64 0).take 64)
    let u := chargeMem (dieCells s (ws.map Wr.a)) (missWrites ws (putAll ws s))
    (ingReady s c = false → exec (.ingressBeat c flg data) s = .next (settle s))
    ∧ (keeperUp s = true → c < 4 → ingEnable s c = true → ingReady s c = true)
    ∧ (keeperUp s = false → exec .ingTimeout s = .next (settle s))
    ∧ (ingReady s c = true → s.ing.find? (fun i => decide (ingGot i.rows c < ingCount i.bound c)) = none →
        exec (.ingressBeat c flg data) s = .next (settle (raiseBit Reg.SCORE_ING_STAT 0 (bump Reg.SCORE_ING_DROP 1 s))))
    ∧ (tile → i.dropping = true → exec (.ingressBeat c flg data) s = .next (settle (setIngress (countBeat i c) (bump Reg.SCORE_ING_DROP 1 s))))
    ∧ (tile → i.dropping = false → n ≠ 0 →
        exec (.ingressBeat c flg data) s = .next (settle (ingHalves (countBeat i c) u)))
    ∧ (tile → i.dropping = false → n = 0 → (flagWrite i t flg u).1 = false →
        exec (.ingressBeat c flg data) s = .next (settle (ingHalves (countBeat i c) (flagWrite i t flg u).2)))
    ∧ (tile → i.dropping = false → n = 0 → (flagWrite i t flg u).1 = true →
        exec (.ingressBeat c flg data) s =
          .next (settle (ingEnd .flagPoison i.step (setIngress { countBeat i c with dropping := true } (flagWrite i t flg u).2))))
    ∧ (keeperUp s = true →
        s.ing.find? (fun i => !i.dropping && !(i.sigA && i.sigB) && bFld i.bound Reg.SCORE_ING_CTL 31 20 != 0 && (stepAt s i.step).isSome) = some i →
        exec .ingTimeout s = .next (settle (ingEnd .ingressTimeout i.step (tdc 4 (raiseBit Reg.SCORE_ING_STAT 3 (setIngress { i with dropping := true } s))))))

/-- Die memory reads and writes end. That a completion of the right generation with nothing outstanding changes nothing, and one tag for each unbroken run
of a reader's bytes, the Keeper's too, are log entry 81; that the clusters are asked to warm once all reads have ended is log entry 92: the model's
choices. -/
def Obligations.DieMemoryReadsEnd : Prop :=
  ∀ (s : State) (tag : BitVec 14), clocked s = true →
    let slot := bits tag.toNat 9 0
    let gen := bits tag.toNat 13 10
    let found (t : MemTag) : Prop := s.memTags.find? (fun t => t.slot == slot && t.busy) = some t
    let back (t : MemTag) (bad : Option Bool) (x : State) : State :=
      if t.eng = takeEng then takeBack t bad x else if t.eng = switchEng then switchBack t bad x else askWarm x
    let fails (code : Nat) (late : Bool) (t : MemTag) (x : State) : State :=
      match runOfTag x t with
      | none => back t (some late) (faultRec code 22 (ownDa x) (if byKeeper t.eng then 0xFF else 2 * t.eng + b2n t.be) t.addr noStep x)
      | some u => raiseKill .poisonedRead (some u.cmd.step) (faultRec code 22 (ownDa x) u.cmd.ring t.addr u.cmd.step.toNat x)
    (∀ poisoned, gen ≠ slotGen s slot →
        exec (.memCompletion tag poisoned) s = .next (settle (tdc 3 (raiseBit Reg.REL_STAT 6 (bump Reg.REL_LATE_CPL 1 s)))))
    ∧ (∀ poisoned, gen = slotGen s slot → s.memTags.find? (fun t => t.slot == slot && t.busy) = none →
        exec (.memCompletion tag poisoned) s = .next (settle s))
    ∧ (∀ t, gen = slotGen s slot → found t → exec (.memCompletion tag true) s =
        .next (settle (fails 0x03 false t (raiseBit Reg.REL_STAT 4 (bump Reg.REL_MEM_POISON_CNT 1 (setTag { t with busy := false } s))))))
    ∧ (∀ t u, gen = slotGen s slot → found t → runOfTag s t = some u →
        let v : Run := { u with memSlots := u.memSlots.filter (· != slot) }
        let x := modRun u.eng (fun _ => v) (setTag { t with busy := false } s)
        (readsBack v x = false → exec (.memCompletion tag false) s = .next (settle x))
        ∧ (readsBack v x = true → u.stage ≠ 4 →
            exec (.memCompletion tag false) s = .next (settle (doJob u (jobOf (setTag { t with busy := false } s) u.cmd) x)))
        ∧ (readsBack v x = true → u.stage = 4 → exec (.memCompletion tag false) s = .next (settle (served x))))
    ∧ (∀ t, gen = slotGen s slot → found t → runOfTag s t = none →
        exec (.memCompletion tag false) s = .next (settle (back t none (setTag { t with busy := false } s))))
    ∧ (∀ (t : MemTag) (k : Taking) (bad : Option Bool) (y : State), s.taking = some k →
        y = { s with taking := some { k with bad := k.bad ++ (match bad with | some late => [(t.addr, t.n, late)] | none => []) } } →
        (readsOut y takeEng = true → takeBack t bad s = y)
        ∧ (readsOut y takeEng = false → keeperUp y = true → takeBack t bad s = judgePkt k.pkt y (letGo y)))
    ∧ (∀ t, found t → exec (.memReadTimeout slot) s =
        .next (settle (fails 0x04 true t (raiseBit Reg.REL_STAT 5 (bump Reg.REL_MEM_TO_CNT 1
          (setTag { t with busy := false, gen := (t.gen + 1) % 16, freeAt := s.clock + 8 * fld s Reg.REL_MEM_TO 15 0 * 1024 } s))))))
    ∧ (∀ eng addr u, runOn s eng = some u → inStaging addr = false → addr < Config.apertureBase →
        exec (.memWriteTimeout eng addr) s = .next (settle (raiseKill .poisonedRead (some u.cmd.step) s)))

/-- APERTURE_ACCESS. That an access to the rings, the hold area or the Keeper region gets no completion (log entry 73), and that a write answers nothing
(log entry 83), are the model's choices. -/
def Obligations.ExternalAccesses : Prop :=
  ∀ (s : State) (x : MemAccess), s.wf = true → clocked s = true →
    let ours := (inStaging x.addr = true ∨ Config.apertureBase ≤ x.addr) ∧ keeperOnly s x.addr (if x.write then x.data.length else x.n) = false
    (¬ours → exec (.apertureAccess x) s = .next (settle s))
    ∧ (ours → exec (.apertureAccess x) s = .next (settle (if x.write then extWrite x.addr x.data x.found s else extRead x.addr x.n x.found s)))
    ∧ (ours → x.write = false → x.found = .clean → s.poison = [] → (∀ j < x.n, phys s (x.addr + j) ≠ none) →
        exec (.apertureAccess x) s = .next (emit (.memData (rdN s x.addr x.n)) s))
    ∧ (x.write = true → x.found = .clean → s.poison = [] → x.data ≠ [] → Config.stagingBase + Config.poolRegionOff ≤ x.addr →
        x.addr + x.data.length ≤ Config.stagingBase + Config.stagingSize →
        ∃ t, exec (.apertureAccess x) s = .next t
          ∧ (∀ j (h : j < x.data.length), rd8 t (x.addr + j) = x.data[j])
          ∧ (∀ a, (∀ p, phys s a = some p → p < x.addr ∨ x.addr + x.data.length ≤ p) → rd8 t a = rd8 s a)
          ∧ t = { s with mem := t.mem })

/-- R259. -/
def Obligations.BeaconCrc : Prop :=
  let shift (c : Nat) : Nat := if c ≥ 0x8000 then Nat.xor ((c * 2) % 0x10000) 0x1021 else c * 2
  (crc16 [] = 0xFFFF
    ∧ (∀ (l : List Byte) (b : Byte), (crc16 (l ++ [b])).toNat =
        shift (shift (shift (shift (shift (shift (shift (shift (Nat.xor (crc16 l).toNat (b.toNat * 256))))))))))
    ∧ crc16 [0x31, 0x32, 0x33, 0x34, 0x35, 0x36, 0x37, 0x38, 0x39] = 0x29B1
    ∧ (∀ f : Frame, fBytes f = leBytes 8 f.head.toNat ++ (if fPld f then leBytes 8 f.pay.toNat else [])))
  ∧ ∀ (i : Instr) (l : Nat) (f : Frame) (early : Bool) (k : State → State) (s : State), s.wf = true → frameRowOf i = some (l, f, true, early, k) →
      hears s (fCls f) → f.whole = true → f.crc ≠ crc16 (fBytes f) →
      ∃ t, exec i s = .next t
        ∧ reg t Reg.XCHG_BCN_CRC_CNT = min (reg s Reg.XCHG_BCN_CRC_CNT + 1) 0xFFFFFFFF
        ∧ flag t Reg.XCHG_BCN_STAT 0 = true
        ∧ (∀ o, o ∉ [Reg.XCHG_BCN_CRC_CNT, Reg.XCHG_BCN_STAT] → reg t o = reg s o)
        ∧ t = { s with live := t.live }

/-- Beacon frames, row by row. -/
def Obligations.FramesReceived : Prop :=
  ∀ (i : Instr) (l : Nat) (f : Frame) (form early : Bool) (k : State → State) (s : State), frameRowOf i = some (l, f, form, early, k) →
    (form = false ∨ ¬hears s (fCls f) → exec i s = .next (settle s))
    ∧ (form = true → hears s (fCls f) →
        (f.whole = false → exec i s = .next (settle (raiseBit Reg.XCHG_BCN_STAT 1 (bump Reg.XCHG_BCN_TRUNC_CNT 1 s))))
        ∧ (f.whole = true → f.crc = crc16 (fBytes f) →
            (repeated s l f = true → exec i s = .next (settle (ackFrame l (fCls f) s)))
            ∧ (repeated s l f = false → ready s = false → early = false → exec i s = .next (settle (staleFrame (frameTaken l f s))))
            ∧ (repeated s l f = false → (ready s = true ∨ early = true) → exec i s = .next (settle (sameCycle k (frameTaken l f s))))))

/-- Beacon timers. -/
def Obligations.BeaconTimersAct : Prop :=
  ∀ (s : State) (l cls : Nat),
    let arg := ownDa s + fld s Reg.XCHG_BCN_ELECT 1 0 * 2 ^ 20 + fld s Reg.XCHG_BCN_ELECT 2 2 * 2 ^ 22
    let sent (t : TxFrame) : Bool := t.cls == cls && t.sent
    (bcnTx s = true → exec .heartbeatPeriod s = .next (settle (treeCut ((List.range 16).foldl (fun s l => countMiss l s)
        ((beatLinks s).foldl (fun s l => sendFrame l 3 (headOf 3 0x01 false false 0 0 arg) none s) s)))))
    ∧ (bcnTx s = false → exec .heartbeatPeriod s = .next (settle s))
    ∧ (∀ r, seatTree s = some r → forwarding s = true → electState s = 1 → s.elect.rootSeen = false → exec .electSettle s = .next (settle (becomeRoot r s)))
    ∧ (seatTree s = none ∨ forwarding s = false ∨ electState s ≠ 1 ∨ s.elect.rootSeen = true → exec .electSettle s = .next (settle s))
    ∧ (forwarding s = true → s.elect.waitRoot = true →
        exec .treeRootTimeout s = .next (settle (nextTree (raiseBit Reg.REL_TREE (fld s Reg.XCHG_BCN_ELECT 1 0) s))))
    ∧ (s.powered = true → s.power.clkStopped = false → (linkAt s l).tx.any sent = true → exec (.beaconFrameAck l cls) s =
        .next (settle (pumpClass l cls (setFld Reg.XCHG_BCN_LINK l l 1 (setLink l { linkAt s l with up := true, tx := dropFirst sent (linkAt s l).tx } s)))))
    ∧ (∀ t, bcnTx s = true → linkFailed s l = false → (linkAt s l).tx.find? sent = some t → ((linkAt s l).dark = false ∨ cls = 0 ∨ cls = 2) →
        (fld s Reg.XCHG_BCN_CFG 14 11 ≤ t.resends → exec (.beaconResend l cls) s = .next (settle (linkFail l s)))
        ∧ (t.resends < fld s Reg.XCHG_BCN_CFG 14 11 → exec (.beaconResend l cls) s = .next (settle (emit (.frame l (frameBeats s t.frame)) (bump Reg.XCHG_BCN_RETRY_CNT 1
            (setLink l { linkAt s l with tx := modFirst sent (fun t => { t with resends := t.resends + 1 }) (linkAt s l).tx } s))))))
    ∧ (∀ t, bcnTx s = true → linkFailed s l = false → (linkAt s l).tx.find? sent = some t → (linkAt s l).dark = true → cls ≠ 0 → cls ≠ 2 →
        exec (.beaconResend l cls) s = .next (settle (raiseBit Reg.XCHG_BCN_STAT 9 s)))
    ∧ (∀ u dark, s.powered = true →
        u = setLink l { linkAt s l with dark := dark, monitored := if dark then (linkAt s l).monitored else false, heard := false, missed := 0 } s →
        exec (.darkSidebandChange l dark) s = .next (settle (if dark || !(bcnTx u) then u else (List.range 4).foldl (fun s c => pumpClass l c s) u)))
    ∧ (keeperUp s = true → s.recov.warm.contains l = true → exec (.warmDone l) s =
        .next (settle (joinRecover { s with recov := { s.recov with warm := s.recov.warm.filter (· != l) } })))

/-- Events of a flip. -/
def Obligations.FlipEventsAct : Prop :=
  ∀ (s : State),
    let timer := keeperUp s = true ∧ flag s Reg.XCHG_BCN_ELECT 2 = true ∧ epochWork s = true
    let staged := forwarding s = true ∧ fenced s = false ∧ stage1Done s = true
    let retires := forwarding s = true ∧ fenced s = false ∧ dual s = true ∧ s.flip.retireJoined = false ∧ oldSettled s = true
    let draining := keeperUp s = true ∧ flag s Reg.XCHG_FAB_DRAIN 0 = true
    let drained := draining ∧ prep s = true ∧ s.steps.any Step.live = false ∧ s.abortAcks = [] ∧ s.ownAcks = [] ∧ s.killDone = true
    (timer → exec .flipReqTimer s = .next (settle (requestFlip (ownDa s) s)))
    ∧ (¬timer → exec .flipReqTimer s = .next (settle s))
    ∧ (staged → exec .flipStage1Done s =
        .next (settle (joinLocal relFlipReady flipReadyId 15 false 0 { s with flip := { s.flip with readyJoined := true } })))
    ∧ (¬staged → exec .flipStage1Done s = .next (settle s))
    ∧ (retires → exec .flipRetireJoin s =
        .next (settle (joinLocal relFlipRetire flipRetireId 15 false 0 { s with flip := { s.flip with retireJoined := true } })))
    ∧ (¬retires → exec .flipRetireJoin s = .next (settle s))
    ∧ (draining → exec .drainTimeout s = .next (settle (raiseKill .drain none s)))
    ∧ (¬draining → exec .drainTimeout s = .next (settle s))
    ∧ (drained → exec .drainDone s = .next (settle (rewritePcnt (setFld Reg.XCHG_FAB_EPOCH 0 0 (b2n (!(curEpoch s))) (dropBit Reg.XCHG_FAB_DRAIN 0
        (if slotsDiffer (verOf s (!(curEpoch s))) (verOf s (!(!(curEpoch s)))) then dropReplicas (!(curEpoch s)) s else s))))))
    ∧ (¬drained → exec .drainDone s = .next (settle s))

/-- Detections. That a mismatch or the watchdog in phase C fails bring-up is the model's choice (log entry 107). -/
def Obligations.DetectionsAct : Prop :=
  ∀ (s : State),
    let sounds := s.powered = true ∧ flag s Reg.REL_SND_CTL 0 = true
    let checks := s.powered = true ∧ 1 ≤ fld s Reg.REL_PWR_STAT 4 3 ∧ pwrState s ≠ 2 ∧ s.power.clkStopped = false
    let lost (t u : State) : Prop := t.alarm = true ∧ t.running = [] ∧ t.ringq = [] ∧ t.fabQ = [] ∧ t.fab.req = [] ∧ t.fab.rsp = [] ∧ t.hold = []
      ∧ t.steps = u.steps
    (∀ f, clocked s = true → flag s Reg.REL_SCRUB 0 = true → exec (.scrubVisit f) s = .next (settle (onScrub f s)))
    ∧ (∀ f, clocked s = false ∨ flag s Reg.REL_SCRUB 0 = false → exec (.scrubVisit f) s = .next (settle s))
    ∧ (∀ a b c d e : Byte, sounds → exec (.soundSample a b c d e) s = .next (settle (onSound [a.toNat, b.toNat, c.toNat, d.toNat, e.toNat] s)))
    ∧ (∀ a b c d e : Byte, ¬sounds → exec (.soundSample a b c d e) s = .next (settle s))
    ∧ (∀ bad : BitVec 4, checks → Nat.land bad.toNat s.power.clkBad = 0 →
        exec (.clockWindow bad) s = .next (settle { s with power := { s.power with clkBad := bad.toNat } }))
    ∧ (∀ (bad : BitVec 4) (u : State), checks → Nat.land bad.toNat s.power.clkBad ≠ 0 →
        u = raiseBit Reg.REL_RESET_CAUSE 3 (setFld Reg.REL_CLK_STAT 3 0 (Nat.lor (fld s Reg.REL_CLK_STAT 3 0) (Nat.land bad.toNat s.power.clkBad))
          { s with power := { s.power with clkBad := bad.toNat } }) →
        exec (.clockWindow bad) s = .next (settle { u with alarm := true, power := { u.power with clkStopped := true } }))
    ∧ (forwarding s = true → (fenced s = false ∨ s.alarm = false) →
        (∃ t u, exec .lockstepMismatch s = .next t ∧ u = faultRec 0x80 1 (ownDa s) 0 0 noStep (raiseBit Reg.KEEP_STAT 0 s) ∧ lost t u)
        ∧ ∃ t u, exec .watchdogExpire s = .next t ∧ u = faultRec 0x81 1 (ownDa s) 0 0 noStep (raiseBit Reg.KEEP_STAT 1 s) ∧ lost t u)
    ∧ (forwarding s = true → (fenced s = false ∨ s.alarm = false) → exec .lockstepMismatch s = .next (settle (loseSlice 0x80 1 0 0 (raiseBit Reg.KEEP_STAT 0 s)))
        ∧ exec .watchdogExpire s = .next (settle (loseSlice 0x81 1 0 0 (raiseBit Reg.KEEP_STAT 1 s))))
    ∧ (forwarding s = true → fenced s = true → s.alarm = true → exec .lockstepMismatch s = .next (settle (raiseBit Reg.KEEP_STAT 0 s))
        ∧ exec .watchdogExpire s = .next (settle (raiseBit Reg.KEEP_STAT 1 s)))
    ∧ (forwarding s = false → inPhase s 2 = true → exec .lockstepMismatch s = .next (settle (bringupFail (raiseBit Reg.KEEP_STAT 0 s)))
        ∧ exec .watchdogExpire s = .next (settle (bringupFail (raiseBit Reg.KEEP_STAT 1 s))))
    ∧ (forwarding s = false → inPhase s 2 = false → exec .lockstepMismatch s = .next (settle s) ∧ exec .watchdogExpire s = .next (settle s))

/-- Power and bring-up. AON_TICK rests on the model's choices of log entries 37 and 74. -/
def Obligations.BringupProceeds : Prop :=
  ∀ (s : State),
    (s.powered = false → exec .pwrGoodRise s = .next (settle (resetTo .cold s)))
    ∧ (s.powered = true → exec .pwrGoodRise s = .next (settle s))
    ∧ exec .pwrGoodFall s = .next (settle { s with powered := false, alarm := false })
    ∧ (∀ n, s.powered = true → 25 ≤ n → exec (.resetN n) s = .next (settle (resetTo .warm s)))
    ∧ (∀ n, s.powered = false ∨ n < 25 → exec (.resetN n) s = .next (settle s))
    ∧ (inPhase s 0 = true → exec .phaseAEnd s = .next (settle (phaseTime 0 200 (setFld Reg.REL_PWR_STAT 4 3 1 (showIdentity (nvmStatus (loadShadows s)))))))
    ∧ (inPhase s 0 = false → exec .phaseAEnd s = .next (settle s))
    ∧ (∀ tiles lanes, exec (.phaseBEnd tiles lanes) s = .next (settle (endPhaseB tiles.toNat lanes.toNat s))
        ∧ (inPhase s 1 = false → exec (.phaseBEnd tiles lanes) s = .next (settle s)))
    ∧ (∀ ok, inPhase s 2 = false ∨ s.power.fwVer = none → exec (.sliceReady ok) s = .next (settle s))
    ∧ (∀ v, inPhase s 2 = true → s.power.fwVer = some v → exec (.sliceReady false) s = .next (settle { raiseBit Reg.REL_PWR_STAT 5 s with alarm := true }))
    ∧ (inPhase s 2 = true → s.power.fwVer ≠ none → exec (.sliceReady true) s = .next (settle (becomeReady true s)))
    ∧ (s.powered = true → exec .aonTick s = .next (settle (aonTick s)))
    ∧ (s.powered = false → exec .aonTick s = .next (settle s))

/-- Events that touch no data. -/
def Obligations.FrameOfLinkAndTransitEvents : Prop :=
  ∀ (i : Instr) (s : State), s.wf = true →
    ((∃ p c, i = .transitForward p c) ∨ (∃ rsp p, i = .badTypePacket rsp p) ∨ (∃ l f, i = .claim l f) ∨ (∃ l f, i = .discover l f)
      ∨ (∃ l f, i = .discoverReply l f) ∨ (∃ l f, i = .heartbeat l f) ∨ (∃ l f, i = .unlistedBeaconFrame l f) ∨ (∃ l c, i = .beaconFrameAck l c)
      ∨ (∃ l d, i = .darkSidebandChange l d) ∨ (∃ b, i = .clockWindow b) ∨ i = .pwrGoodFall) →
    ∃ t, exec i s = .next t
      ∧ (∀ a, rd8 t a = rd8 s a) ∧ (∀ n, cnt t n = cnt s n) ∧ (∀ o, stg t o = stg s o)
      ∧ ((∀ p c, i ≠ .transitForward p c) → (∀ rsp p, i ≠ .badTypePacket rsp p) → t.fabQ = s.fabQ ∧ t.injQ = s.injQ)
      ∧ ((∀ rsp p, i ≠ .badTypePacket rsp p) → t.ejectQ = s.ejectQ ∧ t.inQ = s.inQ)
      ∧ t = { s with live := t.live, links := t.links, elect := t.elect, power := t.power, powered := t.powered, alarm := t.alarm, out := t.out,
                     free := t.free, fabQ := t.fabQ, injQ := t.injQ, ejectQ := t.ejectQ, inQ := t.inQ }

/-- The order of selection. -/
def Obligations.SelectRanksCandidates : Prop :=
  ∀ (e : Elig), (∀ c ∈ e.set, nanScore c = false) →
    let l := candList e
    let before (a b : Cand) : Prop := ltVal (ofF32 a.s) (ofF32 b.s) = false ∧ (ltVal (ofF32 b.s) (ofF32 a.s) = false → a.x < b.x)
    l.length ≤ 16 ∧ (l.map Cand.x).Nodup ∧ (∀ c ∈ l, c ∈ e.set) ∧ l.Pairwise before
    ∧ (∀ c ∈ e.set, c.x ∉ l.map Cand.x → l.length = 16 ∧ ∀ a ∈ l, before a c)

/-- The record and replay unit's seven commands, each with its own effect. START clearing DONE and SW, the first record at RING_BASE and STOP answering 0
are log entry 31; CAPTURE_STOP_APPLY clearing CRED_HOLD at once is log entry 106; the ring's writes not waiting on the MEM bucket are log entry 78: the model's choices. -/
def Obligations.CaptureAndReplayComplete : Prop :=
  ∀ (p : HostPkt) (s : State),
    let u := hostSeen p s
    let taken (l : List Addr) (v : State) : State := { v with cap := { v.cap with
      digest := bit (hPar p 1 1) 0, bufs := l, ringBase := bits (hPar p 8 8) 47 0, ringSize := hPar p 4 4 * 0x10000, staged := [], sent := 0
      reserved := 0, keepUsed := 0, arr := [], work := [], waiting := [] } }
    (∀ l v, hostPasses p s → hostReaches 0x60 p s → bit (hPar p 0 1) 0 = false → allocBufs 2 (hPar p 2 2) none u = (0, l, v) →
      exec (.captureStart p) s = .next (settle
        (let x := setReg Reg.PART_CAP_SW_LO 0 (setReg Reg.PART_CAP_SW_HI 0 (setReg Reg.PART_CAP_DONE_LO 0 (setReg Reg.PART_CAP_DONE_HI 0 (taken l v))))
         setFld Reg.PART_CAP_STAT 1 0 3 { x with cap := { x.cap with start := some (mkReply p 0 []), sw := 0 } })))
    ∧ (hostPasses p s → hostReaches 0x60 p s → bit (hPar p 0 1) 0 = true →
        exec (.captureStop p) s = .next (settle { u with cap := { u.cap with stop := some (mkReply p 0 []) } }))
    ∧ (∀ l v, hostPasses p s → hostReaches 0x61 p s → bit (hPar p 0 1) 0 = false → allocBufs 2 (hPar p 2 2) none u = (0, l, v) →
      exec (.replayStart p) s = .next (settle
        (let a := answer (mkReply p 0 []) (taken l v)
         let first := (List.range 32).map (fun i => rd8 a (a.cap.ringBase + (0 + i) % max 1 a.cap.ringSize))
         let x := setFld Reg.PART_CAP_STAT 1 0 2 (setReg Reg.PART_CAP_DONE_HI 0 (setReg Reg.PART_CAP_DONE_LO first.length a))
         repStarve (repSupply (markTdc { x with cap := { x.cap with
           digest := bit (leAt first 28 1) 0, dlb := bit (leAt first 28 1) 1, staged := [], divSeq := none, workPos := 0, arr := [], waiting := [] } })))))
    ∧ (hostPasses p s → hostReaches 0x61 p s → bit (hPar p 0 1) 0 = true → exec (.replayStop p) s = .next (settle
        (answer (mkReply p 0 [match u.cap.divSeq with | some q => q.toNat | none => 0])
          (dropBit Reg.PART_CAP_STAT 6 (dropBit Reg.PART_CAP_STAT 2 (setFld Reg.PART_CAP_STAT 1 0 0
            (freeBufs u.cap.bufs { u with cap := { u.cap with
              bufs := [], staged := [], divSeq := none, workPos := 0, arr := [], waiting := [] } })))))))
    ∧ (∀ r, keeperUp s = true → capMode s = 3 → s.steps.any (fun x => x.phase != .accepted) = false → s.cap.start = some r →
        exec .captureStartApply s = .next (settle
          (let q := nextStep s
           let rec0 := leBytes 4 (stateDigest s) ++ leBytes 4 (kgen s) ++ leBytes 4 q.toNat ++ leBytes 4 (b2n s.cap.digest + b2n (flag s Reg.PART_DET_CTL 0) * 2)
           let x := setReg Reg.PART_CAP_SEQNO 0 (setFld Reg.PART_CAP_STAT 1 0 1 { s with cap := { s.cap with start := none } })
           capMargin (queueReply { r with r0 := q } (capPush 1 0 false q.toNat rec0 (markTdc x))))))
    ∧ (keeperUp s = true → (capMode s ≠ 3 ∨ s.steps.any (fun x => x.phase != .accepted) = true) → exec .captureStartApply s = .next (settle s))
    ∧ (keeperUp s = true → capMode s = 1 → s.cap.stop ≠ none → s.steps = [] → exec .captureStopApply s = .next (settle
        (setFld Reg.PART_CAP_STAT 1 0 0 (setFld Reg.PART_CAP_STAT 3 3 0
          (capPush 2 0 false (nextStep s).toNat (leBytes 8 (reg64 s Reg.PART_TDC_LO)) s)))))
    ∧ (keeperUp s = true → (capMode s ≠ 1 ∨ s.cap.stop = none ∨ s.steps ≠ []) → exec .captureStopApply s = .next (settle s))
    ∧ (keeperUp s = true → capMode s ≠ 2 → s.cap.bufs ≠ [] → exec .captureRingCopy s = .next (settle
        (let l := ((s.cap.staged.flatten).drop s.cap.sent).take (s.cap.ringSize - (capDone s - s.cap.sw.toNat))
         let left := dropCopied (s.cap.sent + l.length) s.cap.staged
         let charged := chargeMem (dieCells s ((List.range l.length).map (fun i => s.cap.ringBase + (capDone s + i) % (max 1 s.cap.ringSize)))) s
         let x := bump64 Reg.PART_CAP_DONE_LO l.length
           ((withIdx 0 l).foldl (fun s' e => wr8 (s'.cap.ringBase + (capDone s + e.1) % (max 1 s'.cap.ringSize)) e.2 s') charged)
         let keep := ((left.2.filter (fun r => capKeeps (leAt r 0 1))).map List.length).foldl (· + ·) 0
         capEnd (capMargin (capCred { x with cap := { x.cap with staged := left.2, sent := left.1, keepUsed := keep } })))))

/-- Detections, each with its own effect. A fault record's detail holds VOFS as it stands before the step: the model's reading (log entry 37). -/
def Obligations.DetectionsComplete : Prop :=
  ∀ (s : State),
    let lose (code unit detail : Nat) (x : State) : State :=
      let y := sendAll 16 0 (headOf 0 0x01 false false 0 0 (ownDa (faultRec code unit (ownDa x) detail 0 noStep x) + code * 2 ^ 20)) none
        (faultRec code unit (ownDa x) detail 0 noStep x)
      { raiseBit Reg.REL_STAT 9 { y with alarm := true } with
        taking := none, switchRun := none, ringq := [], running := [], fabQ := [], injQ := [], fab := { y.fab with req := [], rsp := [] }, hold := [], ejectQ := [], inQ := [], rdHeld := [], colls := [] }
    let moved (x : State) : State :=
      if x.scrubPos + 1 < Config.stagingSize / 8 then { x with scrubPos := x.scrubPos + 1 } else bump Reg.REL_SCRUB_PASS 1 { x with scrubPos := 0 }
    let w := Config.stagingBase / 8 + s.scrubPos
    (forwarding s = true → (fenced s = false ∨ s.alarm = false) → exec .lockstepMismatch s = .next (settle (lose 0x80 1 0 (raiseBit Reg.KEEP_STAT 0 s))))
    ∧ (forwarding s = true → (fenced s = false ∨ s.alarm = false) → exec .watchdogExpire s = .next (settle (lose 0x81 1 0 (raiseBit Reg.KEEP_STAT 1 s))))
    ∧ (∀ bad : BitVec 4, s.powered = true → 1 ≤ fld s Reg.REL_PWR_STAT 4 3 → pwrState s ≠ 2 → s.power.clkStopped = false →
        let x : State := { s with power := { s.power with clkBad := bad.toNat } }
        let y := raiseBit Reg.REL_RESET_CAUSE 3 (setFld Reg.REL_CLK_STAT 3 0 (Nat.lor (fld x Reg.REL_CLK_STAT 3 0) (Nat.land bad.toNat s.power.clkBad)) x)
        (Nat.land bad.toNat s.power.clkBad = 0 → exec (.clockWindow bad) s = .next (settle x))
        ∧ (Nat.land bad.toNat s.power.clkBad ≠ 0 →
            exec (.clockWindow bad) s = .next (settle { y with alarm := true, power := { y.power with clkStopped := true } })))
    ∧ (clocked s = true → flag s Reg.REL_SCRUB 0 = true →
        (s.poison.contains w = false → exec (.scrubVisit .clean) s = .next (settle (moved s)))
        ∧ (∀ b, s.poison.contains w = false → exec (.scrubVisit (.corrected b)) s = .next (settle (moved (ceDetect (w * 8) b s))))
        ∧ (∀ f, s.poison.contains w = true ∨ f = .uncorrectable → exec (.scrubVisit f) s = .next (settle (moved (ueDetect (w * 8) 2 noStep s)))))
    ∧ (∀ a b c d e : Byte, s.powered = true → flag s Reg.REL_SND_CTL 0 = true →
        let l := [a.toNat, b.toNat, c.toNat, d.toNat, e.toNat]
        let x := (withIdx 0 l).foldl (fun s e =>
          let s := setFld (Reg.REL_SND_M e.1) 7 0 e.2 s
          if e.2 < fld s (Reg.REL_SND_M e.1) 15 8 then setFld (Reg.REL_SND_M e.1) 15 8 e.2 s else s) s
        let m := (sndLowest 0 l).1
        let dom := (sndLowest 0 l).2
        let vofs := fld x Reg.REL_SND_VOFS 3 0
        let vmax := fld x Reg.REL_SND_CTL 12 9
        let detail := dom + m * 2 ^ 8 + vofs * 2 ^ 16
        let event (b : Nat) : State := setFld Reg.REL_SND_STAT 6 4 dom (raiseBit Reg.REL_SND_STAT b x)
        let now (t : State) : Prop := exec (.soundSample a b c d e) s = .next (settle t)
        let lossless : Prop := ready (event 2) = false ∨ (event 2).power.clkStopped = true ∨ (fenced (event 2) = true ∧ (event 2).alarm = true)
        (m ≤ fld x Reg.REL_SND_THR 23 16 → ¬lossless → now (lose 0x86 23 detail (event 2)))
        ∧ (m ≤ fld x Reg.REL_SND_THR 23 16 → lossless → now (event 2))
        ∧ (fld x Reg.REL_SND_THR 23 16 < m → m ≤ fld x Reg.REL_SND_THR 15 8 → vofs = vmax →
            now (faultRec 0x19 23 (ownDa (event 1)) detail 0 noStep (event 1)))
        ∧ (fld x Reg.REL_SND_THR 23 16 < m → m ≤ fld x Reg.REL_SND_THR 7 0 → vofs < vmax →
            now (let y := faultRec 0x18 23 (ownDa (event 0)) detail 0 noStep (event 0)
                 { y with power := { y.power with vofsUp := true } }))
        ∧ (fld x Reg.REL_SND_THR 23 16 < m → ¬(m ≤ fld x Reg.REL_SND_THR 15 8 ∧ vofs = vmax) → ¬(m ≤ fld x Reg.REL_SND_THR 7 0 ∧ vofs < vmax) → now x))

/-- Resets, bring-up and the AON boundary, each with its own effect (the durations of the phases are free values within their
bounds: log entry 4). The model's choices: what PHASE_B_END does with the shadows, pools and maps is log entry 86, the AON_TICK clauses rest on log entries
37, 74 and 87. -/
def Obligations.ResetAndBringupComplete : Prop :=
  ∀ (s : State),
    let mins := [Reg.REL_SND_M 0, Reg.REL_SND_M 1, Reg.REL_SND_M 2, Reg.REL_SND_M 3, Reg.REL_SND_M 4]
    let kept := mins ++ [Reg.REL_SND_VOFS, Reg.REL_WAKE_REASON, Reg.REL_RESET_CAUSE]
    let warm := kept.foldl (fun t o => setStg o (if o = Reg.REL_SND_VOFS then stg s o else 0)
      (setReg o (if o ∈ mins then setBits (reg s o) 7 0 0xFF else reg s o) t)) State.reset
    let fresh (vs : Bool) (r : State) : State := { r with
      da := s.da, nvm := s.nvm, out := s.out, free := s.free, clock := s.clock, pending := s.pending, mem := s.mem, poison := s.poison
      links := (s.links.filter (fun e => e.2.dark)).map (fun e => (e.1, { linkReset with dark := true }))
      power := { r.power with full := s.power.full, vofsSet := vs } }
    let shadows : State := if s.power.waking then s else { s with power := { s.power with
      shadow := (Reg.CORE_DEVID_LO, leAt (nvmRd s 0 8) 0 4) :: (Reg.CORE_DEVID_HI, leAt (nvmRd s 0 8) 4 4) ::
        (match nvmUse s 0 with | some u => settingEntries u.2.2 | none => [])
      poolBody := (nvmUse s 1).map (fun u => u.2.2) } }
    let identity (o : Nat) (x : State) : Nat := match x.power.shadow.find? (fun e => e.1 == o) with | some e => e.2 | none => 0
    let shown (x : State) : State := setReg Reg.CORE_DEVID_HI (identity Reg.CORE_DEVID_HI x) (setReg Reg.CORE_DEVID_LO (identity Reg.CORE_DEVID_LO x) x)
    let timed (i bound : Nat) (x : State) : State :=
      let y := setReg (Reg.REL_BOOT_T i) (min (Config.freeCycles x.free) (bound - bootSum x i)) x
      { y with free := y.free + 1 }
    let failed (x : State) : State := { raiseBit Reg.REL_PWR_STAT 5 x with alarm := true }
    let zeroed (x : State) : State :=
      { x with mem := x.mem.filter (fun e => !(inStaging e.1)), poison := x.poison.filter (fun w => !(inStaging (w * 8))) }
    let all := s.power.waking = false ∨ s.power.full = true
    let aon := { s with power := { s.power with vofsUp := false } }
    let asked (x : State) : State := if s.power.vofsUp then setFld Reg.REL_SND_VOFS 3 0 (min (fld x Reg.REL_SND_VOFS 3 0 + 1) 15) x else x
    let pends := s.power.vofsSet = true ∨ Nat.land (stg s Reg.REL_PWR_CFG) 3 ≠ Nat.land (reg s Reg.REL_PWR_CFG) 3
    let compares := forwarding s = true
    (s.powered = false → exec .pwrGoodRise s = .next (settle (fresh false (raiseBit Reg.REL_RESET_CAUSE 0 State.reset))))
    ∧ exec .pwrGoodFall s = .next (settle { s with powered := false, alarm := false })
    ∧ (∀ n, s.powered = true → 25 ≤ n → exec (.resetN n) s = .next (settle (fresh s.power.vofsSet (raiseBit Reg.REL_RESET_CAUSE 1 warm))))
    ∧ (inPhase s 0 = true → exec .phaseAEnd s = .next (settle (timed 0 200 (setFld Reg.REL_PWR_STAT 4 3 1 (shown (nvmStatus shadows))))))
    ∧ (∀ (tiles : BitVec 9) (lanes : BitVec 5) (x y : State), inPhase s 1 = true →
        (all → x = timed 1 4000 (setFld Reg.REL_PWR_STAT 4 3 2 (substLanes (substTiles (zeroed
          (setFld Reg.SORT_LANE_FAIL 4 0 lanes.toNat (setFld Reg.SCORE_TILE_FAIL 8 0 tiles.toNat s))))))) →
        (¬all → x = timed 1 1200 (setFld Reg.REL_PWR_STAT 4 3 2 (substLanes (substTiles (zeroed s))))) →
        y = loadImage (buildPools (applySettings x)) →
        (flag y Reg.SCORE_TILE_MAP 14 = false → flag y Reg.SORT_LANE_MAP 9 = false → exec (.phaseBEnd tiles lanes) s = .next (settle y))
        ∧ (flag y Reg.SCORE_TILE_MAP 14 = true ∨ flag y Reg.SORT_LANE_MAP 9 = true → exec (.phaseBEnd tiles lanes) s = .next (settle (failed y))))
    ∧ (∀ v, inPhase s 2 = true → s.power.fwVer = some v →
        exec (.sliceReady false) s = .next (settle (failed s))
        ∧ exec (.sliceReady true) s = .next (settle
            (let x := timed 2 (if flag s Reg.REL_PWR_STAT 7 then 1020000 + bootSum s 2 else if s.power.waking && !s.power.full then 12000 else 20000) s
             let y := crcDone (commitSelf (setFld Reg.REL_PWR_STAT 4 0 0x1C x))
             let z := writeGroups { y with power := { y.power with waking := false } }
             forwardHeld (startElection (((z.links.filter (fun e => e.2.discovered)).map Prod.fst).foldl (fun s l => sendReply l s) z)))))
    ∧ (s.powered = true → ¬pends → exec .aonTick s = .next (settle (asked aon)))
    ∧ (s.powered = true → pends → compares → cfgMismatch s = true → exec .aonTick s = .next (settle (asked (cfgHold aon))))
    ∧ (s.powered = true → pends → (¬compares ∨ cfgMismatch s = false) →
        (s.power.vofsSet = false → exec .aonTick s = .next (settle (asked (applyReg Reg.REL_PWR_CFG (cfgRelease aon)))))
        ∧ (s.power.vofsSet = true → exec .aonTick s = .next (settle
            (let x := applyReg Reg.REL_PWR_CFG (cfgRelease aon)
             applyReg Reg.REL_SND_VOFS { x with power := { x.power with vofsSet := false } }))))

/-- Traffic of no listed kind, and die memory that does not answer. Log entries 1 (nothing outstanding: nothing changes) and 81 (tags; a write to staging
or an aperture has no timeout) are the model's readings. -/
def Obligations.UnlistedTrafficAndDieTimeoutsComplete : Prop :=
  ∀ (s : State),
    (∀ (rsp : Bool) (p : Packet), takesPackets s = true → fenced s = false → noCredit rsp s = false → waits rsp s = false → s.fabQ = [] → srcFenced p s = false → pMcast p = 0 →
      (pCrcOk p = false → exec (.badTypePacket rsp p) s = .next (settle
        (raiseBit Reg.XCHG_FAB_STAT 0 (bump Reg.XCHG_FAB_CRC_CNT 1 (bump64 Reg.XCHG_RX_PKT_LO 1 s)))))
      ∧ (pCrcOk p = true → (pTyp p ∉ [1, 2, 3, 4, 5, 6, 9, 10, 11, 12] ∨ bit (pTyp p) 3 ≠ rsp) → exec (.badTypePacket rsp p) s = .next (settle
        (raiseBit Reg.XCHG_FAB_STAT 2 (bump Reg.XCHG_FAB_DROP_CNT 1 (bump64 Reg.XCHG_RX_PKT_LO 1 s))))))
    ∧ (∀ (l : Nat) (f : Frame), listedFrame f = false → hears s (fCls f) → f.whole = true → f.crc = crc16 (fBytes f) → repeated s l f = false →
        exec (.unlistedBeaconFrame l f) s = .next (settle (bump Reg.XCHG_BCN_STALE_CNT 1 (frameTaken l f s))))
    ∧ (∀ slot, clocked s = true → s.memTags.find? (fun t => t.slot == slot && t.busy) = none → exec (.memReadTimeout slot) s = .next (settle s))
    ∧ (∀ eng (addr : Addr), clocked s = true →
        (runOn s eng = none → exec (.memWriteTimeout eng addr) s = .next (settle s))
        ∧ (∀ u, runOn s eng = some u → inStaging addr = false → addr < Config.apertureBase →
            exec (.memWriteTimeout eng addr) s = .next (settle (raiseKill .poisonedRead (some u.cmd.step) s))))

/-- The reply FIFO (R297), the engines (R31) and the list of unfinished steps (R289) stay within their bounds, whatever the step does. -/
def Obligations.StepKeepsBounds : Prop :=
  ∀ s t : State, s.bounded = true → step s = .next t → t.bounded = true
end

