-- ==== Sys2Proof/Laws/Cells.lean ====
section
/-! SUPPORT. The laws of the sparse maps that hold registers, counters and memory: what a read gives after a write, and that every operation
keeps the one canonical form. -/

namespace Sys2Proof.Machine

section
variable {α : Type} [DecidableEq α] {d : Nat → α} {l m : List (Nat × α)} {lo k j : Nat} {v : α}

/-- A lower bound on the keys can be lowered. -/
theorem cellWfFrom_mono {hi : Nat} (h : cellWfFrom d hi l = true) (hlo : lo ≤ hi) : cellWfFrom d lo l = true := by
  cases l with
  | nil => rfl
  | cons e t =>
    simp only [cellWfFrom, Bool.and_eq_true, decide_eq_true_eq] at h ⊢
    exact ⟨⟨by omega, h.1.2⟩, h.2⟩

/-- Below its lowest key a map reads as unlisted. -/
theorem cellGet_below (h : cellWfFrom d lo l = true) (hk : k < lo) : cellGet d l k = d k := by
  induction l generalizing lo with
  | nil => rfl
  | cons e t ih =>
    simp only [cellWfFrom, Bool.and_eq_true, decide_eq_true_eq] at h
    have : e.1 ≠ k := by omega
    simp only [cellGet, this, if_false]
    exact ih h.2 (by omega)

/-- A read of the key written gives the value written. -/
theorem cellGet_cellSet_same (h : cellWfFrom d lo l = true) : cellGet d (cellSet d l k v) k = v := by
  induction l generalizing lo with
  | nil => simp only [cellSet]; split <;> simp_all [cellGet]
  | cons e t ih =>
    simp only [cellWfFrom, Bool.and_eq_true, decide_eq_true_eq] at h
    simp only [cellSet]
    split
    · have : e.1 ≠ k := by omega
      simpa [cellGet, this] using ih h.2
    · split
      · split
        · rename_i hk hv
          rw [hv]; exact cellGet_below h.2 (by omega)
        · simp [cellGet]
      · split
        · rename_i h1 h2 hv
          rw [hv, cellGet, if_neg h2]; exact cellGet_below h.2 (by omega)
        · simp [cellGet]

/-- A read of another key is unchanged by a write. -/
theorem cellGet_cellSet_ne (hj : j ≠ k) : cellGet d (cellSet d l k v) j = cellGet d l j := by
  induction l with
  | nil =>
    simp only [cellSet]; split
    · rfl
    · simp [cellGet, Ne.symm hj]
  | cons e t ih =>
    simp only [cellSet]
    split
    · simp only [cellGet, ih]
    · split
      · rename_i hk
        have : e.1 ≠ j := by omega
        split <;> simp [cellGet, this, Ne.symm hj]
      · split
        · rfl
        · simp [cellGet, Ne.symm hj]

/-- A write keeps the canonical form. -/
theorem cellSet_wfFrom (h : cellWfFrom d lo l = true) (hk : lo ≤ k) : cellWfFrom d lo (cellSet d l k v) = true := by
  induction l generalizing lo with
  | nil => simp only [cellSet]; split <;> simp_all [cellWfFrom]
  | cons e t ih =>
    simp only [cellWfFrom, Bool.and_eq_true, decide_eq_true_eq] at h
    simp only [cellSet]
    split
    · simp only [cellWfFrom, Bool.and_eq_true, decide_eq_true_eq]
      exact ⟨h.1, ih h.2 (by omega)⟩
    · split
      · split
        · exact cellWfFrom_mono h.2 (by omega)
        · rename_i hk' hv
          simp only [cellWfFrom, Bool.and_eq_true, decide_eq_true_eq]
          exact ⟨⟨hk, hv⟩, hk' ▸ h.2⟩
      · rename_i h1 h2
        split
        · simp only [cellWfFrom, Bool.and_eq_true, decide_eq_true_eq]; exact h
        · rename_i hv
          simp only [cellWfFrom, Bool.and_eq_true, decide_eq_true_eq]
          exact ⟨⟨hk, hv⟩, ⟨by omega, h.1.2⟩, h.2⟩

/-- A write keeps the canonical form of a whole map. -/
theorem cellSet_wf (h : cellWf d l = true) : cellWf d (cellSet d l k v) = true := cellSet_wfFrom h (Nat.zero_le k)

/-- The canonical form of any entries is canonical. -/
theorem cellCanon_wf (d : Nat → α) (l : List (Nat × α)) : cellWf d (cellCanon d l) = true := by
  induction l with
  | nil => rfl
  | cons e t ih => exact cellSet_wf ih

/-- Bringing a map into canonical form changes no reading. -/
theorem cellGet_cellCanon (d : Nat → α) (l : List (Nat × α)) (k : Nat) : cellGet d (cellCanon d l) k = cellGet d l k := by
  induction l with
  | nil => rfl
  | cons e t ih =>
    show cellGet d (cellSet d (cellCanon d t) e.1 e.2) k = cellGet d (e :: t) k
    by_cases hk : e.1 = k
    · subst hk; rw [cellGet_cellSet_same (cellCanon_wf d t)]; simp [cellGet]
    · rw [cellGet_cellSet_ne (Ne.symm hk), ih]; simp [cellGet, hk]

/-- Canonical maps that read the same from a key on are the same entries. -/
theorem cell_extFrom (hl : cellWfFrom d lo l = true) (hm : cellWfFrom d lo m = true) (h : ∀ k, cellGet d l k = cellGet d m k) : l = m := by
  induction l generalizing lo m with
  | nil =>
    cases m with
    | nil => rfl
    | cons e t =>
      simp only [cellWfFrom, Bool.and_eq_true, decide_eq_true_eq] at hm
      have := h e.1
      simp only [cellGet, if_true] at this
      exact absurd this.symm hm.1.2
  | cons a s ih =>
    simp only [cellWfFrom, Bool.and_eq_true, decide_eq_true_eq] at hl
    cases m with
    | nil =>
      have := h a.1
      simp only [cellGet, if_true] at this
      exact absurd this hl.1.2
    | cons b t =>
      have hm' := hm
      simp only [cellWfFrom, Bool.and_eq_true, decide_eq_true_eq] at hm
      have key : a.1 = b.1 := by
        rcases Nat.lt_trichotomy a.1 b.1 with hlt | heq | hgt
        · have := h a.1
          rw [cellGet_below (l := b :: t) (lo := b.1) (by
            simp only [cellWfFrom, Bool.and_eq_true, decide_eq_true_eq]; exact ⟨⟨Nat.le_refl _, hm.1.2⟩, hm.2⟩) hlt] at this
          simp only [cellGet, if_true] at this
          exact absurd this hl.1.2
        · exact heq
        · have := h b.1
          rw [cellGet_below (l := a :: s) (lo := a.1) (by
            simp only [cellWfFrom, Bool.and_eq_true, decide_eq_true_eq]; exact ⟨⟨Nat.le_refl _, hl.1.2⟩, hl.2⟩) hgt] at this
          simp only [cellGet, if_true] at this
          exact absurd this.symm hm.1.2
      have val : a.2 = b.2 := by
        have := h a.1
        simpa [cellGet, key] using this
      have rest : s = t := by
        refine ih hl.2 (key ▸ hm.2) (fun k => ?_)
        by_cases hk : k < a.1 + 1
        · rw [cellGet_below hl.2 hk, cellGet_below (key ▸ hm.2 : cellWfFrom d (a.1 + 1) t = true) hk]
        · have h1 : a.1 ≠ k := by omega
          have := h k
          simpa [cellGet, h1, ← key] using this
      rw [Prod.ext key val, rest]

/-- Canonical maps that read the same are equal data. -/
theorem cell_ext (hl : cellWf d l = true) (hm : cellWf d m = true) (h : ∀ k, cellGet d l k = cellGet d m k) : l = m := cell_extFrom hl hm h

/-- A canonical map is its own canonical form. -/
theorem cellCanon_of_wf (h : cellWf d l = true) : cellCanon d l = l :=
  cell_ext (cellCanon_wf d l) h (cellGet_cellCanon d l)

end

end Sys2Proof.Machine
end

