-- ==== Sys2Proof/Laws/State.lean ====
section
/-! SUPPORT. One lemma per field for each basic update of the state: the field is as before. -/

namespace Sys2Proof.Machine.State

variable (s : State)

/-! `setReg` changes only live. -/

@[simp] theorem setReg_staged (off v : Nat) : (setReg off v s).staged = s.staged := rfl
@[simp] theorem setReg_refused (off v : Nat) : (setReg off v s).refused = s.refused := rfl
@[simp] theorem setReg_spareHeld (off v : Nat) : (setReg off v s).spareHeld = s.spareHeld := rfl
@[simp] theorem setReg_cfgBusy (off v : Nat) : (setReg off v s).cfgBusy = s.cfgBusy := rfl
@[simp] theorem setReg_da (off v : Nat) : (setReg off v s).da = s.da := rfl
@[simp] theorem setReg_powered (off v : Nat) : (setReg off v s).powered = s.powered := rfl
@[simp] theorem setReg_alarm (off v : Nat) : (setReg off v s).alarm = s.alarm := rfl
@[simp] theorem setReg_cnt (off v : Nat) : (setReg off v s).cnt = s.cnt := rfl
@[simp] theorem setReg_cntAlloc (off v : Nat) : (setReg off v s).cntAlloc = s.cntAlloc := rfl
@[simp] theorem setReg_cpools (off v : Nat) : (setReg off v s).cpools = s.cpools := rfl
@[simp] theorem setReg_ringq (off v : Nat) : (setReg off v s).ringq = s.ringq := rfl
@[simp] theorem setReg_ringTail (off v : Nat) : (setReg off v s).ringTail = s.ringTail := rfl
@[simp] theorem setReg_running (off v : Nat) : (setReg off v s).running = s.running := rfl
@[simp] theorem setReg_steps (off v : Nat) : (setReg off v s).steps = s.steps := rfl
@[simp] theorem setReg_finished (off v : Nat) : (setReg off v s).finished = s.finished := rfl
@[simp] theorem setReg_nextSeq (off v : Nat) : (setReg off v s).nextSeq = s.nextSeq := rfl
@[simp] theorem setReg_heldKill (off v : Nat) : (setReg off v s).heldKill = s.heldKill := rfl
@[simp] theorem setReg_heldKg (off v : Nat) : (setReg off v s).heldKg = s.heldKg := rfl
@[simp] theorem setReg_killDone (off v : Nat) : (setReg off v s).killDone = s.killDone := rfl
@[simp] theorem setReg_abortAcks (off v : Nat) : (setReg off v s).abortAcks = s.abortAcks := rfl
@[simp] theorem setReg_aborts (off v : Nat) : (setReg off v s).aborts = s.aborts := rfl
@[simp] theorem setReg_pub (off v : Nat) : (setReg off v s).pub = s.pub := rfl
@[simp] theorem setReg_pubBufs (off v : Nat) : (setReg off v s).pubBufs = s.pubBufs := rfl
@[simp] theorem setReg_ctrlWait (off v : Nat) : (setReg off v s).ctrlWait = s.ctrlWait := rfl
@[simp] theorem setReg_mboxCmd (off v : Nat) : (setReg off v s).mboxCmd = s.mboxCmd := rfl
@[simp] theorem setReg_mboxPkt (off v : Nat) : (setReg off v s).mboxPkt = s.mboxPkt := rfl
@[simp] theorem setReg_taking (off v : Nat) : (setReg off v s).taking = s.taking := rfl
@[simp] theorem setReg_longOp (off v : Nat) : (setReg off v s).longOp = s.longOp := rfl
@[simp] theorem setReg_replies (off v : Nat) : (setReg off v s).replies = s.replies := rfl
@[simp] theorem setReg_replyq (off v : Nat) : (setReg off v s).replyq = s.replyq := rfl
@[simp] theorem setReg_mem (off v : Nat) : (setReg off v s).mem = s.mem := rfl
@[simp] theorem setReg_poison (off v : Nat) : (setReg off v s).poison = s.poison := rfl
@[simp] theorem setReg_ueFrames (off v : Nat) : (setReg off v s).ueFrames = s.ueFrames := rfl
@[simp] theorem setReg_retired (off v : Nat) : (setReg off v s).retired = s.retired := rfl
@[simp] theorem setReg_scrubPos (off v : Nat) : (setReg off v s).scrubPos = s.scrubPos := rfl
@[simp] theorem setReg_memTags (off v : Nat) : (setReg off v s).memTags = s.memTags := rfl
@[simp] theorem setReg_imgFix (off v : Nat) : (setReg off v s).imgFix = s.imgFix := rfl
@[simp] theorem setReg_inQ (off v : Nat) : (setReg off v s).inQ = s.inQ := rfl
@[simp] theorem setReg_fencedMore (off v : Nat) : (setReg off v s).fencedMore = s.fencedMore := rfl
@[simp] theorem setReg_folded (off v : Nat) : (setReg off v s).folded = s.folded := rfl
@[simp] theorem setReg_faultGate (off v : Nat) : (setReg off v s).faultGate = s.faultGate := rfl
@[simp] theorem setReg_pools (off v : Nat) : (setReg off v s).pools = s.pools := rfl
@[simp] theorem setReg_windows (off v : Nat) : (setReg off v s).windows = s.windows := rfl
@[simp] theorem setReg_log (off v : Nat) : (setReg off v s).log = s.log := rfl
@[simp] theorem setReg_part (off v : Nat) : (setReg off v s).part = s.part := rfl
@[simp] theorem setReg_models (off v : Nat) : (setReg off v s).models = s.models := rfl
@[simp] theorem setReg_switchq (off v : Nat) : (setReg off v s).switchq = s.switchq := rfl
@[simp] theorem setReg_switchRun (off v : Nat) : (setReg off v s).switchRun = s.switchRun := rfl
@[simp] theorem setReg_loops (off v : Nat) : (setReg off v s).loops = s.loops := rfl
@[simp] theorem setReg_acct (off v : Nat) : (setReg off v s).acct = s.acct := rfl
@[simp] theorem setReg_fab (off v : Nat) : (setReg off v s).fab = s.fab := rfl
@[simp] theorem setReg_memb (off v : Nat) : (setReg off v s).memb = s.memb := rfl
@[simp] theorem setReg_ll (off v : Nat) : (setReg off v s).ll = s.ll := rfl
@[simp] theorem setReg_llOwners (off v : Nat) : (setReg off v s).llOwners = s.llOwners := rfl
@[simp] theorem setReg_llReqs (off v : Nat) : (setReg off v s).llReqs = s.llReqs := rfl
@[simp] theorem setReg_homes (off v : Nat) : (setReg off v s).homes = s.homes := rfl
@[simp] theorem setReg_ownAcks (off v : Nat) : (setReg off v s).ownAcks = s.ownAcks := rfl
@[simp] theorem setReg_ing (off v : Nat) : (setReg off v s).ing = s.ing := rfl
@[simp] theorem setReg_halves (off v : Nat) : (setReg off v s).halves = s.halves := rfl
@[simp] theorem setReg_work (off v : Nat) : (setReg off v s).work = s.work := rfl
@[simp] theorem setReg_acks (off v : Nat) : (setReg off v s).acks = s.acks := rfl
@[simp] theorem setReg_hold (off v : Nat) : (setReg off v s).hold = s.hold := rfl
@[simp] theorem setReg_ejectQ (off v : Nat) : (setReg off v s).ejectQ = s.ejectQ := rfl
@[simp] theorem setReg_rdHeld (off v : Nat) : (setReg off v s).rdHeld = s.rdHeld := rfl
@[simp] theorem setReg_colls (off v : Nat) : (setReg off v s).colls = s.colls := rfl
@[simp] theorem setReg_fabQ (off v : Nat) : (setReg off v s).fabQ = s.fabQ := rfl
@[simp] theorem setReg_injQ (off v : Nat) : (setReg off v s).injQ = s.injQ := rfl
@[simp] theorem setReg_verA (off v : Nat) : (setReg off v s).verA = s.verA := rfl
@[simp] theorem setReg_verB (off v : Nat) : (setReg off v s).verB = s.verB := rfl
@[simp] theorem setReg_flip (off v : Nat) : (setReg off v s).flip = s.flip := rfl
@[simp] theorem setReg_links (off v : Nat) : (setReg off v s).links = s.links := rfl
@[simp] theorem setReg_groups (off v : Nat) : (setReg off v s).groups = s.groups := rfl
@[simp] theorem setReg_insts (off v : Nat) : (setReg off v s).insts = s.insts := rfl
@[simp] theorem setReg_elect (off v : Nat) : (setReg off v s).elect = s.elect := rfl
@[simp] theorem setReg_fogs (off v : Nat) : (setReg off v s).fogs = s.fogs := rfl
@[simp] theorem setReg_recov (off v : Nat) : (setReg off v s).recov = s.recov := rfl
@[simp] theorem setReg_cap (off v : Nat) : (setReg off v s).cap = s.cap := rfl
@[simp] theorem setReg_power (off v : Nat) : (setReg off v s).power = s.power := rfl
@[simp] theorem setReg_nvm (off v : Nat) : (setReg off v s).nvm = s.nvm := rfl
@[simp] theorem setReg_out (off v : Nat) : (setReg off v s).out = s.out := rfl
@[simp] theorem setReg_free (off v : Nat) : (setReg off v s).free = s.free := rfl
@[simp] theorem setReg_clock (off v : Nat) : (setReg off v s).clock = s.clock := rfl
@[simp] theorem setReg_pending (off v : Nat) : (setReg off v s).pending = s.pending := rfl

/-! `setStg` changes only staged. -/

@[simp] theorem setStg_live (off v : Nat) : (setStg off v s).live = s.live := rfl
@[simp] theorem setStg_refused (off v : Nat) : (setStg off v s).refused = s.refused := rfl
@[simp] theorem setStg_spareHeld (off v : Nat) : (setStg off v s).spareHeld = s.spareHeld := rfl
@[simp] theorem setStg_cfgBusy (off v : Nat) : (setStg off v s).cfgBusy = s.cfgBusy := rfl
@[simp] theorem setStg_da (off v : Nat) : (setStg off v s).da = s.da := rfl
@[simp] theorem setStg_powered (off v : Nat) : (setStg off v s).powered = s.powered := rfl
@[simp] theorem setStg_alarm (off v : Nat) : (setStg off v s).alarm = s.alarm := rfl
@[simp] theorem setStg_cnt (off v : Nat) : (setStg off v s).cnt = s.cnt := rfl
@[simp] theorem setStg_cntAlloc (off v : Nat) : (setStg off v s).cntAlloc = s.cntAlloc := rfl
@[simp] theorem setStg_cpools (off v : Nat) : (setStg off v s).cpools = s.cpools := rfl
@[simp] theorem setStg_ringq (off v : Nat) : (setStg off v s).ringq = s.ringq := rfl
@[simp] theorem setStg_ringTail (off v : Nat) : (setStg off v s).ringTail = s.ringTail := rfl
@[simp] theorem setStg_running (off v : Nat) : (setStg off v s).running = s.running := rfl
@[simp] theorem setStg_steps (off v : Nat) : (setStg off v s).steps = s.steps := rfl
@[simp] theorem setStg_finished (off v : Nat) : (setStg off v s).finished = s.finished := rfl
@[simp] theorem setStg_nextSeq (off v : Nat) : (setStg off v s).nextSeq = s.nextSeq := rfl
@[simp] theorem setStg_heldKill (off v : Nat) : (setStg off v s).heldKill = s.heldKill := rfl
@[simp] theorem setStg_heldKg (off v : Nat) : (setStg off v s).heldKg = s.heldKg := rfl
@[simp] theorem setStg_killDone (off v : Nat) : (setStg off v s).killDone = s.killDone := rfl
@[simp] theorem setStg_abortAcks (off v : Nat) : (setStg off v s).abortAcks = s.abortAcks := rfl
@[simp] theorem setStg_aborts (off v : Nat) : (setStg off v s).aborts = s.aborts := rfl
@[simp] theorem setStg_pub (off v : Nat) : (setStg off v s).pub = s.pub := rfl
@[simp] theorem setStg_pubBufs (off v : Nat) : (setStg off v s).pubBufs = s.pubBufs := rfl
@[simp] theorem setStg_ctrlWait (off v : Nat) : (setStg off v s).ctrlWait = s.ctrlWait := rfl
@[simp] theorem setStg_mboxCmd (off v : Nat) : (setStg off v s).mboxCmd = s.mboxCmd := rfl
@[simp] theorem setStg_mboxPkt (off v : Nat) : (setStg off v s).mboxPkt = s.mboxPkt := rfl
@[simp] theorem setStg_taking (off v : Nat) : (setStg off v s).taking = s.taking := rfl
@[simp] theorem setStg_longOp (off v : Nat) : (setStg off v s).longOp = s.longOp := rfl
@[simp] theorem setStg_replies (off v : Nat) : (setStg off v s).replies = s.replies := rfl
@[simp] theorem setStg_replyq (off v : Nat) : (setStg off v s).replyq = s.replyq := rfl
@[simp] theorem setStg_mem (off v : Nat) : (setStg off v s).mem = s.mem := rfl
@[simp] theorem setStg_poison (off v : Nat) : (setStg off v s).poison = s.poison := rfl
@[simp] theorem setStg_ueFrames (off v : Nat) : (setStg off v s).ueFrames = s.ueFrames := rfl
@[simp] theorem setStg_retired (off v : Nat) : (setStg off v s).retired = s.retired := rfl
@[simp] theorem setStg_scrubPos (off v : Nat) : (setStg off v s).scrubPos = s.scrubPos := rfl
@[simp] theorem setStg_memTags (off v : Nat) : (setStg off v s).memTags = s.memTags := rfl
@[simp] theorem setStg_imgFix (off v : Nat) : (setStg off v s).imgFix = s.imgFix := rfl
@[simp] theorem setStg_inQ (off v : Nat) : (setStg off v s).inQ = s.inQ := rfl
@[simp] theorem setStg_fencedMore (off v : Nat) : (setStg off v s).fencedMore = s.fencedMore := rfl
@[simp] theorem setStg_folded (off v : Nat) : (setStg off v s).folded = s.folded := rfl
@[simp] theorem setStg_faultGate (off v : Nat) : (setStg off v s).faultGate = s.faultGate := rfl
@[simp] theorem setStg_pools (off v : Nat) : (setStg off v s).pools = s.pools := rfl
@[simp] theorem setStg_windows (off v : Nat) : (setStg off v s).windows = s.windows := rfl
@[simp] theorem setStg_log (off v : Nat) : (setStg off v s).log = s.log := rfl
@[simp] theorem setStg_part (off v : Nat) : (setStg off v s).part = s.part := rfl
@[simp] theorem setStg_models (off v : Nat) : (setStg off v s).models = s.models := rfl
@[simp] theorem setStg_switchq (off v : Nat) : (setStg off v s).switchq = s.switchq := rfl
@[simp] theorem setStg_switchRun (off v : Nat) : (setStg off v s).switchRun = s.switchRun := rfl
@[simp] theorem setStg_loops (off v : Nat) : (setStg off v s).loops = s.loops := rfl
@[simp] theorem setStg_acct (off v : Nat) : (setStg off v s).acct = s.acct := rfl
@[simp] theorem setStg_fab (off v : Nat) : (setStg off v s).fab = s.fab := rfl
@[simp] theorem setStg_memb (off v : Nat) : (setStg off v s).memb = s.memb := rfl
@[simp] theorem setStg_ll (off v : Nat) : (setStg off v s).ll = s.ll := rfl
@[simp] theorem setStg_llOwners (off v : Nat) : (setStg off v s).llOwners = s.llOwners := rfl
@[simp] theorem setStg_llReqs (off v : Nat) : (setStg off v s).llReqs = s.llReqs := rfl
@[simp] theorem setStg_homes (off v : Nat) : (setStg off v s).homes = s.homes := rfl
@[simp] theorem setStg_ownAcks (off v : Nat) : (setStg off v s).ownAcks = s.ownAcks := rfl
@[simp] theorem setStg_ing (off v : Nat) : (setStg off v s).ing = s.ing := rfl
@[simp] theorem setStg_halves (off v : Nat) : (setStg off v s).halves = s.halves := rfl
@[simp] theorem setStg_work (off v : Nat) : (setStg off v s).work = s.work := rfl
@[simp] theorem setStg_acks (off v : Nat) : (setStg off v s).acks = s.acks := rfl
@[simp] theorem setStg_hold (off v : Nat) : (setStg off v s).hold = s.hold := rfl
@[simp] theorem setStg_ejectQ (off v : Nat) : (setStg off v s).ejectQ = s.ejectQ := rfl
@[simp] theorem setStg_rdHeld (off v : Nat) : (setStg off v s).rdHeld = s.rdHeld := rfl
@[simp] theorem setStg_colls (off v : Nat) : (setStg off v s).colls = s.colls := rfl
@[simp] theorem setStg_fabQ (off v : Nat) : (setStg off v s).fabQ = s.fabQ := rfl
@[simp] theorem setStg_injQ (off v : Nat) : (setStg off v s).injQ = s.injQ := rfl
@[simp] theorem setStg_verA (off v : Nat) : (setStg off v s).verA = s.verA := rfl
@[simp] theorem setStg_verB (off v : Nat) : (setStg off v s).verB = s.verB := rfl
@[simp] theorem setStg_flip (off v : Nat) : (setStg off v s).flip = s.flip := rfl
@[simp] theorem setStg_links (off v : Nat) : (setStg off v s).links = s.links := rfl
@[simp] theorem setStg_groups (off v : Nat) : (setStg off v s).groups = s.groups := rfl
@[simp] theorem setStg_insts (off v : Nat) : (setStg off v s).insts = s.insts := rfl
@[simp] theorem setStg_elect (off v : Nat) : (setStg off v s).elect = s.elect := rfl
@[simp] theorem setStg_fogs (off v : Nat) : (setStg off v s).fogs = s.fogs := rfl
@[simp] theorem setStg_recov (off v : Nat) : (setStg off v s).recov = s.recov := rfl
@[simp] theorem setStg_cap (off v : Nat) : (setStg off v s).cap = s.cap := rfl
@[simp] theorem setStg_power (off v : Nat) : (setStg off v s).power = s.power := rfl
@[simp] theorem setStg_nvm (off v : Nat) : (setStg off v s).nvm = s.nvm := rfl
@[simp] theorem setStg_out (off v : Nat) : (setStg off v s).out = s.out := rfl
@[simp] theorem setStg_free (off v : Nat) : (setStg off v s).free = s.free := rfl
@[simp] theorem setStg_clock (off v : Nat) : (setStg off v s).clock = s.clock := rfl
@[simp] theorem setStg_pending (off v : Nat) : (setStg off v s).pending = s.pending := rfl

/-! `setCnt` changes only cnt. -/

@[simp] theorem setCnt_live (n : Nat) (v : W32) : (setCnt n v s).live = s.live := rfl
@[simp] theorem setCnt_staged (n : Nat) (v : W32) : (setCnt n v s).staged = s.staged := rfl
@[simp] theorem setCnt_refused (n : Nat) (v : W32) : (setCnt n v s).refused = s.refused := rfl
@[simp] theorem setCnt_spareHeld (n : Nat) (v : W32) : (setCnt n v s).spareHeld = s.spareHeld := rfl
@[simp] theorem setCnt_cfgBusy (n : Nat) (v : W32) : (setCnt n v s).cfgBusy = s.cfgBusy := rfl
@[simp] theorem setCnt_da (n : Nat) (v : W32) : (setCnt n v s).da = s.da := rfl
@[simp] theorem setCnt_powered (n : Nat) (v : W32) : (setCnt n v s).powered = s.powered := rfl
@[simp] theorem setCnt_alarm (n : Nat) (v : W32) : (setCnt n v s).alarm = s.alarm := rfl
@[simp] theorem setCnt_cntAlloc (n : Nat) (v : W32) : (setCnt n v s).cntAlloc = s.cntAlloc := rfl
@[simp] theorem setCnt_cpools (n : Nat) (v : W32) : (setCnt n v s).cpools = s.cpools := rfl
@[simp] theorem setCnt_ringq (n : Nat) (v : W32) : (setCnt n v s).ringq = s.ringq := rfl
@[simp] theorem setCnt_ringTail (n : Nat) (v : W32) : (setCnt n v s).ringTail = s.ringTail := rfl
@[simp] theorem setCnt_running (n : Nat) (v : W32) : (setCnt n v s).running = s.running := rfl
@[simp] theorem setCnt_steps (n : Nat) (v : W32) : (setCnt n v s).steps = s.steps := rfl
@[simp] theorem setCnt_finished (n : Nat) (v : W32) : (setCnt n v s).finished = s.finished := rfl
@[simp] theorem setCnt_nextSeq (n : Nat) (v : W32) : (setCnt n v s).nextSeq = s.nextSeq := rfl
@[simp] theorem setCnt_heldKill (n : Nat) (v : W32) : (setCnt n v s).heldKill = s.heldKill := rfl
@[simp] theorem setCnt_heldKg (n : Nat) (v : W32) : (setCnt n v s).heldKg = s.heldKg := rfl
@[simp] theorem setCnt_killDone (n : Nat) (v : W32) : (setCnt n v s).killDone = s.killDone := rfl
@[simp] theorem setCnt_abortAcks (n : Nat) (v : W32) : (setCnt n v s).abortAcks = s.abortAcks := rfl
@[simp] theorem setCnt_aborts (n : Nat) (v : W32) : (setCnt n v s).aborts = s.aborts := rfl
@[simp] theorem setCnt_pub (n : Nat) (v : W32) : (setCnt n v s).pub = s.pub := rfl
@[simp] theorem setCnt_pubBufs (n : Nat) (v : W32) : (setCnt n v s).pubBufs = s.pubBufs := rfl
@[simp] theorem setCnt_ctrlWait (n : Nat) (v : W32) : (setCnt n v s).ctrlWait = s.ctrlWait := rfl
@[simp] theorem setCnt_mboxCmd (n : Nat) (v : W32) : (setCnt n v s).mboxCmd = s.mboxCmd := rfl
@[simp] theorem setCnt_mboxPkt (n : Nat) (v : W32) : (setCnt n v s).mboxPkt = s.mboxPkt := rfl
@[simp] theorem setCnt_taking (n : Nat) (v : W32) : (setCnt n v s).taking = s.taking := rfl
@[simp] theorem setCnt_longOp (n : Nat) (v : W32) : (setCnt n v s).longOp = s.longOp := rfl
@[simp] theorem setCnt_replies (n : Nat) (v : W32) : (setCnt n v s).replies = s.replies := rfl
@[simp] theorem setCnt_replyq (n : Nat) (v : W32) : (setCnt n v s).replyq = s.replyq := rfl
@[simp] theorem setCnt_mem (n : Nat) (v : W32) : (setCnt n v s).mem = s.mem := rfl
@[simp] theorem setCnt_poison (n : Nat) (v : W32) : (setCnt n v s).poison = s.poison := rfl
@[simp] theorem setCnt_ueFrames (n : Nat) (v : W32) : (setCnt n v s).ueFrames = s.ueFrames := rfl
@[simp] theorem setCnt_retired (n : Nat) (v : W32) : (setCnt n v s).retired = s.retired := rfl
@[simp] theorem setCnt_scrubPos (n : Nat) (v : W32) : (setCnt n v s).scrubPos = s.scrubPos := rfl
@[simp] theorem setCnt_memTags (n : Nat) (v : W32) : (setCnt n v s).memTags = s.memTags := rfl
@[simp] theorem setCnt_imgFix (n : Nat) (v : W32) : (setCnt n v s).imgFix = s.imgFix := rfl
@[simp] theorem setCnt_inQ (n : Nat) (v : W32) : (setCnt n v s).inQ = s.inQ := rfl
@[simp] theorem setCnt_fencedMore (n : Nat) (v : W32) : (setCnt n v s).fencedMore = s.fencedMore := rfl
@[simp] theorem setCnt_folded (n : Nat) (v : W32) : (setCnt n v s).folded = s.folded := rfl
@[simp] theorem setCnt_faultGate (n : Nat) (v : W32) : (setCnt n v s).faultGate = s.faultGate := rfl
@[simp] theorem setCnt_pools (n : Nat) (v : W32) : (setCnt n v s).pools = s.pools := rfl
@[simp] theorem setCnt_windows (n : Nat) (v : W32) : (setCnt n v s).windows = s.windows := rfl
@[simp] theorem setCnt_log (n : Nat) (v : W32) : (setCnt n v s).log = s.log := rfl
@[simp] theorem setCnt_part (n : Nat) (v : W32) : (setCnt n v s).part = s.part := rfl
@[simp] theorem setCnt_models (n : Nat) (v : W32) : (setCnt n v s).models = s.models := rfl
@[simp] theorem setCnt_switchq (n : Nat) (v : W32) : (setCnt n v s).switchq = s.switchq := rfl
@[simp] theorem setCnt_switchRun (n : Nat) (v : W32) : (setCnt n v s).switchRun = s.switchRun := rfl
@[simp] theorem setCnt_loops (n : Nat) (v : W32) : (setCnt n v s).loops = s.loops := rfl
@[simp] theorem setCnt_acct (n : Nat) (v : W32) : (setCnt n v s).acct = s.acct := rfl
@[simp] theorem setCnt_fab (n : Nat) (v : W32) : (setCnt n v s).fab = s.fab := rfl
@[simp] theorem setCnt_memb (n : Nat) (v : W32) : (setCnt n v s).memb = s.memb := rfl
@[simp] theorem setCnt_ll (n : Nat) (v : W32) : (setCnt n v s).ll = s.ll := rfl
@[simp] theorem setCnt_llOwners (n : Nat) (v : W32) : (setCnt n v s).llOwners = s.llOwners := rfl
@[simp] theorem setCnt_llReqs (n : Nat) (v : W32) : (setCnt n v s).llReqs = s.llReqs := rfl
@[simp] theorem setCnt_homes (n : Nat) (v : W32) : (setCnt n v s).homes = s.homes := rfl
@[simp] theorem setCnt_ownAcks (n : Nat) (v : W32) : (setCnt n v s).ownAcks = s.ownAcks := rfl
@[simp] theorem setCnt_ing (n : Nat) (v : W32) : (setCnt n v s).ing = s.ing := rfl
@[simp] theorem setCnt_halves (n : Nat) (v : W32) : (setCnt n v s).halves = s.halves := rfl
@[simp] theorem setCnt_work (n : Nat) (v : W32) : (setCnt n v s).work = s.work := rfl
@[simp] theorem setCnt_acks (n : Nat) (v : W32) : (setCnt n v s).acks = s.acks := rfl
@[simp] theorem setCnt_hold (n : Nat) (v : W32) : (setCnt n v s).hold = s.hold := rfl
@[simp] theorem setCnt_ejectQ (n : Nat) (v : W32) : (setCnt n v s).ejectQ = s.ejectQ := rfl
@[simp] theorem setCnt_rdHeld (n : Nat) (v : W32) : (setCnt n v s).rdHeld = s.rdHeld := rfl
@[simp] theorem setCnt_colls (n : Nat) (v : W32) : (setCnt n v s).colls = s.colls := rfl
@[simp] theorem setCnt_fabQ (n : Nat) (v : W32) : (setCnt n v s).fabQ = s.fabQ := rfl
@[simp] theorem setCnt_injQ (n : Nat) (v : W32) : (setCnt n v s).injQ = s.injQ := rfl
@[simp] theorem setCnt_verA (n : Nat) (v : W32) : (setCnt n v s).verA = s.verA := rfl
@[simp] theorem setCnt_verB (n : Nat) (v : W32) : (setCnt n v s).verB = s.verB := rfl
@[simp] theorem setCnt_flip (n : Nat) (v : W32) : (setCnt n v s).flip = s.flip := rfl
@[simp] theorem setCnt_links (n : Nat) (v : W32) : (setCnt n v s).links = s.links := rfl
@[simp] theorem setCnt_groups (n : Nat) (v : W32) : (setCnt n v s).groups = s.groups := rfl
@[simp] theorem setCnt_insts (n : Nat) (v : W32) : (setCnt n v s).insts = s.insts := rfl
@[simp] theorem setCnt_elect (n : Nat) (v : W32) : (setCnt n v s).elect = s.elect := rfl
@[simp] theorem setCnt_fogs (n : Nat) (v : W32) : (setCnt n v s).fogs = s.fogs := rfl
@[simp] theorem setCnt_recov (n : Nat) (v : W32) : (setCnt n v s).recov = s.recov := rfl
@[simp] theorem setCnt_cap (n : Nat) (v : W32) : (setCnt n v s).cap = s.cap := rfl
@[simp] theorem setCnt_power (n : Nat) (v : W32) : (setCnt n v s).power = s.power := rfl
@[simp] theorem setCnt_nvm (n : Nat) (v : W32) : (setCnt n v s).nvm = s.nvm := rfl
@[simp] theorem setCnt_out (n : Nat) (v : W32) : (setCnt n v s).out = s.out := rfl
@[simp] theorem setCnt_free (n : Nat) (v : W32) : (setCnt n v s).free = s.free := rfl
@[simp] theorem setCnt_clock (n : Nat) (v : W32) : (setCnt n v s).clock = s.clock := rfl
@[simp] theorem setCnt_pending (n : Nat) (v : W32) : (setCnt n v s).pending = s.pending := rfl

/-! `tick` changes only free. -/

@[simp] theorem tick_live : (tick s).live = s.live := rfl
@[simp] theorem tick_staged : (tick s).staged = s.staged := rfl
@[simp] theorem tick_refused : (tick s).refused = s.refused := rfl
@[simp] theorem tick_spareHeld : (tick s).spareHeld = s.spareHeld := rfl
@[simp] theorem tick_cfgBusy : (tick s).cfgBusy = s.cfgBusy := rfl
@[simp] theorem tick_da : (tick s).da = s.da := rfl
@[simp] theorem tick_powered : (tick s).powered = s.powered := rfl
@[simp] theorem tick_alarm : (tick s).alarm = s.alarm := rfl
@[simp] theorem tick_cnt : (tick s).cnt = s.cnt := rfl
@[simp] theorem tick_cntAlloc : (tick s).cntAlloc = s.cntAlloc := rfl
@[simp] theorem tick_cpools : (tick s).cpools = s.cpools := rfl
@[simp] theorem tick_ringq : (tick s).ringq = s.ringq := rfl
@[simp] theorem tick_ringTail : (tick s).ringTail = s.ringTail := rfl
@[simp] theorem tick_running : (tick s).running = s.running := rfl
@[simp] theorem tick_steps : (tick s).steps = s.steps := rfl
@[simp] theorem tick_finished : (tick s).finished = s.finished := rfl
@[simp] theorem tick_nextSeq : (tick s).nextSeq = s.nextSeq := rfl
@[simp] theorem tick_heldKill : (tick s).heldKill = s.heldKill := rfl
@[simp] theorem tick_heldKg : (tick s).heldKg = s.heldKg := rfl
@[simp] theorem tick_killDone : (tick s).killDone = s.killDone := rfl
@[simp] theorem tick_abortAcks : (tick s).abortAcks = s.abortAcks := rfl
@[simp] theorem tick_aborts : (tick s).aborts = s.aborts := rfl
@[simp] theorem tick_pub : (tick s).pub = s.pub := rfl
@[simp] theorem tick_pubBufs : (tick s).pubBufs = s.pubBufs := rfl
@[simp] theorem tick_ctrlWait : (tick s).ctrlWait = s.ctrlWait := rfl
@[simp] theorem tick_mboxCmd : (tick s).mboxCmd = s.mboxCmd := rfl
@[simp] theorem tick_mboxPkt : (tick s).mboxPkt = s.mboxPkt := rfl
@[simp] theorem tick_taking : (tick s).taking = s.taking := rfl
@[simp] theorem tick_longOp : (tick s).longOp = s.longOp := rfl
@[simp] theorem tick_replies : (tick s).replies = s.replies := rfl
@[simp] theorem tick_replyq : (tick s).replyq = s.replyq := rfl
@[simp] theorem tick_mem : (tick s).mem = s.mem := rfl
@[simp] theorem tick_poison : (tick s).poison = s.poison := rfl
@[simp] theorem tick_ueFrames : (tick s).ueFrames = s.ueFrames := rfl
@[simp] theorem tick_retired : (tick s).retired = s.retired := rfl
@[simp] theorem tick_scrubPos : (tick s).scrubPos = s.scrubPos := rfl
@[simp] theorem tick_memTags : (tick s).memTags = s.memTags := rfl
@[simp] theorem tick_imgFix : (tick s).imgFix = s.imgFix := rfl
@[simp] theorem tick_inQ : (tick s).inQ = s.inQ := rfl
@[simp] theorem tick_fencedMore : (tick s).fencedMore = s.fencedMore := rfl
@[simp] theorem tick_folded : (tick s).folded = s.folded := rfl
@[simp] theorem tick_faultGate : (tick s).faultGate = s.faultGate := rfl
@[simp] theorem tick_pools : (tick s).pools = s.pools := rfl
@[simp] theorem tick_windows : (tick s).windows = s.windows := rfl
@[simp] theorem tick_log : (tick s).log = s.log := rfl
@[simp] theorem tick_part : (tick s).part = s.part := rfl
@[simp] theorem tick_models : (tick s).models = s.models := rfl
@[simp] theorem tick_switchq : (tick s).switchq = s.switchq := rfl
@[simp] theorem tick_switchRun : (tick s).switchRun = s.switchRun := rfl
@[simp] theorem tick_loops : (tick s).loops = s.loops := rfl
@[simp] theorem tick_acct : (tick s).acct = s.acct := rfl
@[simp] theorem tick_fab : (tick s).fab = s.fab := rfl
@[simp] theorem tick_memb : (tick s).memb = s.memb := rfl
@[simp] theorem tick_ll : (tick s).ll = s.ll := rfl
@[simp] theorem tick_llOwners : (tick s).llOwners = s.llOwners := rfl
@[simp] theorem tick_llReqs : (tick s).llReqs = s.llReqs := rfl
@[simp] theorem tick_homes : (tick s).homes = s.homes := rfl
@[simp] theorem tick_ownAcks : (tick s).ownAcks = s.ownAcks := rfl
@[simp] theorem tick_ing : (tick s).ing = s.ing := rfl
@[simp] theorem tick_halves : (tick s).halves = s.halves := rfl
@[simp] theorem tick_work : (tick s).work = s.work := rfl
@[simp] theorem tick_acks : (tick s).acks = s.acks := rfl
@[simp] theorem tick_hold : (tick s).hold = s.hold := rfl
@[simp] theorem tick_ejectQ : (tick s).ejectQ = s.ejectQ := rfl
@[simp] theorem tick_rdHeld : (tick s).rdHeld = s.rdHeld := rfl
@[simp] theorem tick_colls : (tick s).colls = s.colls := rfl
@[simp] theorem tick_fabQ : (tick s).fabQ = s.fabQ := rfl
@[simp] theorem tick_injQ : (tick s).injQ = s.injQ := rfl
@[simp] theorem tick_verA : (tick s).verA = s.verA := rfl
@[simp] theorem tick_verB : (tick s).verB = s.verB := rfl
@[simp] theorem tick_flip : (tick s).flip = s.flip := rfl
@[simp] theorem tick_links : (tick s).links = s.links := rfl
@[simp] theorem tick_groups : (tick s).groups = s.groups := rfl
@[simp] theorem tick_insts : (tick s).insts = s.insts := rfl
@[simp] theorem tick_elect : (tick s).elect = s.elect := rfl
@[simp] theorem tick_fogs : (tick s).fogs = s.fogs := rfl
@[simp] theorem tick_recov : (tick s).recov = s.recov := rfl
@[simp] theorem tick_cap : (tick s).cap = s.cap := rfl
@[simp] theorem tick_power : (tick s).power = s.power := rfl
@[simp] theorem tick_nvm : (tick s).nvm = s.nvm := rfl
@[simp] theorem tick_out : (tick s).out = s.out := rfl
@[simp] theorem tick_clock : (tick s).clock = s.clock := rfl
@[simp] theorem tick_pending : (tick s).pending = s.pending := rfl

/-! `emit` changes only out. -/

@[simp] theorem emit_live (o : Out) : (emit o s).live = s.live := rfl
@[simp] theorem emit_staged (o : Out) : (emit o s).staged = s.staged := rfl
@[simp] theorem emit_refused (o : Out) : (emit o s).refused = s.refused := rfl
@[simp] theorem emit_spareHeld (o : Out) : (emit o s).spareHeld = s.spareHeld := rfl
@[simp] theorem emit_cfgBusy (o : Out) : (emit o s).cfgBusy = s.cfgBusy := rfl
@[simp] theorem emit_da (o : Out) : (emit o s).da = s.da := rfl
@[simp] theorem emit_powered (o : Out) : (emit o s).powered = s.powered := rfl
@[simp] theorem emit_alarm (o : Out) : (emit o s).alarm = s.alarm := rfl
@[simp] theorem emit_cnt (o : Out) : (emit o s).cnt = s.cnt := rfl
@[simp] theorem emit_cntAlloc (o : Out) : (emit o s).cntAlloc = s.cntAlloc := rfl
@[simp] theorem emit_cpools (o : Out) : (emit o s).cpools = s.cpools := rfl
@[simp] theorem emit_ringq (o : Out) : (emit o s).ringq = s.ringq := rfl
@[simp] theorem emit_ringTail (o : Out) : (emit o s).ringTail = s.ringTail := rfl
@[simp] theorem emit_running (o : Out) : (emit o s).running = s.running := rfl
@[simp] theorem emit_steps (o : Out) : (emit o s).steps = s.steps := rfl
@[simp] theorem emit_finished (o : Out) : (emit o s).finished = s.finished := rfl
@[simp] theorem emit_nextSeq (o : Out) : (emit o s).nextSeq = s.nextSeq := rfl
@[simp] theorem emit_heldKill (o : Out) : (emit o s).heldKill = s.heldKill := rfl
@[simp] theorem emit_heldKg (o : Out) : (emit o s).heldKg = s.heldKg := rfl
@[simp] theorem emit_killDone (o : Out) : (emit o s).killDone = s.killDone := rfl
@[simp] theorem emit_abortAcks (o : Out) : (emit o s).abortAcks = s.abortAcks := rfl
@[simp] theorem emit_aborts (o : Out) : (emit o s).aborts = s.aborts := rfl
@[simp] theorem emit_pub (o : Out) : (emit o s).pub = s.pub := rfl
@[simp] theorem emit_pubBufs (o : Out) : (emit o s).pubBufs = s.pubBufs := rfl
@[simp] theorem emit_ctrlWait (o : Out) : (emit o s).ctrlWait = s.ctrlWait := rfl
@[simp] theorem emit_mboxCmd (o : Out) : (emit o s).mboxCmd = s.mboxCmd := rfl
@[simp] theorem emit_mboxPkt (o : Out) : (emit o s).mboxPkt = s.mboxPkt := rfl
@[simp] theorem emit_taking (o : Out) : (emit o s).taking = s.taking := rfl
@[simp] theorem emit_longOp (o : Out) : (emit o s).longOp = s.longOp := rfl
@[simp] theorem emit_replies (o : Out) : (emit o s).replies = s.replies := rfl
@[simp] theorem emit_replyq (o : Out) : (emit o s).replyq = s.replyq := rfl
@[simp] theorem emit_mem (o : Out) : (emit o s).mem = s.mem := rfl
@[simp] theorem emit_poison (o : Out) : (emit o s).poison = s.poison := rfl
@[simp] theorem emit_ueFrames (o : Out) : (emit o s).ueFrames = s.ueFrames := rfl
@[simp] theorem emit_retired (o : Out) : (emit o s).retired = s.retired := rfl
@[simp] theorem emit_scrubPos (o : Out) : (emit o s).scrubPos = s.scrubPos := rfl
@[simp] theorem emit_memTags (o : Out) : (emit o s).memTags = s.memTags := rfl
@[simp] theorem emit_imgFix (o : Out) : (emit o s).imgFix = s.imgFix := rfl
@[simp] theorem emit_inQ (o : Out) : (emit o s).inQ = s.inQ := rfl
@[simp] theorem emit_fencedMore (o : Out) : (emit o s).fencedMore = s.fencedMore := rfl
@[simp] theorem emit_folded (o : Out) : (emit o s).folded = s.folded := rfl
@[simp] theorem emit_faultGate (o : Out) : (emit o s).faultGate = s.faultGate := rfl
@[simp] theorem emit_pools (o : Out) : (emit o s).pools = s.pools := rfl
@[simp] theorem emit_windows (o : Out) : (emit o s).windows = s.windows := rfl
@[simp] theorem emit_log (o : Out) : (emit o s).log = s.log := rfl
@[simp] theorem emit_part (o : Out) : (emit o s).part = s.part := rfl
@[simp] theorem emit_models (o : Out) : (emit o s).models = s.models := rfl
@[simp] theorem emit_switchq (o : Out) : (emit o s).switchq = s.switchq := rfl
@[simp] theorem emit_switchRun (o : Out) : (emit o s).switchRun = s.switchRun := rfl
@[simp] theorem emit_loops (o : Out) : (emit o s).loops = s.loops := rfl
@[simp] theorem emit_acct (o : Out) : (emit o s).acct = s.acct := rfl
@[simp] theorem emit_fab (o : Out) : (emit o s).fab = s.fab := rfl
@[simp] theorem emit_memb (o : Out) : (emit o s).memb = s.memb := rfl
@[simp] theorem emit_ll (o : Out) : (emit o s).ll = s.ll := rfl
@[simp] theorem emit_llOwners (o : Out) : (emit o s).llOwners = s.llOwners := rfl
@[simp] theorem emit_llReqs (o : Out) : (emit o s).llReqs = s.llReqs := rfl
@[simp] theorem emit_homes (o : Out) : (emit o s).homes = s.homes := rfl
@[simp] theorem emit_ownAcks (o : Out) : (emit o s).ownAcks = s.ownAcks := rfl
@[simp] theorem emit_ing (o : Out) : (emit o s).ing = s.ing := rfl
@[simp] theorem emit_halves (o : Out) : (emit o s).halves = s.halves := rfl
@[simp] theorem emit_work (o : Out) : (emit o s).work = s.work := rfl
@[simp] theorem emit_acks (o : Out) : (emit o s).acks = s.acks := rfl
@[simp] theorem emit_hold (o : Out) : (emit o s).hold = s.hold := rfl
@[simp] theorem emit_ejectQ (o : Out) : (emit o s).ejectQ = s.ejectQ := rfl
@[simp] theorem emit_rdHeld (o : Out) : (emit o s).rdHeld = s.rdHeld := rfl
@[simp] theorem emit_colls (o : Out) : (emit o s).colls = s.colls := rfl
@[simp] theorem emit_fabQ (o : Out) : (emit o s).fabQ = s.fabQ := rfl
@[simp] theorem emit_injQ (o : Out) : (emit o s).injQ = s.injQ := rfl
@[simp] theorem emit_verA (o : Out) : (emit o s).verA = s.verA := rfl
@[simp] theorem emit_verB (o : Out) : (emit o s).verB = s.verB := rfl
@[simp] theorem emit_flip (o : Out) : (emit o s).flip = s.flip := rfl
@[simp] theorem emit_links (o : Out) : (emit o s).links = s.links := rfl
@[simp] theorem emit_groups (o : Out) : (emit o s).groups = s.groups := rfl
@[simp] theorem emit_insts (o : Out) : (emit o s).insts = s.insts := rfl
@[simp] theorem emit_elect (o : Out) : (emit o s).elect = s.elect := rfl
@[simp] theorem emit_fogs (o : Out) : (emit o s).fogs = s.fogs := rfl
@[simp] theorem emit_recov (o : Out) : (emit o s).recov = s.recov := rfl
@[simp] theorem emit_cap (o : Out) : (emit o s).cap = s.cap := rfl
@[simp] theorem emit_power (o : Out) : (emit o s).power = s.power := rfl
@[simp] theorem emit_nvm (o : Out) : (emit o s).nvm = s.nvm := rfl
@[simp] theorem emit_free (o : Out) : (emit o s).free = s.free := rfl
@[simp] theorem emit_clock (o : Out) : (emit o s).clock = s.clock := rfl
@[simp] theorem emit_pending (o : Out) : (emit o s).pending = s.pending := rfl

/-! `settle` changes only cnt, live, mboxCmd, mem, nvm, pub, staged. -/

@[simp] theorem settle_refused : (settle s).refused = s.refused := rfl
@[simp] theorem settle_spareHeld : (settle s).spareHeld = s.spareHeld := rfl
@[simp] theorem settle_cfgBusy : (settle s).cfgBusy = s.cfgBusy := rfl
@[simp] theorem settle_da : (settle s).da = s.da := rfl
@[simp] theorem settle_powered : (settle s).powered = s.powered := rfl
@[simp] theorem settle_alarm : (settle s).alarm = s.alarm := rfl
@[simp] theorem settle_cntAlloc : (settle s).cntAlloc = s.cntAlloc := rfl
@[simp] theorem settle_cpools : (settle s).cpools = s.cpools := rfl
@[simp] theorem settle_ringq : (settle s).ringq = s.ringq := rfl
@[simp] theorem settle_ringTail : (settle s).ringTail = s.ringTail := rfl
@[simp] theorem settle_running : (settle s).running = s.running := rfl
@[simp] theorem settle_steps : (settle s).steps = s.steps := rfl
@[simp] theorem settle_finished : (settle s).finished = s.finished := rfl
@[simp] theorem settle_nextSeq : (settle s).nextSeq = s.nextSeq := rfl
@[simp] theorem settle_heldKill : (settle s).heldKill = s.heldKill := rfl
@[simp] theorem settle_heldKg : (settle s).heldKg = s.heldKg := rfl
@[simp] theorem settle_killDone : (settle s).killDone = s.killDone := rfl
@[simp] theorem settle_abortAcks : (settle s).abortAcks = s.abortAcks := rfl
@[simp] theorem settle_aborts : (settle s).aborts = s.aborts := rfl
@[simp] theorem settle_pubBufs : (settle s).pubBufs = s.pubBufs := rfl
@[simp] theorem settle_ctrlWait : (settle s).ctrlWait = s.ctrlWait := rfl
@[simp] theorem settle_mboxPkt : (settle s).mboxPkt = s.mboxPkt := rfl
@[simp] theorem settle_taking : (settle s).taking = s.taking := rfl
@[simp] theorem settle_longOp : (settle s).longOp = s.longOp := rfl
@[simp] theorem settle_replies : (settle s).replies = s.replies := rfl
@[simp] theorem settle_replyq : (settle s).replyq = s.replyq := rfl
@[simp] theorem settle_poison : (settle s).poison = s.poison := rfl
@[simp] theorem settle_ueFrames : (settle s).ueFrames = s.ueFrames := rfl
@[simp] theorem settle_retired : (settle s).retired = s.retired := rfl
@[simp] theorem settle_scrubPos : (settle s).scrubPos = s.scrubPos := rfl
@[simp] theorem settle_memTags : (settle s).memTags = s.memTags := rfl
@[simp] theorem settle_imgFix : (settle s).imgFix = s.imgFix := rfl
@[simp] theorem settle_inQ : (settle s).inQ = s.inQ := rfl
@[simp] theorem settle_fencedMore : (settle s).fencedMore = s.fencedMore := rfl
@[simp] theorem settle_folded : (settle s).folded = s.folded := rfl
@[simp] theorem settle_faultGate : (settle s).faultGate = s.faultGate := rfl
@[simp] theorem settle_pools : (settle s).pools = s.pools := rfl
@[simp] theorem settle_windows : (settle s).windows = s.windows := rfl
@[simp] theorem settle_log : (settle s).log = s.log := rfl
@[simp] theorem settle_part : (settle s).part = s.part := rfl
@[simp] theorem settle_models : (settle s).models = s.models := rfl
@[simp] theorem settle_switchq : (settle s).switchq = s.switchq := rfl
@[simp] theorem settle_switchRun : (settle s).switchRun = s.switchRun := rfl
@[simp] theorem settle_loops : (settle s).loops = s.loops := rfl
@[simp] theorem settle_acct : (settle s).acct = s.acct := rfl
@[simp] theorem settle_fab : (settle s).fab = s.fab := rfl
@[simp] theorem settle_memb : (settle s).memb = s.memb := rfl
@[simp] theorem settle_ll : (settle s).ll = s.ll := rfl
@[simp] theorem settle_llOwners : (settle s).llOwners = s.llOwners := rfl
@[simp] theorem settle_llReqs : (settle s).llReqs = s.llReqs := rfl
@[simp] theorem settle_homes : (settle s).homes = s.homes := rfl
@[simp] theorem settle_ownAcks : (settle s).ownAcks = s.ownAcks := rfl
@[simp] theorem settle_ing : (settle s).ing = s.ing := rfl
@[simp] theorem settle_halves : (settle s).halves = s.halves := rfl
@[simp] theorem settle_work : (settle s).work = s.work := rfl
@[simp] theorem settle_acks : (settle s).acks = s.acks := rfl
@[simp] theorem settle_hold : (settle s).hold = s.hold := rfl
@[simp] theorem settle_ejectQ : (settle s).ejectQ = s.ejectQ := rfl
@[simp] theorem settle_rdHeld : (settle s).rdHeld = s.rdHeld := rfl
@[simp] theorem settle_colls : (settle s).colls = s.colls := rfl
@[simp] theorem settle_fabQ : (settle s).fabQ = s.fabQ := rfl
@[simp] theorem settle_injQ : (settle s).injQ = s.injQ := rfl
@[simp] theorem settle_verA : (settle s).verA = s.verA := rfl
@[simp] theorem settle_verB : (settle s).verB = s.verB := rfl
@[simp] theorem settle_flip : (settle s).flip = s.flip := rfl
@[simp] theorem settle_links : (settle s).links = s.links := rfl
@[simp] theorem settle_groups : (settle s).groups = s.groups := rfl
@[simp] theorem settle_insts : (settle s).insts = s.insts := rfl
@[simp] theorem settle_elect : (settle s).elect = s.elect := rfl
@[simp] theorem settle_fogs : (settle s).fogs = s.fogs := rfl
@[simp] theorem settle_recov : (settle s).recov = s.recov := rfl
@[simp] theorem settle_cap : (settle s).cap = s.cap := rfl
@[simp] theorem settle_power : (settle s).power = s.power := rfl
@[simp] theorem settle_out : (settle s).out = s.out := rfl
@[simp] theorem settle_free : (settle s).free = s.free := rfl
@[simp] theorem settle_clock : (settle s).clock = s.clock := rfl
@[simp] theorem settle_pending : (settle s).pending = s.pending := rfl

end Sys2Proof.Machine.State
end

