-- ==== Sys2Proof/Laws/Ops.lean ====
section
/-! SUPPORT. What the named operations over registers, counters and memory do, said once each. -/

namespace Sys2Proof.Machine

open State

variable (s : State)

/-! ### The end of every meaning -/

theorem finish_eq : finish s = .next (settle s) := rfl

/-- The end of a meaning leaves every map canonical. -/
theorem settle_wf : (settle s).wf = true := by
  simp only [State.wf, settle, cellCanon_wf, Bool.and_self]

@[simp] theorem settle_reg (o : Nat) : reg (settle s) o = reg s o := by
  simp only [reg, settle, cellGet_cellCanon]

@[simp] theorem settle_stg (o : Nat) : stg (settle s) o = stg s o := by
  simp only [stg, settle, cellGet_cellCanon]

@[simp] theorem settle_cnt (n : Nat) : cnt (settle s) n = cnt s n := by
  simp only [cnt, settle, cellGet_cellCanon]

@[simp] theorem settle_phys (a : Addr) : phys (settle s) a = phys s a := rfl

@[simp] theorem settle_rd8 (a : Addr) : rd8 (settle s) a = rd8 s a := by
  simp only [rd8, settle_phys]
  split
  · rfl
  · simp only [settle, cellGet_cellCanon]

@[simp] theorem settle_rdN (a : Addr) (n : Nat) : rdN (settle s) a n = rdN s a n := by
  induction n generalizing a with
  | zero => rfl
  | succ n ih => simp only [rdN, settle_rd8, ih]

@[simp] theorem settle_fld (o hi lo : Nat) : fld (settle s) o hi lo = fld s o hi lo := by simp only [fld, settle_reg]
@[simp] theorem settle_flag (o b : Nat) : flag (settle s) o b = flag s o b := by simp only [flag, settle_reg]

/-- A canonical state is its own end. -/
theorem settle_of_wf (h : s.wf = true) : settle s = s := by
  simp only [State.wf, Bool.and_eq_true] at h
  obtain ⟨⟨⟨⟨⟨⟨h1, h2⟩, h3⟩, h4⟩, h5⟩, h6⟩, h7⟩ := h
  simp only [settle, cellCanon_of_wf h1, cellCanon_of_wf h2, cellCanon_of_wf h3, cellCanon_of_wf h4, cellCanon_of_wf h5, cellCanon_of_wf h6,
    cellCanon_of_wf h7]

/-! ### Registers and counters -/

/-- A register reads as what was written to it. -/
theorem reg_setReg_same (h : cellWf regReset s.live = true) (o v : Nat) : reg (setReg o v s) o = v % 2 ^ 32 := by
  simp only [reg, setReg, cellGet_cellSet_same h, BitVec.toNat_ofNat]

/-- Writing a register leaves every other as it was. -/
theorem reg_setReg_ne {o p : Nat} (h : p ≠ o) (v : Nat) : reg (setReg o v s) p = reg s p := by
  simp only [reg, setReg, cellGet_cellSet_ne h]

theorem stg_setStg_same (h : cellWf regReset s.staged = true) (o v : Nat) : stg (setStg o v s) o = v % 2 ^ 32 := by
  simp only [stg, setStg, cellGet_cellSet_same h, BitVec.toNat_ofNat]

theorem stg_setStg_ne {o p : Nat} (h : p ≠ o) (v : Nat) : stg (setStg o v s) p = stg s p := by
  simp only [stg, setStg, cellGet_cellSet_ne h]

@[simp] theorem stg_setReg (o v p : Nat) : stg (setReg o v s) p = stg s p := rfl
@[simp] theorem reg_setStg (o v p : Nat) : reg (setStg o v s) p = reg s p := rfl
@[simp] theorem cnt_setReg (o v n : Nat) : cnt (setReg o v s) n = cnt s n := rfl
@[simp] theorem rd8_setReg (o v : Nat) (a : Addr) : rd8 (setReg o v s) a = rd8 s a := rfl
@[simp] theorem rd8_setStg (o v : Nat) (a : Addr) : rd8 (setStg o v s) a = rd8 s a := rfl

theorem setReg_live_wf (h : cellWf regReset s.live = true) (o v : Nat) : cellWf regReset (setReg o v s).live = true := cellSet_wf h

theorem cnt_setCnt_same (h : cellWf (fun _ => 0) s.cnt = true) (n : Nat) (v : W32) : cnt (setCnt n v s) n = v := by
  simp only [cnt, setCnt, cellGet_cellSet_same h]

theorem cnt_setCnt_ne {n m : Nat} (h : m ≠ n) (v : W32) : cnt (setCnt n v s) m = cnt s m := by
  simp only [cnt, setCnt, cellGet_cellSet_ne h]

/-- A signal adds 1 to its counter, wrapping, and to no other (R33). -/
theorem cnt_signal (h : cellWf (fun _ => 0) s.cnt = true) (n m : Nat) : cnt (signal n s) m = if m = n then cnt s n + 1 else cnt s m := by
  by_cases e : m = n
  · subst e; simp only [signal, cnt_setCnt_same s h, if_true]
  · simp only [signal, cnt_setCnt_ne s e, if_neg e]

/-! ### Memory -/

theorem phys_wr8 (a : Addr) (b : Byte) (x : Addr) : phys (wr8 a b s) x = phys s x := by
  unfold wr8; split <;> rfl

/-- Writing a byte changes no field but memory. -/
theorem wr8_only (a : Addr) (b : Byte) : wr8 a b s = { s with mem := (wr8 a b s).mem } := by
  unfold wr8; split <;> rfl

theorem wr8_mem_wf (h : cellWf memDefault s.mem = true) (a : Addr) (b : Byte) : cellWf memDefault (wr8 a b s).mem = true := by
  unfold wr8; split
  · exact h
  · exact cellSet_wf h

/-- A byte written reads back, at every address that reaches the same byte. -/
theorem rd8_wr8_same (h : cellWf memDefault s.mem = true) {a x : Addr} {p : Addr} (b : Byte) (ha : phys s a = some p) (hx : phys s x = some p) :
    rd8 (wr8 a b s) x = b := by
  simp only [rd8, phys_wr8, hx]
  simp only [wr8, ha, cellGet_cellSet_same h]

/-- Every byte that an address reaching another one reads stays. -/
theorem rd8_wr8_ne {a x : Addr} (b : Byte) (h : phys s x ≠ phys s a) : rd8 (wr8 a b s) x = rd8 s x := by
  simp only [rd8, phys_wr8]
  cases hx : phys s x with
  | none => rfl
  | some q =>
    simp only [wr8]
    split
    · rfl
    · next p hp =>
      have : q ≠ p := fun e => h (by rw [hx, hp, e])
      simp only [cellGet_cellSet_ne this]

theorem wrN_mem_wf (l : List Byte) (a : Addr) (h : cellWf memDefault s.mem = true) : cellWf memDefault (wrN a l s).mem = true := by
  induction l generalizing s a with
  | nil => exact h
  | cons b t ih => exact ih (wr8 a b s) (a + 1) (wr8_mem_wf s h a b)

theorem wrAll_mem_wf (l : List (Addr × Byte)) (h : cellWf memDefault s.mem = true) : cellWf memDefault (wrAll l s).mem = true := by
  induction l generalizing s with
  | nil => exact h
  | cons p t ih => exact ih (wr8 p.1 p.2 s) (wr8_mem_wf s h p.1 p.2)

theorem wrN_only (l : List Byte) (a : Addr) : wrN a l s = { s with mem := (wrN a l s).mem } := by
  induction l generalizing s a with
  | nil => rfl
  | cons b t ih =>
    show wrN (a + 1) t (wr8 a b s) = { s with mem := (wrN (a + 1) t (wr8 a b s)).mem }
    rw [ih, wr8_only s a b]

/-! ### Replies -/

/-- A reply enters the FIFO while it has room and nothing waits, else the internal queue (R297). -/
theorem answer_eq (r : Reply) : answer r s = (if s.replies.length < 16 ∧ s.replyq = [] then { s with replies := s.replies ++ [r] }
    else { s with replyq := s.replyq ++ [r] }) := by
  simp only [answer, List.isEmpty_iff, Bool.and_eq_true, decide_eq_true_eq]

/-! ### What a canonical state gives -/

theorem wf_live {s : State} (h : s.wf = true) : cellWf regReset s.live = true := by
  simp only [State.wf, Bool.and_eq_true] at h; exact h.1.1.1.1.1.1

theorem wf_staged {s : State} (h : s.wf = true) : cellWf regReset s.staged = true := by
  simp only [State.wf, Bool.and_eq_true] at h; exact h.1.1.1.1.1.2

theorem wf_cnt {s : State} (h : s.wf = true) : cellWf (fun _ => 0) s.cnt = true := by
  simp only [State.wf, Bool.and_eq_true] at h; exact h.1.1.1.1.2

theorem wf_pub {s : State} (h : s.wf = true) : cellWf (fun _ => 0) s.pub = true := by
  simp only [State.wf, Bool.and_eq_true] at h; exact h.1.1.1.2

theorem wf_mbox {s : State} (h : s.wf = true) : cellWf (fun _ => 0) s.mboxCmd = true := by
  simp only [State.wf, Bool.and_eq_true] at h; exact h.1.1.2

theorem wf_mem {s : State} (h : s.wf = true) : cellWf memDefault s.mem = true := by
  simp only [State.wf, Bool.and_eq_true] at h; exact h.1.2

/-- A canonical state with another canonical register map is its own end. -/
theorem settle_live_of_wf {s : State} (h : s.wf = true) {l : RegMap} (hl : cellWf regReset l = true) :
    settle { s with live := l } = { s with live := l } := by
  apply settle_of_wf
  simp only [State.wf, Bool.and_eq_true] at h ⊢
  exact ⟨⟨⟨⟨⟨⟨hl, h.1.1.1.1.1.2⟩, h.1.1.1.1.2⟩, h.1.1.1.2⟩, h.1.1.2⟩, h.1.2⟩, h.2⟩

/-! ### Masks -/

theorem reg_lt (o : Nat) : reg s o < 2 ^ 32 := by unfold reg; exact (BitVec.isLt _)
theorem stg_lt (o : Nat) : stg s o < 2 ^ 32 := by unfold stg; exact (BitVec.isLt _)

theorem land_word {v : Nat} (h : v < 2 ^ 32) : Nat.land v 0xFFFFFFFF = v := by
  have e : Nat.land v (2 ^ 32 - 1) = v % 2 ^ 32 := Nat.and_two_pow_sub_one_eq_mod v 32
  rw [show (0xFFFFFFFF : Nat) = 2 ^ 32 - 1 from rfl, e, Nat.mod_eq_of_lt h]

/-- The row of an offset stands at that offset (R418). -/
theorem regRow_off {off : Nat} {r : RegRow} (h : regRow off = some r) : r.off = off := by
  have := List.find?_some h; simpa using this

/-! ### Operations that write live registers only -/

/-- A state differs from another only in live registers. -/
def LiveOnly (s t : State) : Prop := t = { s with live := t.live }

theorem LiveOnly.refl (s : State) : LiveOnly s s := rfl

theorem LiveOnly.trans {s t u : State} (h : LiveOnly s t) (k : LiveOnly t u) : LiveOnly s u := by
  unfold LiveOnly at *; rw [k, h]

theorem liveOnly_setReg (o v : Nat) (s : State) : LiveOnly s (setReg o v s) := rfl
theorem liveOnly_bump (o n : Nat) (s : State) : LiveOnly s (bump o n s) := rfl
theorem liveOnly_bump64 (o n : Nat) (s : State) : LiveOnly s (bump64 o n s) := rfl
theorem liveOnly_raiseIf (c : Bool) (o b : Nat) (s : State) : LiveOnly s (raiseIf c o b s) := by
  unfold raiseIf; split <;> rfl

end Sys2Proof.Machine
end

