-- ==== Sys2Proof/Laws/Log.lean ====
section
/-! SUPPORT. What entering a log packet changes: the FIFO, and four registers of the log's status. -/

namespace Sys2Proof.Machine

open State

/-- The registers the log FIFO's input writes: status and the two counts of losses. -/
def logRegs : List Nat := [Reg.PART_LOG_STAT, Reg.PART_LOG_LOST_PKT, Reg.PART_LOG_LOST_WORD]

/-- A state differs from another only in the log FIFO and its registers. -/
def LogOnly (s t : State) : Prop :=
  t = { s with live := t.live, log := t.log } ∧ (∀ o, o ∉ logRegs → reg t o = reg s o)
    ∧ (cellWf regReset s.live = true → cellWf regReset t.live = true)

theorem LogOnly.refl (s : State) : LogOnly s s := ⟨rfl, fun _ _ => rfl, id⟩

theorem LogOnly.trans {s t u : State} (h : LogOnly s t) (k : LogOnly t u) : LogOnly s u := by
  obtain ⟨h1, h2, h3⟩ := h
  obtain ⟨k1, k2, k3⟩ := k
  refine ⟨?_, fun o ho => (k2 o ho).trans (h2 o ho), fun w => k3 (h3 w)⟩
  rw [k1, h1]

theorem logOnly_setReg {o : Nat} (h : o ∈ logRegs) (v : Nat) (s : State) : LogOnly s (setReg o v s) :=
  ⟨rfl, fun p hp => reg_setReg_ne s (fun e => hp (by rw [e]; exact h)) v, fun w => cellSet_wf w⟩

theorem logOnly_log (l : LogFifo) (s : State) : LogOnly s { s with log := l } := ⟨rfl, fun _ _ => rfl, id⟩

theorem logBuoys_log (s : State) : (logBuoys s).log = s.log := by
  unfold logBuoys; split <;> rfl

theorem logBuoys_only (s : State) : logBuoys s = { s with live := (logBuoys s).live } := by
  unfold logBuoys; split <;> rfl

theorem logFell_log (s : State) : (logFell s).log = s.log := by
  unfold logFell; split <;> rfl

theorem logFell_only (s : State) : logFell s = { s with live := (logFell s).live } := by
  unfold logFell; split <;> rfl

theorem logOnly_buoys (s : State) : LogOnly s (logBuoys s) := by
  unfold logBuoys; split
  · exact logOnly_setReg (by decide) _ s
  · exact LogOnly.refl s

theorem logOnly_fell (s : State) : LogOnly s (logFell s) := by
  unfold logFell; split
  · exact logOnly_setReg (by decide) _ s
  · exact LogOnly.refl s

theorem logOnly_lose (n : Nat) (s : State) : LogOnly s (logLose n s) :=
  ((logOnly_setReg (by decide) _ s).trans ((logOnly_setReg (by decide) _ _).trans (logOnly_setReg (by decide) _ _))).trans (logOnly_log _ _)

theorem logOnly_room (n k : Nat) (s : State) : LogOnly s (logRoom n k s) := by
  induction k generalizing s with
  | zero => exact LogOnly.refl s
  | succ k ih =>
    unfold logRoom
    split
    · exact LogOnly.refl s
    · split
      · exact LogOnly.refl s
      · exact (((logOnly_log _ s).trans (logOnly_lose _ _)).trans (logOnly_fell _)).trans (ih _)

/-- Entering a packet changes the FIFO and its registers, and nothing else (R325, R330, R331). -/
theorem logOnly_enter (kind source : Nat) (payload : List Nat) (s : State) : LogOnly s (logEnter kind source payload s) := by
  unfold logEnter
  split
  · exact LogOnly.refl s
  · exact (logOnly_room _ _ s).trans ((logOnly_log _ _).trans (logOnly_buoys _))

end Sys2Proof.Machine
end

