-- ==== Sys2Proof/Laws/Engine.lean ====
section
/-! SUPPORT. What starting a record does, said once. -/

namespace Sys2Proof.Machine

variable {s : State} {e : Nat} {be : Bool} {r : RingRec} {p : Record → Bool} {mk : State → RingRec → Job}

/-- The work is done; the command signals unless it goes on waiting. -/
theorem jobLast_eq (u : Run) (j : Job) (s : State) : jobLast u j s = if j.wait then jobWork j s else jobDone u j s := rfl

/-- A job that reads nothing too early is done as it is (R25). -/
theorem doneAs_same {j : Job} {r : RingRec} (h : readsEarly s r j.reads = false) : j.doneAs s r = j := by
  unfold Job.doneAs; rw [h]; rfl

/-- A job that nothing stops does its work, and signals unless it goes on waiting. -/
theorem doJob_runs {u : Run} {j : Job} (h1 : poisonAny s (cmdSpan u.cmd :: j.reads) = none) (h2 : j.kill = none) (h3 : partialPoison s (j.writes.map Wr.a) = none)
    (h4 : readsEarly s u.cmd j.reads = false) (h5 : metered j s = 0) :
    doJob u j s = if j.wait then jobWork j s else jobDone u j s := by
  unfold doJob jobGo; rw [h1, h2]; dsimp only
  rw [doneAs_same h4, h3]; dsimp only; rw [h5, jobLast_eq]; rfl

/-- A job that meets no poisoned word and has no kill of its own: what it does is aborted by a poisoned word partly written, made at once where the MEM
bucket does not meter it, made and charged where the bucket lets it pass, or left waiting there (R344, R379). -/
theorem doJob_open {u : Run} {j : Job} (h1 : poisonAny s (cmdSpan u.cmd :: j.reads) = none) (h2 : j.kill = none) :
    doJob u j s = match partialPoison s ((j.doneAs s u.cmd).writes.map Wr.a) with
      | some a => abortWrite a u.cmd.step s
      | none => if metered (j.doneAs s u.cmd) s = 0 then jobLast u (j.doneAs s u.cmd) s
        else if 0 ≤ s.memb.tk ∧ s.memb.mem = [] then jobLast u (j.doneAs s u.cmd) (chargeMem (metered (j.doneAs s u.cmd) s) s)
        else
          let q := MemReq.mk (rBe u.cmd.raw) true u.eng (metered (j.doneAs s u.cmd) s) (((j.doneAs s u.cmd).writes.map Wr.a).headD 0)
          { s with memb := { s.memb with mem := s.memb.mem ++ [q] } } := by
  unfold doJob jobGo; rw [h1, h2]; dsimp only
  cases partialPoison s (List.map Wr.a (j.doneAs s u.cmd).writes) with
  | some a => rfl
  | none => simp

/-- A job that meets a poisoned word in what it reads writes nothing: its step is killed (R379, R381). -/
theorem doJob_poisoned {u : Run} {j : Job} {a : Addr} (h : poisonAny s (cmdSpan u.cmd :: j.reads) = some a) : doJob u j s = poisonKill a 0 u.cmd.step s := by
  unfold doJob jobGo; rw [h]

/-- A job with a kill of its own ends in it. -/
theorem doJob_kills {u : Run} {j : Job} {c : KillCause} (h1 : poisonAny s (cmdSpan u.cmd :: j.reads) = none) (h2 : j.kill = some c) :
    doJob u j s = raiseKill c (some u.cmd.step) (j.after s) := by
  unfold doJob jobGo; rw [h1, h2]

/-- A job that would write part of a poisoned word is aborted (R379). -/
theorem doJob_aborts {u : Run} {j : Job} {a : Addr} (h1 : poisonAny s (cmdSpan u.cmd :: j.reads) = none) (h2 : j.kill = none)
    (h3 : partialPoison s (j.writes.map Wr.a) = some a) (h4 : readsEarly s u.cmd j.reads = false) : doJob u j s = abortWrite a u.cmd.step s := by
  unfold doJob jobGo; rw [h1, h2]; dsimp only
  rw [doneAs_same h4, h3]

/-- A record whose operands lie in staging starts and does its job. -/
theorem runJob_staging (h : startable s e be = some r) (hp : p r.raw = true) (hd : dieBytes s (mk s r).reads = 0) :
    runJob e be p mk s = doJob (newRun s e r) (mk s r) ((mk s r).start (startRun e r s)) := by
  unfold runJob; rw [h]; dsimp only; rw [if_neg (by rw [hp]; decide), if_pos hd]

/-- A record with operands in die memory starts and asks for them. -/
theorem runJob_die (h : startable s e be = some r) (hp : p r.raw = true) (hd : dieBytes s (mk s r).reads ≠ 0) :
    runJob e be p mk s
      = memRequests e be (dieReads s (mk s r).reads) ((mk s r).start (startRun e r s)) := by
  unfold runJob; rw [h]; dsimp only; rw [if_neg (by rw [hp]; decide), if_neg hd]

/-- With no record to start nothing happens. -/
theorem runJob_none (h : startable s e be = none) : runJob e be p mk s = s := by unfold runJob; rw [h]

/-- A record of another row does not start by this one. -/
theorem runJob_other (h : startable s e be = some r) (hp : p r.raw = false) : runJob e be p mk s = s := by
  unfold runJob; rw [h]; dsimp only; rw [if_pos (by rw [hp]; decide)]

/-- A record that can do its job at once does it. -/
theorem runJob_runs (hp : p r.raw = true) (h : jobRuns s e be r (mk s r)) :
    runJob e be p mk s = jobEnds s e r (mk s r) := by
  obtain ⟨h1, h2, h3, h4, h5, h6, h7⟩ := h
  rw [runJob_staging h1 hp h2, doJob_runs h3 h4 h5 h6 h7]; rfl

/-- A record whose lines are all there starts as any other (R157). -/
theorem runLines_held {need : State → RingRec → Bool × Nat × Nat × List Nat} (h : startable s e be = some r) (hp : p r.raw = true)
    (hm : llMissing s (need s r).1 (need s r).2.1 (need s r).2.2.1 (need s r).2.2.2 = []) : runLines e be p need mk s = runJob e be p mk s := by
  unfold runLines; rw [h]; dsimp only; rw [if_neg (by rw [hp]; decide), hm]; rfl

/-- A record with missing lines starts and asks for them (R157, R158). -/
theorem runLines_missing {need : State → RingRec → Bool × Nat × Nat × List Nat} (h : startable s e be = some r) (hp : p r.raw = true)
    (hm : llMissing s (need s r).1 (need s r).2.1 (need s r).2.2.1 (need s r).2.2.2 ≠ []) :
    runLines e be p need mk s = llAsk (need s r).1 be false (need s r).2.1 (need s r).2.2.1
      (llMissing s (need s r).1 (need s r).2.1 (need s r).2.2.1 (need s r).2.2.2) (modRun e (fun u => { u with stage := 1 }) (startRun e r s)) := by
  unfold runLines; rw [h]; dsimp only; rw [if_neg (by rw [hp]; decide), if_neg (fun h => hm (List.isEmpty_iff.mp h))]

/-! ### What each part of starting and completing changes -/

/-- A record that can start finds its engine idle (R31). -/
theorem startable_idle (h : startable s e be = some r) : engBusy s e = false := by
  unfold startable at h
  split at h
  · next hc =>
    simp only [Bool.and_eq_true] at hc
    have hc1 := hc.1
    unfold headCanStart at hc1
    simp only [Bool.and_eq_true, Bool.not_eq_true'] at hc1
    exact hc1.1.2
  · cases h

/-- The run of a record that has just started. -/
theorem runOn_startRun (h : engBusy s e = false) : runOn (startRun e r s) e = some (newRun s e r) := by
  have h1 : s.running.find? (fun u => u.eng == e) = none := by
    rw [List.find?_eq_none]; intro u hu hc
    unfold engBusy at h; rw [List.any_eq_false] at h; exact h u hu hc
  unfold runOn startRun
  dsimp only
  have h2 : (if rCred r.raw = 0 || rRel r.raw then s else setCredits (rCpool r.raw) (poolCredits s r.raw - rCred r.raw) s).running = s.running := by
    split <;> rfl
  rw [h2, List.find?_append, h1]
  simp [newRun]

theorem startRun_only (e : Nat) (r : RingRec) (s : State) :
    startRun e r s = { s with cpools := (startRun e r s).cpools, running := s.running ++ [newRun s e r] } := by
  unfold startRun; dsimp only; split <;> rfl

theorem putWr_only (w : Wr) (s : State) : putWr w s = { s with mem := (putWr w s).mem } := by
  unfold putWr; exact wr8_only s _ _

theorem putWrs_only (l : List Wr) (s : State) : l.foldl (fun s w => putWr w s) s = { s with mem := (l.foldl (fun s w => putWr w s) s).mem } := by
  induction l generalizing s with
  | nil => rfl
  | cons w t ih => simp only [List.foldl_cons]; rw [ih, putWr_only]

/-- A job's writes change memory and poison, and nothing else (R378). -/
theorem putAll_only (l : List Wr) (s : State) : putAll l s = { s with mem := (putAll l s).mem, poison := (putAll l s).poison } := by
  unfold putAll; rw [putWrs_only]; rfl

/-- A format report changes registers, and nothing else. -/
theorem applyFx_only (x : Fx) (s : State) : LiveOnly s (applyFx x s) := by
  unfold applyFx
  exact ((((((liveOnly_setReg _ _ _).trans (liveOnly_setReg _ _ _)).trans (liveOnly_bump _ _ _)).trans (liveOnly_raiseIf _ _ _ _)).trans
    (liveOnly_raiseIf _ _ _ _)).trans (liveOnly_raiseIf _ _ _ _)).trans (liveOnly_raiseIf _ _ _ _)

theorem aperMiss_only (a : Addr) (n : Nat) (s : State) : LiveOnly s (aperMiss a n s) := by
  unfold aperMiss; split
  · exact (liveOnly_bump _ _ _).trans (liveOnly_setReg _ _ _)
  · exact LiveOnly.refl s

theorem missFold_only (l : List (Addr × Nat)) (s : State) : LiveOnly s (l.foldl (fun s r => aperMiss r.1 r.2 s) s) := by
  induction l generalizing s with
  | nil => exact LiveOnly.refl s
  | cons a t ih => exact (aperMiss_only _ _ s).trans (ih _)

theorem missWrites_only (l : List Wr) (s : State) : LiveOnly s (missWrites l s) := by
  unfold missWrites; split
  · exact aperMiss_only _ _ s
  · exact LiveOnly.refl s

/-- Noting the accesses beyond a mapping changes registers, and nothing else (R324). -/
theorem seeMisses_only (j : Job) (s : State) : LiveOnly s (seeMisses j s) := (missFold_only _ s).trans (missWrites_only _ _)

theorem releaseCredits_only (q : Record) (s : State) :
    releaseCredits q s = { s with live := (releaseCredits q s).live, cpools := (releaseCredits q s).cpools } := by
  unfold releaseCredits
  split
  · rfl
  · split
    · rfl
    · dsimp only; rw [liveOnly_raiseIf]; rfl

/-- A TRACE packet changes the log FIFO, its registers and the free values taken (R326). -/
theorem logTrace_only (ring op : Nat) (q target wait : W32) (c : Nat) (s : State) :
    logTrace ring op q target wait c s
      = { s with live := (logTrace ring op q target wait c s).live, log := (logTrace ring op q target wait c s).log,
                 free := (logTrace ring op q target wait c s).free } := by
  unfold logTrace
  split
  · rfl
  · split
    · exact (logOnly_lose 2 s).1
    · dsimp only; rw [(logOnly_enter _ _ _ _).1]; rfl

end Sys2Proof.Machine
end

