-- ==== Sys2Proof/Laws/Bounds.lean ====
section
/-! SUPPORT. What keeps the bounds of the reply FIFO, of the engines and of the unfinished steps: an update that touches none of the three lists, one
that shortens them, and the three operations that add to one. -/

namespace Sys2Proof.Machine

variable {s t : State}

/-- The three bounds one by one. -/
theorem bounded_iff : s.bounded = true ↔ s.replies.length ≤ 16 ∧ (s.running.map Run.eng).Nodup ∧ s.steps.length ≤ 64 := by
  simp [State.bounded, and_assoc]

/-- Shorter lists stay within the bounds. -/
theorem bounded_of_le (h : s.bounded = true) (h1 : t.replies.length ≤ s.replies.length) (h2 : (t.running.map Run.eng).Sublist (s.running.map Run.eng))
    (h3 : t.steps.length ≤ s.steps.length) : t.bounded = true :=
  let b := bounded_iff.1 h
  bounded_iff.2 ⟨h1.trans b.1, b.2.1.sublist h2, h3.trans b.2.2⟩

/-- An update that touches none of the three lists keeps the bounds. -/
theorem bounded_of_eq (h : s.bounded = true) (h1 : t.replies = s.replies) (h2 : t.running = s.running) (h3 : t.steps = s.steps) : t.bounded = true := by
  rw [State.bounded, h1, h2, h3]; exact h

/-- Putting the maps into canonical form touches none of them. -/
@[simp] theorem bounded_settle : (settle s).bounded = s.bounded := rfl

/-- A fold of operations that each keep the bounds keeps them. -/
theorem bounded_foldl {α : Type} (f : State → α → State) (hf : ∀ u a, u.bounded = true → (f u a).bounded = true) :
    ∀ (l : List α) (u : State), u.bounded = true → (l.foldl f u).bounded = true
  | [], _, h => h
  | a :: l, u, h => bounded_foldl f hf l (f u a) (hf u a h)

/-- A reply enters the FIFO only where it has room (R297). -/
theorem bounded_answer (r : Reply) (h : s.bounded = true) : (answer r s).bounded = true := by
  have b := bounded_iff.1 h
  unfold answer
  split
  · rename_i c
    have : s.replies.length < 16 := by simpa using (Bool.and_eq_true_iff.1 c).1
    exact bounded_iff.2 ⟨by simpa using this, b.2⟩
  · exact h

/-- The oldest queued reply enters the FIFO only where it has room (R297). -/
theorem bounded_replyEnter (h : s.bounded = true) : (replyEnter s).bounded = true := by
  have b := bounded_iff.1 h
  unfold replyEnter
  split
  · exact h
  · split
    · exact bounded_iff.2 ⟨by have := ‹_ ∧ _›.1; simpa using this, b.2⟩
    · exact h

/-- Changing the run on an engine leaves it on its engine. -/
theorem bounded_modRun (e : Nat) (f : Run → Run) (hf : ∀ r, r.eng = e → (f r).eng = e) (h : s.bounded = true) : (modRun e f s).bounded = true := by
  refine bounded_of_le h le_rfl ?_ le_rfl
  have : (modRun e f s).running.map Run.eng = s.running.map Run.eng := by
    simp only [modRun, List.map_map]
    refine List.map_congr_left fun r _ => ?_
    simp only [Function.comp]
    split
    · rw [hf r ‹_›, ‹r.eng = e›]
    · rfl
  rw [this]

/-- A record starts only on an idle engine (R31). -/
theorem bounded_startRun {e : Nat} {be : Bool} {r : RingRec} (h : startable s e be = some r) (hs : s.bounded = true) :
    (startRun e r s).bounded = true := by
  have b := bounded_iff.1 hs
  have key : ∀ u : State, u.running = s.running → u.steps = s.steps → u.replies = s.replies →
      ({ u with running := u.running ++ [newRun s e r] } : State).bounded = true := by
    intro u h1 h2 h3
    refine bounded_iff.2 ⟨by rw [h3]; exact b.1, ?_, by rw [h2]; exact b.2.2⟩
    simp only [h1, List.map_append, List.map_cons, List.map_nil]
    refine List.nodup_append.2 ⟨b.2.1, by simp, fun a ha c hc hac => ?_⟩
    simp only [List.mem_singleton, newRun] at hc
    obtain ⟨v, hv, rfl⟩ := List.mem_map.1 ha
    have hb : engBusy s e = true := by
      simp only [engBusy, List.any_eq_true]
      exact ⟨v, hv, by simp [hac, hc]⟩
    rw [startable_idle h] at hb; cases hb
  unfold startRun
  dsimp only
  split
  · exact key s rfl rfl rfl
  · exact key _ rfl rfl rfl

end Sys2Proof.Machine
end

