-- ==== Sys2Proof/Laws/Packet.lean ====
section
/-! SUPPORT. What happens to a packet ejected at this die, said once. -/

namespace Sys2Proof.Machine

/-- A raised bit reads 1. -/
theorem bit_setBits_one (v b : Nat) : bit (setBits v b b 1) b = true := by
  unfold bit setBits bits
  rw [Nat.testBit_eq_decide_div_mod_eq, decide_eq_true_eq]
  have hb : b + 1 - b = 1 := by omega
  rw [hb]
  have hv : v = v / 2 ^ b * 2 ^ b + v % 2 ^ b := (Nat.div_add_mod' v (2 ^ b)).symm
  have hp : 0 < 2 ^ b := Nat.two_pow_pos b
  have hr : v % 2 ^ b < 2 ^ b := Nat.mod_lt _ hp
  generalize v / 2 ^ b = q at *
  generalize v % 2 ^ b = r at *
  generalize 2 ^ b = n at *
  have hq : q % 2 ≤ q := Nat.mod_le _ _
  have e : v - q % 2 ^ 1 * n + 1 % 2 ^ 1 * n = r + n * (q - q % 2 + 1) := by
    have : q % 2 * n ≤ q * n := Nat.mul_le_mul_right n hq
    have h3 : n * (q - q % 2 + 1) = q * n - q % 2 * n + n := by rw [Nat.mul_add, Nat.mul_sub, Nat.mul_one, Nat.mul_comm n q, Nat.mul_comm n (q % 2)]
    rw [h3, hv]; simp only [Nat.pow_one]; omega
  rw [e, Nat.add_mul_div_left _ _ hp, Nat.div_eq_of_lt hr]
  omega

theorem flag_raiseBit {s : State} (h : cellWf regReset s.live = true) (o : Nat) {b : Nat} (hb : b < 32) : flag (raiseBit o b s) o b = true := by
  unfold flag raiseBit setFld
  rw [reg_setReg_same s h]
  have := bit_setBits_one (reg s o) b
  unfold bit at *
  rw [Nat.testBit_mod_two_pow, this]; simp [hb]

theorem bump_same {s : State} (h : cellWf regReset s.live = true) (o n : Nat) : reg (bump o n s) o = min (reg s o + n) 0xFFFFFFFF := by
  unfold bump; rw [reg_setReg_same s h, Nat.mod_eq_of_lt]
  exact Nat.lt_of_le_of_lt (Nat.min_le_right _ _) (by decide)

theorem bump_ne {o q : Nat} (h : q ≠ o) (n : Nat) (s : State) : reg (bump o n s) q = reg s q := reg_setReg_ne s h _
theorem raise_ne {o q b : Nat} (h : q ≠ o) (s : State) : reg (raiseBit o b s) q = reg s q := reg_setReg_ne s h _

theorem reg_bump64_ne {lo o : Nat} (h1 : o ≠ lo) (h2 : o ≠ lo + 4) (n : Nat) (s : State) : reg (bump64 lo n s) o = reg s o := by
  unfold bump64; rw [reg_setReg_ne _ h2, reg_setReg_ne _ h1]

theorem reg_raiseIf_ne {c : Bool} {f b o : Nat} (h : o ≠ f) (s : State) : reg (raiseIf c f b s) o = reg s o := by
  unfold raiseIf; split
  · exact reg_setReg_ne s h _
  · rfl

/-- The registers that passing a packet on and counting it write. -/
def pktRegs : List Nat :=
  [Reg.XCHG_RX_PKT_LO, Reg.XCHG_RX_PKT_LO + 4, Reg.XCHG_TX_PKT_LO, Reg.XCHG_TX_PKT_LO + 4, Reg.PART_TDC_LO, Reg.PART_TDC_LO + 4, Reg.PART_TDC_SRC 1,
   Reg.XCHG_FAB_DROP_CNT, Reg.XCHG_FAB_STAT]

/-- All that a packet's turn at the ports can do: counters and status of the fabric, outputs, and the slice's own packets moving up (R194, R198). -/
structure Passes (s t : State) : Prop where
  only : t = { s with live := t.live, out := t.out, fabQ := t.fabQ, injQ := t.injQ }
  reg : ∀ o, o ∉ pktRegs → reg t o = reg s o
  wf : cellWf regReset s.live = true → cellWf regReset t.live = true

theorem Passes.refl (s : State) : Passes s s := ⟨rfl, fun _ _ => rfl, id⟩

theorem Passes.trans {s t u : State} (h : Passes s t) (k : Passes t u) : Passes s u :=
  ⟨by rw [k.only, h.only], fun o ho => (k.reg o ho).trans (h.reg o ho), fun w => k.wf (h.wf w)⟩

/-- Moving the slice's own packets, or putting out a packet, touches no register. -/
theorem Passes.quiet {s : State} (out : List Out) (f i : List (Bool × Packet)) : Passes s { s with out := out, fabQ := f, injQ := i } :=
  ⟨rfl, fun _ _ => rfl, id⟩

theorem Passes.setReg {o : Nat} (v : Nat) (h : o ∈ pktRegs) (s : State) : Passes s (Machine.setReg o v s) :=
  ⟨rfl, fun q hq => reg_setReg_ne s (fun e => hq (by rw [e]; exact h)) v, fun w => cellSet_wf w⟩

theorem Passes.bump {o : Nat} (n : Nat) (h : o ∈ pktRegs) (s : State) : Passes s (Machine.bump o n s) := Passes.setReg _ h s
theorem Passes.raiseBit {o : Nat} (b : Nat) (h : o ∈ pktRegs) (s : State) : Passes s (Machine.raiseBit o b s) := Passes.setReg _ h s
theorem Passes.bump64 {o : Nat} (n : Nat) (h : o ∈ pktRegs) (k : o + 4 ∈ pktRegs) (s : State) : Passes s (Machine.bump64 o n s) :=
  (Passes.setReg _ h s).trans (Passes.setReg _ k _)
theorem Passes.tdc1 (s : State) : Passes s (tdc 1 s) := (Passes.bump64 1 (by decide) (by decide) s).trans (Passes.bump 1 (by decide) _)
theorem Passes.emit (x : Out) (s : State) : Passes s (Machine.emit x s) := Passes.quiet (x :: s.out) s.fabQ s.injQ
theorem Passes.drop (b : Nat) (s : State) : Passes s (discard Reg.XCHG_FAB_DROP_CNT Reg.XCHG_FAB_STAT b s) :=
  (Passes.bump 1 (by decide) s).trans (Passes.raiseBit b (by decide) _)

theorem Passes.fabPull (rsp : Bool) (n : Nat) (s : State) : Passes s (Machine.fabPull rsp n s) := by
  induction n generalizing s with
  | zero => exact .refl s
  | succ n ih =>
    unfold Machine.fabPull; split
    · exact .refl s
    · split
      · exact .refl s
      · exact (Passes.quiet s.out _ _).trans (ih _)

theorem Passes.fabSend (q : Bool × Packet) (s : State) : Passes s (Machine.fabSend q s) := by
  have h : Passes s (Machine.bump64 Reg.XCHG_TX_PKT_LO 1 s) := .bump64 1 (by decide) (by decide) s
  unfold Machine.fabSend; dsimp only; split
  · exact h.trans (.emit _ _)
  · exact h.trans ((Passes.bump 1 (by decide) _).trans (.raiseBit 7 (by decide) _))

theorem Passes.lcAhead (rsp : Bool) (port n : Nat) (s : State) : Passes s (Machine.lcAhead rsp port n s) := by
  induction n generalizing s with
  | zero => exact .refl s
  | succ n ih =>
    unfold Machine.lcAhead; split
    · exact .refl s
    · exact (Passes.quiet s.out _ s.injQ).trans ((Passes.fabSend _ _).trans ((Passes.fabPull rsp 1 _).trans (ih _)))

theorem Passes.tdcIf (c : Bool) (s : State) : Passes s (if c = true then tdc 1 s else s) := by
  split
  · exact .tdc1 s
  · exact .refl s

theorem Passes.outputTurn (rsp : Bool) (port : Nat) (q : Packet) (c : Bool) (s : State) : Passes s (Machine.outputTurn rsp port q c s) := by
  unfold Machine.outputTurn; dsimp only; split
  · exact (Passes.tdcIf _ s).trans (.lcAhead rsp port 2 _)
  · exact .tdcIf _ s

theorem Passes.passCopy (port : Nat) (q : Packet) (c : Bool) (s : State) : Passes s (Machine.passCopy port q c s) := by
  unfold Machine.passCopy; split
  · exact (Passes.tdcIf c s).trans (.drop 7 _)
  · exact (Passes.outputTurn _ port q c s).trans (.emit _ _)

theorem Passes.mcastCopies (p : Packet) (s : State) : Passes s (Machine.mcastCopies p s) := by
  have one (yes : Bool) (port : Nat) (q : Packet) (s : State) : Passes s (if (!yes) = true then s else if pHops p = 63 then
      discard Reg.XCHG_FAB_DROP_CNT Reg.XCHG_FAB_STAT 3 s else Machine.passCopy port q false s) := by
    split
    · exact .refl s
    · split
      · exact .drop 3 s
      · exact .passCopy port q false s
  exact (one _ _ _ s).trans (one _ _ _ _)

theorem Passes.copied (p : Packet) (s : State) : Passes s (Machine.copied p s) := by
  unfold Machine.copied; split
  · exact .mcastCopies p s
  · exact .refl s

theorem Passes.won (rsp : Bool) (p : Packet) (s : State) : Passes s (Machine.won rsp p s) :=
  (Passes.outputTurn rsp 6 p false s).trans (.bump64 1 (by decide) (by decide) _)

theorem Passes.ejected (rsp : Bool) (p : Packet) (s : State) : Passes s (Machine.ejected rsp p s) := (Passes.copied p s).trans (.won rsp p _)

/-- The checks read the same before and after the packet is counted. -/
theorem pktVerdict_ejected (rsp n : Bool) (p : Packet) (s : State) : pktVerdict rsp p (ejected n p s) = pktVerdict rsp p s := by
  have f {o : Nat} (hi lo : Nat) (h : o ∉ pktRegs) : fld (ejected n p s) o hi lo = fld s o hi lo := by
    unfold fld; rw [(Passes.ejected n p s).reg _ h]
  have g {o : Nat} (b : Nat) (h : o ∉ pktRegs) : flag (ejected n p s) o b = flag s o b := by
    unfold flag; rw [(Passes.ejected n p s).reg _ h]
  have a1 : assigned (ejected n p s) = assigned s := g _ (by decide)
  have a2 : partId (ejected n p s) = partId s := f _ _ (by decide)
  have a3 : kgen (ejected n p s) = kgen s := f _ _ (by decide)
  have a4 : verHeld (ejected n p s) (pEpoch p) = verHeld s (pEpoch p) := by
    have hv : verOf (ejected n p s) (pEpoch p) = verOf s (pEpoch p) := by rw [(Passes.ejected n p s).only]; rfl
    unfold verHeld curEpoch dual prep; rw [hv]
    rw [g _ (by decide), g _ (by decide), g _ (by decide)]
  unfold pktVerdict; rw [a1, a2, a3, a4]

theorem isFenced_ejected (n : Bool) (p : Packet) (s : State) (d : Nat) : isFenced (ejected n p s) d = isFenced s d := by
  have h (i : Nat) : reg (ejected n p s) (Reg.REL_FENCE i) = reg s (Reg.REL_FENCE i) := by
    apply (Passes.ejected n p s).reg
    unfold pktRegs Reg.REL_FENCE Reg.XCHG_RX_PKT_LO Reg.XCHG_TX_PKT_LO Reg.PART_TDC_LO Reg.PART_TDC_SRC Reg.XCHG_FAB_DROP_CNT Reg.XCHG_FAB_STAT
    simp only [List.mem_cons, List.not_mem_nil, or_false, not_or]
    omega
  have m : (ejected n p s).fencedMore = s.fencedMore := by rw [(Passes.ejected n p s).only]
  simp only [isFenced, h, m]

theorem srcFenced_ejected (n : Bool) (p : Packet) (s : State) : srcFenced p (ejected n p s) = srcFenced p s := by
  simp only [srcFenced, isFenced_ejected]

theorem strange_ejected (n : Bool) (p : Packet) (c : Bool) (f b : Nat) (s : State) : strange p (raiseIf c f b (ejected n p s)) = strange p s := by
  have h (u : State) : (raiseIf c f b u).part = u.part := by unfold raiseIf; split <;> rfl
  have k : (ejected n p s).part = s.part := by rw [(Passes.ejected n p s).only]
  simp only [strange, isMember, h, k]

/-- At the head of its queue a packet meets three questions: the fence, the six checks, the member check. -/
theorem atHead_eq (rsp n : Bool) (p : Packet) (k : State → State) (s : State) :
    atHead rsp p k (ejected n p s) = (if srcFenced p s then bump Reg.REL_FENCE_DROP_CNT 1 (ejected n p s) else
      match pktVerdict rsp p s with
      | some (c, b) =>
        let t := discard c Reg.XCHG_FAB_STAT b (ejected n p s)
        if b = 6 ∧ (pTyp p == 3 && pTs p 18 3 0 == 0) = true then raiseBit Reg.SORT_CNT_STAT 0 (bump Reg.SORT_CNT_DISCARD (pTs p 16 15 0) t) else t
      | none =>
        if strange p s then discard Reg.PART_ISO_DROP_CNT Reg.PART_STAT 2 (raiseIf (pReserved p) Reg.XCHG_FAB_STAT 1 (ejected n p s))
        else k (raiseIf (pReserved p) Reg.XCHG_FAB_STAT 1 (ejected n p s))) := by
  rw [← srcFenced_ejected, ← pktVerdict_ejected, ← strange_ejected n p (pReserved p) Reg.XCHG_FAB_STAT 1 s]
  generalize ejected n p s = u
  unfold atHead srcFenced pktVerdict strange
  generalize (!(pCrcOk p)) = c1
  generalize (!([1, 2, 3, 4, 5, 6, 9, 10, 11, 12].contains (pTyp p)) || bit (pTyp p) 3 != rsp) = c2
  generalize (pMcast p == 3 || (pMcast p != 0 && (!(mcastAllowed p) || !(bit (pMmask p) (if pMcast p = 1 then pDst p % 8 else pDst p / 8 % 8))))) = c3
  generalize (!(assigned u) || pPart p != partId u) = c4
  generalize (!(verHeld u (pEpoch p))) = c5
  generalize (pKgen p != kgen u) = c6
  cases c1 <;> cases c2 <;> cases c3 <;> cases c4 <;> cases c5 <;> cases c6 <;> simp

/-- Ejection: the packet waits at its input while the queue gives no credit, or wins the port and waits behind a REQ packet that waits for room, or is
at the head of its queue (R36, R189, R251). -/
theorem eject_eq {rsp : Bool} {p : Packet} {k : State → State} {s : State} (h1 : takesPackets s = true) (h2 : fenced s = false) :
    eject rsp p k s = if noCredit rsp s then { copied p s with inQ := s.inQ ++ [p] } else
      if waits rsp s then { ejected rsp p s with ejectQ := s.ejectQ ++ [p] } else atHead rsp p k (ejected rsp p s) := by
  have c := Passes.copied p s
  have hf : fenced (copied p s) = false := by unfold fenced flag at *; rw [c.reg _ (by decide)]; exact h2
  have hi : (copied p s).inQ = s.inQ := by rw [c.only]
  have he : (copied p s).ejectQ = s.ejectQ := by rw [c.only]
  have hc : noCredit rsp (copied p s) = noCredit rsp s := by unfold noCredit flag; rw [c.reg _ (by decide), hi, he]
  have hq : (ejected rsp p s).ejectQ = s.ejectQ := by rw [(Passes.ejected rsp p s).only]
  unfold eject; rw [if_neg (by rw [h1]; decide)]; dsimp only
  rw [if_neg (by rw [hf]; decide), hc, hi]
  change (if noCredit rsp s = true then _ else if (!rsp && !(ejected rsp p s).ejectQ.isEmpty) = true then
    { ejected rsp p s with ejectQ := (ejected rsp p s).ejectQ ++ [p] } else _) = _
  rw [hq]; rfl

end Sys2Proof.Machine
end

