-- ==== Sys2Proof/Laws/Frame.lean ====
section
/-! SUPPORT. What happens to a beacon frame received on a link, said once. -/

namespace Sys2Proof.Machine

theorem recv_heard {l : Nat} {f : Frame} {early : Bool} {k : State → State} {s : State} (h : hears s (fCls f)) :
    recvFrame l f early k s = (if !f.whole then raiseBit Reg.XCHG_BCN_STAT 1 (bump Reg.XCHG_BCN_TRUNC_CNT 1 s)
      else if f.crc != crc16 (fBytes f) then raiseBit Reg.XCHG_BCN_STAT 0 (bump Reg.XCHG_BCN_CRC_CNT 1 s)
      else if repeated s l f then ackFrame l (fCls f) s
      else if !(ready (frameTaken l f s)) && !early then staleFrame (frameTaken l f s) else sameCycle k (frameTaken l f s)) := by
  unfold recvFrame; dsimp only
  rw [if_neg (by rw [h.1, h.2.1]; decide), if_neg]
  · rfl
  · rcases h.2.2 with h | h | h
    · simp [h]
    · simp [h]
    · have := h.2; simp [h.1]; intro _; omega

theorem recv_deaf {l : Nat} {f : Frame} {early : Bool} {k : State → State} {s : State} (h : ¬hears s (fCls f)) : recvFrame l f early k s = s := by
  unfold recvFrame; dsimp only
  by_cases h1 : (!s.powered || s.power.clkStopped) = true
  · rw [if_pos h1]
  · rw [if_neg h1, if_pos]
    simp only [Bool.or_eq_true, Bool.not_eq_true', not_or, Bool.not_eq_false, Bool.not_eq_true] at h1
    simp only [Bool.and_eq_true, Bool.or_eq_true, decide_eq_true_eq, Bool.not_eq_true', Bool.or_eq_false_iff, beq_eq_false_iff_ne]
    refine ⟨?_, fun hc => h ⟨h1.1, h1.2, .inl hc⟩, fun hc => h ⟨h1.1, h1.2, .inr (.inl hc)⟩⟩
    by_contra hc
    exact h ⟨h1.1, h1.2, .inr (.inr (by omega))⟩

theorem ready_taken (l : Nat) (f : Frame) (s : State) : ready (frameTaken l f s) = ready s := by
  have : reg (frameTaken l f s) Reg.REL_PWR_STAT = reg s Reg.REL_PWR_STAT := reg_setReg_ne s (by decide) _
  unfold ready flag; rw [this]

theorem crc16Bit_lt (c : Nat) : crc16Bit c < 0x10000 := by
  unfold crc16Bit; split
  · exact Nat.xor_lt_two_pow (n := 16) (Nat.mod_lt _ (by decide)) (by decide)
  · omega

theorem crc16Byte_lt (c : Nat) (b : Byte) : crc16Byte c b < 0x10000 := by
  unfold crc16Byte; exact crc16Bit_lt _

theorem crc16_fold_lt (l : List Byte) (c : Nat) (h : c < 0x10000) : l.foldl crc16Byte c < 0x10000 := by
  induction l generalizing c with
  | nil => exact h
  | cons b t ih => exact ih _ (crc16Byte_lt c b)

theorem crc16_toNat (l : List Byte) : (crc16 l).toNat = l.foldl crc16Byte 0xFFFF := by
  unfold crc16; rw [BitVec.toNat_ofNat]; exact Nat.mod_eq_of_lt (crc16_fold_lt l 0xFFFF (by norm_num))

theorem crc16_snoc (l : List Byte) (b : Byte) : (crc16 (l ++ [b])).toNat = crc16Byte (crc16 l).toNat b := by
  rw [crc16_toNat, crc16_toNat, List.foldl_append, List.foldl_cons, List.foldl_nil]

end Sys2Proof.Machine
end

