-- ==== Sys2Proof/Laws/Host.lean ====
section
/-! SUPPORT. What the Keeper does with a packet, said once. -/

namespace Sys2Proof.Machine

variable {op : Nat} {p : HostPkt} {s : State} {sel : HostPkt → Bool}

/-- A packet that reaches the Keeper is taken. -/
theorem hostRow_taken (h : hostReaches op p s) (hs : sel p = true) : hostRow op sel p s = takePkt p s := by
  obtain ⟨h1, h2, h3, h4, h5⟩ := h
  unfold hostRow
  rw [if_neg (by simp [h2, h1, hs]), if_neg (by simp [h3]), if_pos (by simp [h4, h5])]

/-- A packet that fails a check of its header, its scope or its partition is rejected by that check. -/
theorem takePkt_head {c : Nat × Nat × Nat} (h : firstBad (hdrChecks p ++ partChecks (hostSeen p s) p) = some c) :
    takePkt p s = reject p (rejOf c) (hostSeen p s) := by
  unfold takePkt
  simp only [h]

/-- A packet whose checks read nothing from die memory is judged as it is taken. -/
theorem takePkt_now (h : firstBad (hdrChecks p ++ partChecks (hostSeen p s) p) = none) (hr : takeReads p (hostSeen p s) = []) :
    takePkt p s = judgePkt p (hostSeen p s) (hostSeen p s) := by
  unfold takePkt
  simp only [h, hr, List.isEmpty_nil, if_true]

/-- A packet whose checks read die memory waits under check for those reads (R303, R382). -/
theorem takePkt_waits (h : firstBad (hdrChecks p ++ partChecks (hostSeen p s) p) = none) (hr : takeReads p (hostSeen p s) ≠ []) :
    takePkt p s = memRequests takeEng false (takeReads p (hostSeen p s)) { hostSeen p s with taking := some { pkt := p } } := by
  unfold takePkt
  simp only [h]
  rw [if_neg (fun e => hr (List.isEmpty_iff.mp e))]

/-- A packet that passes every check acts. -/
theorem takePkt_passes (h : hostPasses p s) :
    takePkt p s = (if hOp p == 0x90 || hOp p == 0x40 then retryHold (hostDo p (hostSeen p s)) else hostDo p (hostSeen p s)) := by
  obtain ⟨h1, hr, h2⟩ := h
  rw [takePkt_now h1 hr]
  unfold judgePkt
  simp only [h2]

/-- A packet that fails a rule of its opcode is rejected by that rule. -/
theorem takePkt_judged {j : Rej} (h : firstBad (hdrChecks p ++ partChecks (hostSeen p s) p) = none) (hr : takeReads p (hostSeen p s) = [])
    (hj : judge (hostSeen p s) (hostVerdict (hostSeen p s) p) = some j) : takePkt p s = reject p j (hostSeen p s) := by
  rw [takePkt_now h hr]
  unfold judgePkt
  simp only [hj]

/-- A packet that passes every check acts, for every opcode but the two that write the reference. -/
theorem hostRow_acts (h : hostReaches op p s) (hs : sel p = true) (hp : hostPasses p s) (h9 : op ≠ 0x90) (h4 : op ≠ 0x40) :
    hostRow op sel p s = hostDo p (hostSeen p s) := by
  rw [hostRow_taken h hs, takePkt_passes hp, if_neg (by simp [h.1, h9, h4])]

/-- CFG_COMMIT and PART_CONFIG attempt a held boundary again once they have acted (R383). -/
theorem hostRow_acts_retry (h : hostReaches op p s) (hs : sel p = true) (hp : hostPasses p s) (h9 : op = 0x90 ∨ op = 0x40) :
    hostRow op sel p s = retryHold (hostDo p (hostSeen p s)) := by
  rw [hostRow_taken h hs, takePkt_passes hp, if_pos (by rcases h9 with e | e <;> simp [h.1, e])]

end Sys2Proof.Machine
end

