-- ==== Sys2Proof/Laws/PerInstr.lean ====
section
/-! SUPPORT. What holds of every command as syntax, constructor by constructor: the opcode table gives no row a word, so no word spells the command;
a command comes in from outside. -/

namespace Sys2Proof.Laws.NoWord

/-- No word spells the command. -/
def Statement (i : Instr) : Prop := ∀ nbits w, decodeTableWord nbits w ≠ some i

theorem all (i : Instr) : Statement i := fun _ _ h => by simp [decodeTableWord] at h

theorem nop : ∀ p, Statement (.nop p) := fun _ => all _
theorem getInfo : ∀ p, Statement (.getInfo p) := fun _ => all _
theorem loadModel : ∀ p, Statement (.loadModel p) := fun _ => all _
theorem unloadModel : ∀ p, Statement (.unloadModel p) := fun _ => all _
theorem switchModel : ∀ p, Statement (.switchModel p) := fun _ => all _
theorem runStep : ∀ p, Statement (.runStep p) := fun _ => all _
theorem killStepRerun : ∀ p, Statement (.killStepRerun p) := fun _ => all _
theorem killStepDrop : ∀ p, Statement (.killStepDrop p) := fun _ => all _
theorem queryStep : ∀ p, Statement (.queryStep p) := fun _ => all _
theorem readLl : ∀ p, Statement (.readLl p) := fun _ => all _
theorem partConfigSet : ∀ p, Statement (.partConfigSet p) := fun _ => all _
theorem partConfigLeave : ∀ p, Statement (.partConfigLeave p) := fun _ => all _
theorem storeNvm : ∀ p, Statement (.storeNvm p) := fun _ => all _
theorem storeNvmDone : ∀ failed, Statement (.storeNvmDone failed) := fun _ => all _
theorem selfTest : ∀ p, Statement (.selfTest p) := fun _ => all _
theorem selfTestDone : ∀ tiles lanes words, Statement (.selfTestDone tiles lanes words) := fun _ _ _ => all _
theorem suspendIdle : ∀ p, Statement (.suspendIdle p) := fun _ => all _
theorem suspendDark : ∀ p, Statement (.suspendDark p) := fun _ => all _
theorem resume : ∀ p, Statement (.resume p) := fun _ => all _
theorem captureStart : ∀ p, Statement (.captureStart p) := fun _ => all _
theorem captureStop : ∀ p, Statement (.captureStop p) := fun _ => all _
theorem replayStart : ∀ p, Statement (.replayStart p) := fun _ => all _
theorem replayStop : ∀ p, Statement (.replayStop p) := fun _ => all _
theorem logFlush : ∀ p, Statement (.logFlush p) := fun _ => all _
theorem submitList : ∀ p, Statement (.submitList p) := fun _ => all _
theorem allocCounters : ∀ p, Statement (.allocCounters p) := fun _ => all _
theorem freeCounters : ∀ p, Statement (.freeCounters p) := fun _ => all _
theorem allocCpool : ∀ p, Statement (.allocCpool p) := fun _ => all _
theorem freeCpool : ∀ p, Statement (.freeCpool p) := fun _ => all _
theorem cfgCommitRef : ∀ p, Statement (.cfgCommitRef p) := fun _ => all _
theorem cfgCommitSelf : ∀ p, Statement (.cfgCommitSelf p) := fun _ => all _
theorem mbDoorbell : ∀ data, Statement (.mbDoorbell data) := fun _ => all _
theorem mbCmdWrite : ∀ n data, Statement (.mbCmdWrite n data) := fun _ _ => all _
theorem mbPop : ∀ data, Statement (.mbPop data) := fun _ => all _
theorem mbTake : Statement (.mbTake) := all _
theorem keeperReadTimeout : Statement (.keeperReadTimeout) := all _
theorem replyFifoEnter : Statement (.replyFifoEnter) := all _
theorem ringPlaceResume : Statement (.ringPlaceResume) := all _
theorem stepEnqueue : ∀ spareFail, Statement (.stepEnqueue spareFail) := fun _ => all _
theorem idleStepBoundary : ∀ spareFail, Statement (.idleStepBoundary spareFail) := fun _ => all _
theorem cfgHoldRetry : Statement (.cfgHoldRetry) := all _
theorem cfgFlipTimeout : Statement (.cfgFlipTimeout) := all _
theorem cfgCrcDone : Statement (.cfgCrcDone) := all _
theorem pdResolve : Statement (.pdResolve) := all _
theorem score : ∀ be fail, Statement (.score be fail) := fun _ _ => all _
theorem scoreCount : ∀ be fail, Statement (.scoreCount be fail) := fun _ _ => all _
theorem func : ∀ be, Statement (.func be) := fun _ => all _
theorem rowMax : ∀ be, Statement (.rowMax be) := fun _ => all _
theorem rowSumexp : ∀ be, Statement (.rowSumexp be) := fun _ => all _
theorem softmax : ∀ be, Statement (.softmax be) := fun _ => all _
theorem rowRms : ∀ be, Statement (.rowRms be) := fun _ => all _
theorem renorm : ∀ be, Statement (.renorm be) := fun _ => all _
theorem select : ∀ be, Statement (.select be) := fun _ => all _
theorem selectGonly : ∀ be, Statement (.selectGonly be) := fun _ => all _
theorem sort : ∀ be fail, Statement (.sort be fail) := fun _ _ => all _
theorem sortGateway : ∀ be fail, Statement (.sortGateway be fail) := fun _ _ => all _
theorem plan : ∀ be, Statement (.plan be) := fun _ => all _
theorem send : ∀ be, Statement (.send be) := fun _ => all _
theorem recv : ∀ be, Statement (.recv be) := fun _ => all _
theorem forward : ∀ be, Statement (.forward be) := fun _ => all _
theorem fetchRequester : ∀ be, Statement (.fetchRequester be) := fun _ => all _
theorem fetchServer : ∀ be, Statement (.fetchServer be) := fun _ => all _
theorem combine : ∀ be, Statement (.combine be) := fun _ => all _
theorem combineAck : ∀ be, Statement (.combineAck be) := fun _ => all _
theorem move : ∀ be, Statement (.move be) := fun _ => all _
theorem dispatch : ∀ be, Statement (.dispatch be) := fun _ => all _
theorem reduceStatsFabric : ∀ be, Statement (.reduceStatsFabric be) := fun _ => all _
theorem reduceStatsBeacon : ∀ be, Statement (.reduceStatsBeacon be) := fun _ => all _
theorem commit : Statement (.commit) := all _
theorem stepKill : ∀ cause, Statement (.stepKill cause) := fun _ => all _
theorem rerun : Statement (.rerun) := all _
theorem modelSwitch : ∀ read, Statement (.modelSwitch read) := fun _ => all _
theorem ingressBeat : ∀ cluster flag data, Statement (.ingressBeat cluster flag data) := fun _ _ _ => all _
theorem ingTimeout : Statement (.ingTimeout) := all _
theorem shDone : ∀ cluster, Statement (.shDone cluster) := fun _ => all _
theorem clusterResultRow : ∀ cluster tag row, Statement (.clusterResultRow cluster tag row) := fun _ _ _ => all _
theorem workRecordTaken : ∀ cluster, Statement (.workRecordTaken cluster) := fun _ => all _
theorem dlbSteal : Statement (.dlbSteal) := all _
theorem warmDone : ∀ cluster, Statement (.warmDone cluster) := fun _ => all _
theorem halfArmed : ∀ half, Statement (.halfArmed half) := fun _ => all _
theorem dispatchPacket : ∀ p, Statement (.dispatchPacket p) := fun _ => all _
theorem bundlePacket : ∀ p, Statement (.bundlePacket p) := fun _ => all _
theorem fetchRd : ∀ p, Statement (.fetchRd p) := fun _ => all _
theorem fetchCpl : ∀ p, Statement (.fetchCpl p) := fun _ => all _
theorem countRecords : ∀ p, Statement (.countRecords p) := fun _ => all _
theorem collData : ∀ p, Statement (.collData p) := fun _ => all _
theorem result : ∀ p, Statement (.result p) := fun _ => all _
theorem ack : ∀ p, Statement (.ack p) := fun _ => all _
theorem ackBatchTimer : ∀ idx, Statement (.ackBatchTimer idx) := fun _ => all _
theorem ackTimeout : ∀ eng, Statement (.ackTimeout eng) := fun _ => all _
theorem resultTimeout : ∀ half, Statement (.resultTimeout half) := fun _ => all _
theorem fetchRdLate : Statement (.fetchRdLate) := all _
theorem fetchStreamShort : Statement (.fetchStreamShort) := all _
theorem sharedRowsTimeout : Statement (.sharedRowsTimeout) := all _
theorem llReqRead : ∀ p, Statement (.llReqRead p) := fun _ => all _
theorem llReqOwn : ∀ p rivals, Statement (.llReqOwn p rivals) := fun _ _ => all _
theorem llWb : ∀ p, Statement (.llWb p) := fun _ => all _
theorem llGrantData : ∀ p, Statement (.llGrantData p) := fun _ => all _
theorem llGrantGrant : ∀ p, Statement (.llGrantGrant p) := fun _ => all _
theorem llRetry : ∀ p, Statement (.llRetry p) := fun _ => all _
theorem llRetryResend : ∀ idx, Statement (.llRetryResend idx) := fun _ => all _
theorem regWrite : ∀ p, Statement (.regWrite p) := fun _ => all _
theorem regRead : ∀ p, Statement (.regRead p) := fun _ => all _
theorem stepAbort : ∀ p, Statement (.stepAbort p) := fun _ => all _
theorem partHold : ∀ p, Statement (.partHold p) := fun _ => all _
theorem partResume : ∀ p, Statement (.partResume p) := fun _ => all _
theorem ctrlResult : ∀ p, Statement (.ctrlResult p) := fun _ => all _
theorem transitForward : ∀ p contended, Statement (.transitForward p contended) := fun _ _ => all _
theorem bucketAdmit : ∀ mem, Statement (.bucketAdmit mem) := fun _ => all _
theorem apertureAccess : ∀ a, Statement (.apertureAccess a) := fun _ => all _
theorem memCompletion : ∀ tag poisoned, Statement (.memCompletion tag poisoned) := fun _ _ => all _
theorem memReadTimeout : ∀ slot, Statement (.memReadTimeout slot) := fun _ => all _
theorem join : ∀ link f, Statement (.join link f) := fun _ _ => all _
theorem release : ∀ link f, Statement (.release link f) := fun _ _ => all _
theorem alarm : ∀ link f, Statement (.alarm link f) := fun _ _ => all _
theorem wake : ∀ link f, Statement (.wake link f) := fun _ _ => all _
theorem heartbeat : ∀ link f, Statement (.heartbeat link f) := fun _ _ => all _
theorem heartbeatPeriod : Statement (.heartbeatPeriod) := all _
theorem claim : ∀ link f, Statement (.claim link f) := fun _ _ => all _
theorem root : ∀ link f, Statement (.root link f) := fun _ _ => all _
theorem electSettle : Statement (.electSettle) := all _
theorem treeRootTimeout : Statement (.treeRootTimeout) := all _
theorem discover : ∀ link f, Statement (.discover link f) := fun _ _ => all _
theorem discoverReply : ∀ link f, Statement (.discoverReply link f) := fun _ _ => all _
theorem flipReq : ∀ link f, Statement (.flipReq link f) := fun _ _ => all _
theorem flipReqTimer : Statement (.flipReqTimer) := all _
theorem flipPrep : ∀ link f, Statement (.flipPrep link f) := fun _ _ => all _
theorem flipStage1Done : Statement (.flipStage1Done) := all _
theorem flipGo : ∀ link f, Statement (.flipGo link f) := fun _ _ => all _
theorem flipRetireJoin : Statement (.flipRetireJoin) := all _
theorem drainTimeout : Statement (.drainTimeout) := all _
theorem drainDone : Statement (.drainDone) := all _
theorem killFrame : ∀ link f, Statement (.killFrame link f) := fun _ _ => all _
theorem fence : ∀ link f, Statement (.fence link f) := fun _ _ => all _
theorem beaconFrameAck : ∀ link cls, Statement (.beaconFrameAck link cls) := fun _ _ => all _
theorem beaconResend : ∀ link cls, Statement (.beaconResend link cls) := fun _ _ => all _
theorem darkSidebandChange : ∀ link dark, Statement (.darkSidebandChange link dark) := fun _ _ => all _
theorem lockstepMismatch : Statement (.lockstepMismatch) := all _
theorem watchdogExpire : Statement (.watchdogExpire) := all _
theorem scrubVisit : ∀ found, Statement (.scrubVisit found) := fun _ => all _
theorem soundSample : ∀ core fab ctl bcn aon, Statement (.soundSample core fab ctl bcn aon) := fun _ _ _ _ _ => all _
theorem clockWindow : ∀ bad, Statement (.clockWindow bad) := fun _ => all _
theorem pwrGoodRise : Statement (.pwrGoodRise) := all _
theorem resetN : ∀ aonCycles, Statement (.resetN aonCycles) := fun _ => all _
theorem phaseAEnd : Statement (.phaseAEnd) := all _
theorem phaseBEnd : ∀ tiles lanes, Statement (.phaseBEnd tiles lanes) := fun _ _ => all _
theorem sliceReady : ∀ startupOk, Statement (.sliceReady startupOk) := fun _ => all _
theorem bootGo : ∀ data, Statement (.bootGo data) := fun _ => all _
theorem extImageTimeout : Statement (.extImageTimeout) := all _
theorem idleExitDone : Statement (.idleExitDone) := all _
theorem darkDrainTimer : Statement (.darkDrainTimer) := all _
theorem darkEnter : Statement (.darkEnter) := all _
theorem logWord0Read : ∀ wide, Statement (.logWord0Read wide) := fun _ => all _
theorem logCtlFlush : ∀ data, Statement (.logCtlFlush data) := fun _ => all _
theorem logFlushBoundary : Statement (.logFlushBoundary) := all _
theorem clampClr : ∀ data, Statement (.clampClr data) := fun _ => all _
theorem satClr : ∀ data, Statement (.satClr data) := fun _ => all _
theorem tdcClr : ∀ data, Statement (.tdcClr data) := fun _ => all _
theorem acctSelWrite : ∀ data, Statement (.acctSelWrite data) := fun _ => all _
theorem acctCopyDone : Statement (.acctCopyDone) := all _
theorem capSwWrite : ∀ data, Statement (.capSwWrite data) := fun _ => all _
theorem captureStartApply : Statement (.captureStartApply) := all _
theorem captureStopApply : Statement (.captureStopApply) := all _
theorem registerWrite : ∀ off size data, Statement (.registerWrite off size data) := fun _ _ _ => all _
theorem registerRead : ∀ off size, Statement (.registerRead off size) := fun _ _ => all _
theorem pwrGoodFall : Statement (.pwrGoodFall) := all _
theorem aonTick : Statement (.aonTick) := all _
theorem badTypePacket : ∀ rsp p, Statement (.badTypePacket rsp p) := fun _ _ => all _
theorem unlistedBeaconFrame : ∀ link f, Statement (.unlistedBeaconFrame link f) := fun _ _ => all _
theorem captureRingCopy : Statement (.captureRingCopy) := all _
theorem memWriteTimeout : ∀ eng addr, Statement (.memWriteTimeout eng addr) := fun _ _ => all _

end Sys2Proof.Laws.NoWord
end

