-- ==== Sys2Proof/Laws/Window.lean ====
section
/-! SUPPORT. What an access of the register window does, said once each. -/

namespace Sys2Proof.Machine

open State

/-- A read the control port serves is a read of the window. -/
theorem portRead_served {s : State} {off size : Nat} (hp : portServes s off) : portRead off size s = windowRead off size s := by
  unfold portRead
  rw [if_neg (by simp [hp.1]), if_neg (by simp; intro h; exact hp.2 h)]

/-- A write the control port takes is a write of the window. -/
theorem portWrite_taken {s : State} {off size v : Nat} (hp : portTakes s off) : portWrite off size v s = windowWrite off size v s := by
  unfold portWrite
  rw [if_neg (by simp [hp.1]), if_neg]
  intro h; simp at h
  rcases hp.2 h.1 with h2 | h2
  · rw [h2] at h; simp at h
  · obtain ⟨-, -, h3⟩ := h; omega

/-- A 32-bit write of a mapped register writes its fields. -/
theorem portWrite_word {o : Nat} {s : State} (d : W32) (hp : portTakes s o) (h4 : aligned o 4 = true) (hm : mapped o = true)
    (ht : target o = (o, none)) : portWrite o 4 d.toNat s = writeReg o 4294967295 d.toNat s := by
  rw [portWrite_taken hp]
  unfold windowWrite
  simp only [h4, hm, accessErr, write32, ht, Nat.mod_eq_of_lt d.isLt]
  simp

/-- An offset of the register pages is its own target (R429). -/
theorem target_low {off : Nat} (h : off % 4 = 0) (h2 : off < 0x8000) : target off = (off, none) := by
  simp only [target, h2, if_true]; congr 1; omega

theorem aligned_word {off : Nat} (h : off % 4 = 0) : aligned off 4 = true := by simp [aligned, h]

theorem ite_setReg_only (c : Prop) [Decidable c] (o v : Nat) (s : State) :
    (if c then s else setReg o v s) = { s with live := (if c then s else setReg o v s).live } := by
  split <;> rfl

/-- RC bits are cleared in the live registers and nowhere else. -/
theorem clearRc_only (o v : Nat) (s : State) : clearRc o v s = { s with live := (clearRc o v s).live } := by
  unfold clearRc; split
  · rfl
  · exact ite_setReg_only _ _ _ _

/-! ### The log FIFO's output -/

theorem spillCheck_out (k : Nat) (s : State) : (spillCheck k s).out = s.out := by
  induction k generalizing s with
  | zero => rfl
  | succ k ih =>
    unfold spillCheck
    split
    · rfl
    · split
      · rfl
      · split
        · rw [ih]; rfl
        · rfl

theorem logTake_out (s : State) : (logTake s).out = s.out := by
  unfold logTake; dsimp only
  split
  · rfl
  · split
    all_goals rw [logFell_only]; exact spillCheck_out _ _

end Sys2Proof.Machine
end

