-- ==== Sys2Proof/Tests/Slice0.lean ====
section
/-! SUPPORT. Tests: the form of commands, and for every statement of the certificate a state and operands that meet its hypotheses. Expected values
come from the rules of spec/ named beside them. -/

namespace Sys2Proof.Tests

set_option Elab.async false

open Sys2Proof Sys2Proof.Machine

/-! ### Small states -/

/-- Ready, in RUN (R401, R416). -/
def up : State := setReg Reg.REL_PWR_STAT 0x1C State.reset
/-- The same in partition 5. -/
def member : State := setReg Reg.PART_ID (5 + 2 ^ 10) up
/-- Windows of the partition, readable and writable: 4 GiB of die memory from 0x1_0000_0000, and the pool region of staging, with a place in it. -/
def winAll : Nat := 0x100000000 + 0x100000 * 2 ^ 64 + 3 * 2 ^ 96
def winStg : Nat := 0xFE0000600000 + 0x1200 * 2 ^ 64 + 3 * 2 ^ 96
def pl0 : Addr := 0xFE0000A00000
/-- The partition with a window of the die's memory. -/
def windowed : State := { member with part := { member.part with wins := [winAll, winStg], members := [0] } }
/-- The control port is up, the slice not ready. -/
def booting : State := setReg Reg.REL_PWR_STAT 0x08 State.reset
/-- In DARK. -/
def dark : State := setReg Reg.REL_PWR_STAT 0x1E State.reset

/-! ### Host packets -/

/-- A packet with a right header (R298). -/
def pkt (op part : Nat) (params : List Byte) : HostPkt :=
  { hdr := BitVec.ofNat 256 (op + 7 * 2 ^ 16 + part * 2 ^ 32 + params.length * 2 ^ 64 + (if params.isEmpty then 0 else (crc32c params).toNat) * 2 ^ 96)
    params := params }

/-- The packet reaches the Keeper and passes every check. -/
def hostB (op : Nat) (p : HostPkt) (s : State) : Bool :=
  hOp p == op && ctlUp s && !(bellClosed s) && s.mboxPkt.isNone && mayTake p s
    && (firstBad (hdrChecks p ++ partChecks (hostSeen p s) p)).isNone && (takeReads p (hostSeen p s)).isEmpty
    && (judge (hostSeen p s) (hostVerdict (hostSeen p s) p)).isNone

theorem host_ok {op : Nat} {p : HostPkt} {s : State} (h : hostB op p s = true) : hostPasses p s ∧ hostReaches op p s := by
  simp only [hostB, Bool.and_eq_true, beq_iff_eq, Bool.not_eq_true', Option.isNone_iff_eq_none, List.isEmpty_iff] at h
  obtain ⟨⟨⟨⟨⟨⟨⟨a, b⟩, c⟩, d⟩, e⟩, f⟩, r⟩, g⟩ := h
  exact ⟨⟨f, r, g⟩, a, b, c, d, e⟩

/-- Header of a model of 4 layers: rates and table pointers zero (R351). -/
def hdr4 : BitVec 1024 := 3
def loaded : State := setReg Reg.PART_MODEL 4 { windowed with models := [{ id := 2, hdr := hdr4, resident := true, leaving := false }] }
def pooled : State := { windowed with pools := [{ id := 0, head := 0, free := [0xFE0000800000, 0xFE0000801000], owned := [] },
  { id := 2, head := 0, free := [0xFE0000810000, 0xFE0000820000], owned := [] }] }

def pFlush := pkt 0x70 0 []
def pRef := pkt 0x90 0 (leBytes 8 0x12345678)
def pSelf := pkt 0x90 0 (leBytes 8 (2 ^ 32))
def pAlloc := pkt 0x81 5 (leBytes 4 (1016 + 8 * 2 ^ 16))
def pRun := pkt 0x20 5 (leBytes 4 9 ++ leBytes 4 (2 + 3 * 2 ^ 8 + 5 * 2 ^ 16) ++ leBytes 8 0)
def pCpool := pkt 0x83 5 (leBytes 4 (16 + 2 * 2 ^ 16) ++ leBytes 4 0 ++ leBytes 8 0x100000000)

/-! ### Host opcodes: each clause's hypotheses met -/

def st1 : Step := newStep loaded pRun 9 2 3 5 false 0 63 []
def stepped : State := { loaded with steps := [st1], nextSeq := 1 }
def given : State := { member with cntAlloc := [1016, 1017, 1018, 1019, 1020, 1021, 1022, 1023] }
def pFree := pkt 0x82 5 (leBytes 4 (1016 + 8 * 2 ^ 16))
def pFcp := pkt 0x84 5 (leBytes 4 16)
def lined : State := { windowed with ll := [{ epoch := false, data := 2 ^ 29 + 7, pinned := false, dir := false, next := false }] }
def pRll := pkt 0x30 5 (leBytes 4 7 ++ leBytes 4 0 ++ leBytes 8 0x100000000)

theorem test_HostQueriesAnswer_met :
    (hostPasses (pkt 0x00 0 []) up ∧ hostReaches 0x00 (pkt 0x00 0 []) up) ∧ (hostPasses (pkt 0x01 0 []) up ∧ hostReaches 0x01 (pkt 0x01 0 []) up)
    ∧ (hostPasses (pkt 0x22 5 (leBytes 4 0)) stepped ∧ hostReaches 0x22 (pkt 0x22 5 (leBytes 4 0)) stepped)
    ∧ (hostPasses pFlush up ∧ hostReaches 0x70 pFlush up) ∧ (hostPasses pRef up ∧ hostReaches 0x90 pRef up)
    ∧ (hostPasses pSelf up ∧ hostReaches 0x90 pSelf up) :=
  ⟨host_ok (by decide +kernel), host_ok (by decide +kernel), host_ok (by decide +kernel), host_ok (by decide +kernel), host_ok (by decide +kernel),
   host_ok (by decide +kernel)⟩
theorem test_HostQueriesAnswer_data :
    (stepInfo (hostSeen (pkt 0x22 5 (leBytes 4 0)) stepped) 0).isSome ∧ bit (hPar pRef 4 1) 0 = false ∧ bit (hPar pSelf 4 1) 0 = true := by decide +kernel

theorem test_HostAllocationsAct_met :
    (hostPasses pAlloc member ∧ hostReaches 0x81 pAlloc member) ∧ (hostPasses pFree given ∧ hostReaches 0x82 pFree given)
    ∧ (hostPasses pCpool pooled ∧ hostReaches 0x83 pCpool pooled) ∧ (hostPasses pCpool windowed ∧ hostReaches 0x83 pCpool windowed)
    ∧ (hostPasses pFcp { member with cpools := [{ id := 16, credits := 1, size := 1, cls := 0, bufs := [0xFE0000800000] }] }
        ∧ hostReaches 0x84 pFcp { member with cpools := [{ id := 16, credits := 1, size := 1, cls := 0, bufs := [0xFE0000800000] }] })
    ∧ (hostPasses pRll lined ∧ hostReaches 0x30 pRll lined) :=
  ⟨host_ok (by decide +kernel), host_ok (by decide +kernel), host_ok (by decide +kernel), host_ok (by decide +kernel), host_ok (by decide +kernel),
   host_ok (by decide +kernel)⟩
theorem test_HostAllocationsAct_data :
    (allocBufs 0 2 (some 16) (hostSeen pCpool pooled)).1 = 0 ∧ (allocBufs 0 2 (some 16) (hostSeen pCpool windowed)).1 = 7
    ∧ (rllLine (hostSeen pRll lined) pRll).isSome := by decide +kernel

def pKill (b : Nat) := pkt 0x21 5 (leBytes 4 b)
theorem test_HostStepsAccepted_met :
    (hostPasses pRun loaded ∧ hostReaches 0x20 pRun loaded)
    ∧ (hostPasses (pKill 0) member ∧ hostReaches 0x21 (pKill 0) member) ∧ (hostPasses (pKill 1) member ∧ hostReaches 0x21 (pKill 1) member)
    ∧ bit (hPar (pKill 0) 0 1) 0 = false ∧ bit (hPar (pKill 1) 0 1) 0 = true :=
  ⟨host_ok (by decide +kernel), host_ok (by decide +kernel), host_ok (by decide +kernel), by decide +kernel, by decide +kernel⟩

/-- A model header at the window's start: CRC32C of its 128 bytes in the packet (R351). -/
def hdrState : State := { windowed with mem := [(pl0, 3)] }
def pLoad := pkt 0x10 5 (leBytes 4 1 ++ leBytes 4 (crc32c (leBytes 128 3)).toNat ++ leBytes 8 pl0)
def pModel (op : Nat) := pkt op 5 (leBytes 4 2)
def pLeave := pkt 0x40 0 (leBytes 4 0x10000 ++ leBytes 28 0)
theorem test_HostModelsAndPartitions_met :
    (hostPasses pLoad hdrState ∧ hostReaches 0x10 pLoad hdrState) ∧ (hostPasses (pModel 0x11) loaded ∧ hostReaches 0x11 (pModel 0x11) loaded)
    ∧ (hostPasses (pModel 0x12) loaded ∧ hostReaches 0x12 (pModel 0x12) loaded) ∧ (hostPasses pLeave member ∧ hostReaches 0x40 pLeave member)
    ∧ bits (hPar pLeave 2 1) 1 0 = 1 :=
  ⟨host_ok (by decide +kernel), host_ok (by decide +kernel), host_ok (by decide +kernel), host_ok (by decide +kernel), by decide +kernel⟩

def p4 (op v : Nat) := pkt op 0 (leBytes 4 v)
def rep0 : Reply := mkReply (p4 0x50 1) 0 []
def testing : State := { up with longOp := .selfTest 3 rep0 }
def storing : State := { up with longOp := .store 1 [] rep0 }
theorem test_LongOperations_met :
    (hostPasses (p4 0x50 3) up ∧ hostReaches 0x50 (p4 0x50 3) up) ∧ (hostPasses (p4 0x51 7) up ∧ hostReaches 0x51 (p4 0x51 7) up)
    ∧ (keeperUp testing = true ∧ testing.longOp = .selfTest 3 rep0) ∧ (keeperUp storing = true ∧ storing.longOp = .store 1 [] rep0)
    ∧ up.longOp = .none :=
  ⟨host_ok (by decide +kernel), host_ok (by decide +kernel), by decide +kernel, by decide +kernel, by decide +kernel⟩

def asleep : State := setFld Reg.REL_PWR_STAT 1 0 1 up
def susp (x : Suspend) (s : State) : State := { s with power := { s.power with susp := x } }
theorem test_PowerTransitions_met :
    (hostPasses (p4 0x52 0) up ∧ hostReaches 0x52 (p4 0x52 0) up) ∧ (hostPasses (p4 0x52 1) up ∧ hostReaches 0x52 (p4 0x52 1) up)
    ∧ (hostPasses (p4 0x53 0) asleep ∧ hostReaches 0x53 (p4 0x53 0) asleep)
    ∧ (hostPasses (p4 0x53 0) (susp (.leavingIdle none) asleep) ∧ hostReaches 0x53 (p4 0x53 0) (susp (.leavingIdle none) asleep))
    ∧ (hostPasses (p4 0x53 0) (susp .fencing up) ∧ hostReaches 0x53 (p4 0x53 0) (susp .fencing up))
    ∧ (hostPasses (p4 0x53 0) (susp .draining up) ∧ hostReaches 0x53 (p4 0x53 0) (susp .draining up)) :=
  ⟨host_ok (by decide +kernel), host_ok (by decide +kernel), host_ok (by decide +kernel), host_ok (by decide +kernel), host_ok (by decide +kernel),
   host_ok (by decide +kernel)⟩
theorem test_PowerTransitions_data :
    (hostSeen (p4 0x53 0) asleep).power.susp = .none ∧ (hostSeen (p4 0x53 0) (susp .fencing up)).power.susp = .fencing
    ∧ forwarding (susp (.leavingIdle none) asleep) = true ∧ forwarding (susp .fencing up) = true ∧ forwarding (susp .draining up) = true
    ∧ buffersEmpty (susp .draining up) = true ∧ buffersEmpty (susp .draining { up with inQ := [mkPacket up { typ := 1, dst := 0, be := false, epoch := false, layer := 0, half := false, model := 0, kgen := 0 } []] }) = false := by decide +kernel

def pCap (op b n : Nat) := pkt op 5 (leBytes 1 b ++ leBytes 1 0 ++ leBytes 2 n ++ leBytes 4 (if n = 0 then 0 else 1) ++ leBytes 8 (if n = 0 then 0 else if op = 0x61 then pl0 else 0x100000000))
def capOn : State := setFld Reg.PART_CAP_STAT 1 0 1 pooled
/-- The ring of free buffers itself is poisoned (R323). -/
def spoilt : State := { pooled with poison := [0] }
def repOn : State := setFld Reg.PART_CAP_STAT 1 0 2 pooled
theorem test_CaptureAndReplay_met :
    (hostPasses (pCap 0x60 0 2) pooled ∧ hostReaches 0x60 (pCap 0x60 0 2) pooled) ∧ (hostPasses (pCap 0x60 1 0) capOn ∧ hostReaches 0x60 (pCap 0x60 1 0) capOn)
    ∧ (hostPasses (pCap 0x60 0 2) spoilt ∧ hostReaches 0x60 (pCap 0x60 0 2) spoilt)
    ∧ (hostPasses (pCap 0x61 1 0) repOn ∧ hostReaches 0x61 (pCap 0x61 1 0) repOn) :=
  ⟨host_ok (by decide +kernel), host_ok (by decide +kernel), host_ok (by decide +kernel), host_ok (by decide +kernel)⟩
theorem test_CaptureAndReplay_data :
    (allocBufs 2 2 none (hostSeen (pCap 0x60 0 2) pooled)).1 = 0 ∧ (allocBufs 2 2 none (hostSeen (pCap 0x60 0 2) spoilt)).1 = 7
    ∧ keeperUp pooled = true := by decide +kernel

/-! ### Registers, log, boot -/

theorem portServes_of {s : State} {off : Nat} (h : (ctlUp s && (pwrState s != 2 || aonServed off)) = true) : portServes s off := by
  simp only [Bool.and_eq_true, Bool.or_eq_true, bne_iff_ne] at h
  exact ⟨h.1, fun e => h.2.resolve_left (fun n => n e)⟩
theorem portTakes_of {s : State} {off : Nat} (h : (ctlUp s && (pwrState s != 2 || aonServed off)) = true) : portTakes s off :=
  ⟨(portServes_of h).1, fun e => .inl ((portServes_of h).2 e)⟩

theorem test_RegisterReadWord_met : up.wf = true ∧ portServes up Reg.KEEP_REJ_CNT ∧ Reg.KEEP_REJ_CNT % 4 = 0 ∧ Reg.KEEP_REJ_CNT < 0x8000
    ∧ (regRow Reg.KEEP_REJ_CNT).isSome = true ∧ Reg.KEEP_REJ_CNT ≠ Reg.PART_LOG_WORD 0 :=
  ⟨by decide +kernel, portServes_of (by decide +kernel), by decide +kernel, by decide +kernel, by decide +kernel, by decide +kernel⟩
/-- In DARK the AON responder's registers are served, others not; before the control port is up nothing is. -/
theorem test_RegisterForms_met : portServes dark Reg.REL_PWR_STAT ∧ (ctlUp dark = true ∧ pwrState dark = 2 ∧ aonServed Reg.CORE_DEVID_LO = false)
    ∧ ctlUp State.reset = false ∧ portServes up 0x20 ∧ aligned 0x20 8 = true ∧ aligned 0x22 2 = true ∧ aligned 0x22 4 = false :=
  ⟨portServes_of (by decide +kernel), by decide +kernel, by decide +kernel, portServes_of (by decide +kernel), by decide +kernel, by decide +kernel,
   by decide +kernel⟩
theorem test_RegisterWriteWord_met : portTakes up Reg.REL_PWR_CFG ∧ Reg.REL_PWR_CFG % 4 = 0 ∧ Reg.REL_PWR_CFG < 0x8000
    ∧ (regRow Reg.REL_PWR_CFG).isSome = true ∧ writeActs Reg.REL_PWR_CFG = false ∧ ignores Reg.REL_PWR_CFG = false :=
  ⟨portTakes_of (by decide +kernel), by decide +kernel, by decide +kernel, by decide +kernel, by decide +kernel, by decide +kernel⟩
theorem test_WritesThatAct_met : portTakes up Reg.COMB_CNT_CLR ∧ portTakes up Reg.PART_DET_CTL ∧ portTakes up Reg.PART_ACCT_SEL
    ∧ portTakes up Reg.PART_CAP_SW_HI ∧ portTakes up Reg.PART_LOG_CTL :=
  ⟨portTakes_of (by decide +kernel), portTakes_of (by decide +kernel), portTakes_of (by decide +kernel), portTakes_of (by decide +kernel),
   portTakes_of (by decide +kernel)⟩

def logged : State := { up with log := { up.log with pkts := [{ words := [1, 2, 3, 4, 5, 6, 7, 8], wseq := 0, spilled := false }] } }
def flushing : State := raiseBit Reg.PART_LOG_STAT 2 logged
theorem test_LogReads_met : ctlUp logged = true ∧ pwrState logged ≠ 2 ∧ up.log.pkts = [] ∧ (logged.log.pkts.map (fun p => p.spilled)) = [false] := by decide +kernel
theorem test_LogFlush_met : flushing.wf = true ∧ flushing.powered = true ∧ flushing.power.clkStopped = false ∧ pwrState flushing < 2
    ∧ flag flushing Reg.PART_LOG_STAT 2 = true ∧ pendOf flushing .flush = false ∧ flag up Reg.PART_LOG_STAT 2 = false := by decide +kernel
theorem test_AcctCopy_met : flag (raiseBit Reg.PART_ACCT_SEL 31 up) Reg.PART_ACCT_SEL 31 = true ∧ pwrState (raiseBit Reg.PART_ACCT_SEL 31 up) < 2
    ∧ ctlUp (raiseBit Reg.PART_ACCT_SEL 31 up) = true ∧ flag up Reg.PART_ACCT_SEL 31 = false := by decide +kernel

/-- Phase C with nothing in staging: no external image is found (R412). -/
def phaseC : State := setFld Reg.REL_PWR_STAT 4 3 2 booting
theorem test_ExternalImage_met : inPhase phaseC 2 = true ∧ phaseC.power.fwVer = none ∧ extImage phaseC = none := by decide +kernel

/-! ### Packets turned away, the mailbox -/

/-- A NOP with a wrong length field (R303). -/
def pBad : HostPkt := pkt 0x00 0 [1, 2, 3, 4]
theorem test_Rejected_met : hostRowOf (.nop pBad) = some (pBad, 0x00, true) ∧ up.wf = true ∧ hOp pBad = 0x00 ∧ ctlUp up = true ∧ bellClosed up = false
    ∧ up.mboxPkt = none ∧ mayTake pBad up = true ∧ capMode up ≠ 1 ∧ capMode up ≠ 2
    ∧ (firstBad (hdrChecks pBad ++ partChecks (hostSeen pBad up) pBad)).isSome = true := by decide +kernel
/-- LOAD_MODEL of a header in die memory: its check waits for the read of it (R303, R382). -/
def dieHdr : State := { windowed with mem := [(0x100000000, 3)] }
def pLoadDie := pkt 0x10 5 (leBytes 4 1 ++ leBytes 4 (crc32c (leBytes 128 3)).toNat ++ leBytes 8 0x100000000)
/-- RESUME to a slice that is neither in IDLE nor on its way to DARK is a STATE error (R405); a check that waits; a closed mailbox; a full mailbox. -/
theorem test_TurnedAway_met :
    (hOp (p4 0x53 0) = 0x53 ∧ ctlUp up = true ∧ bellClosed up = false ∧ up.mboxPkt = none ∧ mayTake (p4 0x53 0) up = true
      ∧ firstBad (hdrChecks (p4 0x53 0) ++ partChecks (hostSeen (p4 0x53 0) up) (p4 0x53 0)) = none ∧ takeReads (p4 0x53 0) (hostSeen (p4 0x53 0) up) = []
      ∧ (judge (hostSeen (p4 0x53 0) up) (hostVerdict (hostSeen (p4 0x53 0) up) (p4 0x53 0))).isSome = true)
    ∧ (hOp pLoadDie = 0x10 ∧ ctlUp dieHdr = true ∧ bellClosed dieHdr = false ∧ dieHdr.mboxPkt = none ∧ mayTake pLoadDie dieHdr = true
      ∧ firstBad (hdrChecks pLoadDie ++ partChecks (hostSeen pLoadDie dieHdr) pLoadDie) = none ∧ takeReads pLoadDie (hostSeen pLoadDie dieHdr) ≠ [])
    ∧ (ctlUp booting = true ∧ bellClosed booting = true ∧ ready booting = false ∧ pwrState booting ≠ 2) ∧ (ctlUp dark = true ∧ bellClosed dark = true)
    ∧ ({ up with mboxPkt := some pBad } : State).mboxPkt ≠ none := by decide +kernel
/-- A packet that waits in the mailbox; a packet under check, its read outstanding or none. -/
def loading : State := { hdrState with mboxPkt := some pLoad }
def checking (l : List MemTag) (p : HostPkt) : State := { dieHdr with taking := some { pkt := p }, memTags := l }
def keeperTag : MemTag := { slot := 3, gen := 0, busy := true, freeAt := 0, eng := takeEng, addr := 0x100000000, n := 128 }
def lateV (s : State) : State := dropReads takeEng { s with taking := some { pkt := pLoadDie, bad := [(0x100000000, 128, true)] } }
theorem test_Mailbox_met : (ctlUp up = true ∧ bellClosed up = false ∧ up.mboxPkt = none ∧ up.longOp = .none ∧ pwrState up ≠ 2)
    ∧ (mayTake pLoad loading = true ∧ ctlUp loading = true ∧ bellClosed loading = false) ∧ up.taking = none
    ∧ (({ up with replyq := [rep0] } : State).replies.length < 16 ∧ keeperUp { up with replyq := [rep0] } = true) := by decide +kernel
theorem test_ReadTimeout_met : keeperUp (checking [keeperTag] pLoadDie) = true ∧ (judge (lateV (checking [keeperTag] pLoadDie))
      (hostVerdict (lateV (checking [keeperTag] pLoadDie)) pLoadDie)).isSome = true
    ∧ firstBad (hostVerdict (lateV (checking [keeperTag] pLoadDie)) pLoadDie).pre = none
    ∧ (hostVerdict (lateV (checking [keeperTag] pLoadDie)) pLoadDie).ranges.head? = some (0x100000000, 128)
    ∧ poisonIn (lateV (checking [keeperTag] pLoadDie)) 0x100000000 128 = none ∧ overlap keeperTag.addr keeperTag.n 0x100000000 128 = true
    ∧ (judge (checking [] pLoadDie) (hostVerdict (checking [] pLoadDie) pLoadDie)).isNone = true ∧ hOp pLoadDie ≠ 0x90 ∧ hOp pLoadDie ≠ 0x40
    ∧ (judge (checking [] pRef) (hostVerdict (checking [] pRef) pRef)).isNone = true ∧ hOp pRef = 0x90 := by decide +kernel
/-- A RESUME and a NOP in the CMD registers of a slice in DARK (R407). -/
def inBox (p : HostPkt) : State :=
  { dark with mboxCmd := (((withIdx 0 ((List.range 8).map (fun i => bits p.hdr.toNat (32 * i + 31) (32 * i)) ++ (chunksOf 4 1 p.params).map leNat)).filter
      (fun e => e.2 != 0))).map (fun e => (e.1, BitVec.ofNat 32 e.2)) }
theorem test_DarkDoorbell_met : dark.powered = true ∧ dark.power.clkStopped = false ∧ pwrState (inBox (p4 0x53 0)) = 2
    ∧ hOp (cmdPkt (inBox (p4 0x53 0))) = 0x53 ∧ (firstBad (hdrChecks (cmdPkt (inBox (p4 0x53 0))))).isNone = true
    ∧ hOp (cmdPkt (inBox pBad)) ≠ 0x53 := by decide +kernel

/-! ### Packets whose structures lie in memory -/

/-- Memory cells given by their offsets from an address. -/
def cells (a : Addr) (l : List (Nat × Nat)) : List (Nat × Byte) := l.map (fun e => (a + e.1, BitVec.ofNat 8 e.2))
/-- A MOVE of 16 bytes between two places of the window, waiting on C1016, signalling C1017 (R283, R284): the record at the window's start, its
descriptors 128 and 256 bytes on. -/
def moveRec : Record := BitVec.ofNat 512 (0x40 + 1016 * 2 ^ 16 + 1017 * 2 ^ 26 + (pl0 + 0x80) * 2 ^ 192 + (pl0 + 0x100) * 2 ^ 256)
def listCells : List (Nat × Byte) := cells pl0
  [(0, 64), (2, 248), (3, 231), (4, 15), (24, 128), (26, 160), (29, 254), (33, 1), (34, 160), (37, 254), (129, 16), (132, 1), (134, 19), (135, 1), (136, 16), (139, 1), (144, 1),
   (152, 1), (160, 1), (168, 1), (257, 32), (260, 1), (262, 19), (263, 1), (264, 16), (267, 1), (272, 1), (280, 1), (288, 1), (296, 1)]
def listed : State := { loaded with cntAlloc := [1016, 1017, 1018, 1019, 1020, 1021, 1022, 1023], mem := listCells }
def pSub : HostPkt := pkt 0x80 5 (leBytes 6 pl0 ++ leBytes 2 0 ++ leBytes 2 1 ++ leBytes 2 1016 ++ leBytes 2 8 ++ leBytes 2 0 ++ leBytes 4 9 ++ [2, 3, 0, 0])
theorem test_SubmitList_data : listAt listed pl0 1 = [moveRec] := by decide +kernel
theorem test_SubmitList_met : hostPasses pSub listed ∧ hostReaches 0x80 pSub listed := host_ok (by decide +kernel)

/-- A ring whose first record holds the state digest (R370). -/
def replayable : State := { pooled with mem := cells pl0 [(0, 1), (16, 59), (17, 16), (18, 85), (19, 130)] }
theorem test_ReplayStart_met : (hostPasses (pCap 0x61 0 2) replayable ∧ hostReaches 0x61 (pCap 0x61 0 2) replayable)
    ∧ (allocBufs 2 2 none (hostSeen (pCap 0x61 0 2) replayable)).1 = 0 := ⟨host_ok (by decide +kernel), by decide +kernel⟩

/-- A block with bandwidth 1 of all and one window-free partition whose only member is die 0 (R339). -/
def partBlock : State := { up with mem := [(pl0 + 0x162, 65), (pl0 + 0x166, 1), (pl0 + 0x170, 1), (pl0 + 0x200, 1)] }
/-- PART_CONFIG of partition 5; the CRC32C is that of the block and map, 16,896 bytes (R339). -/
def pSet : HostPkt := pkt 0x40 0 (leBytes 2 5 ++ leBytes 2 0 ++ leBytes 4 2070437821 ++ leBytes 8 pl0 ++ leBytes 8 (pl0 + 0x200) ++ leBytes 8 0)
set_option maxRecDepth 100000 in
theorem test_PartConfigSet_met : hostPasses pSet partBlock ∧ hostReaches 0x40 pSet partBlock := host_ok (by decide +kernel)

/-! ### Steps of the Keeper -/

def sub : Step := newStep loaded pSub 9 2 3 0 false 1016 8 [moveRec]
def agreed (s : State) : State := setReg Reg.CORE_CFG_REF (cfgCrc s) s
def activeS : State := setReg Reg.PART_ACTIVE 2 { listed with steps := [sub], nextSeq := 1 }
/-- An accepted submitted list whose boundary passes (R383, R425). -/
def queued : State := agreed activeS
/-- The same with ingress values staged that break R65: a tile of 16,385 tokens. -/
def badTile : State := agreed (stageReg Reg.SCORE_ING_SHAPE 0x00104001 activeS)
/-- What enqueueing a step goes through: rooms, the mismatch, a fence, a bad tile, the list. -/
def prepared (s : State) : Bool × Bool × Bool × Bool × Bool :=
  let v := prepareStep sub (zeroCounters sub (capStart s))
  let b := stepBoundary 0 v.2
  (v.1, cfgMismatch v.2, fenced b.2, b.1, (buildStep sub.seq (modStep sub.seq (fun z => { z with bound := b.2.live }) b.2)).1)
theorem test_StepsAreEnqueued_met :
    (oldestAccepted queued = some sub ∧ mayEnqueue queued sub = true ∧ flag queued Reg.REL_STAT 8 = false)
    ∧ prepared queued = (true, false, false, false, true) ∧ prepared badTile = (true, false, false, true, true) ∧ ownPoison queued = none
    ∧ (mayEnqueue badTile sub = true ∧ mayEnqueue activeS sub = true)
    ∧ (prepared activeS).2.1 = true
    ∧ mayEnqueue (susp .none (raiseBit Reg.KEEP_STAT 3 queued)) sub = false := by decide +kernel

/-- A basic-level step of a model that is not there finds no room. -/
def orphan : State := setReg Reg.PART_ACTIVE 2 { windowed with steps := [st1], nextSeq := 1 }
theorem test_StepsAreEnqueued_none : oldestAccepted orphan = some st1 ∧ mayEnqueue orphan st1 = true ∧ flag orphan Reg.REL_STAT 8 = false
    ∧ (prepareStep st1 (zeroCounters st1 (capStart orphan))).1 = false := by decide +kernel

/-- A list of a PLAN and a RECV that waits for it (R288). -/
def planRec1 : Record := BitVec.ofNat 512 (0x20 + 0x100000200 * 2 ^ 256)
def recvRec : Record := BitVec.ofNat 512 (0x29 + 2 ^ 11 + 0x100000200 * 2 ^ 448)
def planned : Step := { sub with phase := .enqueued, recs := [planRec1, recvRec], held := [{ ring := 10, step := 0, idx := 1, raw := recvRec }], plansDone := [0x100000200] }
theorem test_StepsAreEnqueued_pd : planReady { queued with steps := [planned] } planned = none
    ∧ (pdNext { queued with steps := [planned] } planned).isSome = true ∧ planned.live = true ∧ keeperUp { queued with steps := [planned] } = true := by decide +kernel
/-- A basic-level step whose half A's plan has signalled: its PLAN record names the out-list at a. -/
def planRecAt (a : Nat) : Record := BitVec.ofNat 512 (0x20 + a * 2 ^ 256)
set_option exponentiation.threshold 600 in
theorem planRecAt_fields {a : Nat} (h : a < 2 ^ 48) : rPtr (planRecAt a) 2 = a ∧ rOp (planRecAt a) = 0x20 := by
  have e : (planRecAt a).toNat = 0x20 + a * 2 ^ 256 := by
    simp only [planRecAt, BitVec.toNat_ofNat]
    exact Nat.mod_eq_of_lt (by omega)
  have d : (0x20 + a * 2 ^ 256) / 2 ^ 256 = a := by omega
  constructor
  · show bits ((planRecAt a).toNat / 2 ^ 256) 47 0 = a
    rw [e, d]
    simpa [bits] using Nat.mod_eq_of_lt h
  · show (planRecAt a).toNat / 2 ^ 0 % 2 ^ 8 = 0x20
    rw [e]
    omega
def planned20 (a : Nat) (r : Record) (x : Step) : Step := { x with opcode := 0x20, phase := .enqueued, recs := [r], plansDone := [a] }
theorem planReady_planned20 (s : State) (x : Step) (a : Nat) (r : Record) (ha : a = ({ x := x, h := 0, half := false } : KCtx).outList)
    (hr : rPtr r 2 = a ∧ rOp r = 0x20) : planReady { s with steps := [planned20 a r x] } (planned20 a r x) = some false := by
  have ho : ({ x := planned20 a r x, h := 0, half := false } : KCtx).outList = a := by rw [ha]; rfl
  have hp : planHalf (planned20 a r x) = some false := by simp [planHalf, planned20, hr.2]
  have hs : stepAt { s with steps := [planned20 a r x] } (planned20 a r x).seq = some (planned20 a r x) := by simp [stepAt]
  simp only [planReady, hp, ho, planDone, planRec, hs]
  simp [planned20, hr]
theorem test_StepsAreEnqueued_plan : ∃ (s : State) (x : Step), planReady { s with steps := [x] } x = some false :=
  ⟨State.reset, _, planReady_planned20 State.reset sub (({ x := sub, h := 0, half := false } : KCtx).outList) _ rfl
    (planRecAt_fields (Nat.lt_of_le_of_lt (Nat.div_mul_le_self _ _) (Nat.mod_lt _ (Nat.two_pow_pos 48))))⟩

theorem test_Boundaries_met : (keeperUp (agreed up) = true ∧ noSteps (agreed up) = true ∧ cfgMismatch (agreed up) = false)
    ∧ cfgMismatch up = true ∧ cfgMismatch (raiseBit Reg.REL_STAT 8 (agreed up)) = false ∧ flag (raiseBit Reg.REL_STAT 8 (agreed up)) Reg.REL_STAT 8 = true
    ∧ (keeperUp (raiseBit Reg.REL_STAT 8 queued) = true ∧ flag (raiseBit Reg.REL_STAT 8 queued) Reg.REL_STAT 8 = true
        ∧ cfgMismatch (raiseBit Reg.REL_STAT 8 queued) = false ∧ noSteps (raiseBit Reg.REL_STAT 8 queued) = false
        ∧ oldestAccepted (raiseBit Reg.REL_STAT 8 queued) = some sub)
    ∧ (forwarding (raiseBit Reg.XCHG_FAB_EPOCH 2 up) = true ∧ prep (raiseBit Reg.XCHG_FAB_EPOCH 2 up) = true
        ∧ cfgMismatch (raiseBit Reg.XCHG_FAB_EPOCH 2 up) = true) := by decide +kernel

/-- A step of one COMMIT, with one publication entry (R286, R287). -/
def commitRec (n : Nat) : Record := BitVec.ofNat 512 (0xF0 + 1016 * 2 ^ 16 + n * 2 ^ 171 + 0x100000400 * 2 ^ 192)
def ending (n : Nat) : Step := { sub with phase := .enqueued, recs := [commitRec n] }
def committing (n : Nat) : State := { queued with steps := [ending n] }
def committingBad : State := { committing 1 with poison := [0x100000400 / 8 * 8] }
theorem test_Commit_met : ((commitDue (committing 1)).isSome = true ∧ (ending 1).kgen.toNat = kgen (committing 1)
      ∧ (∀ i < rPar (commitRec 1) 47 43, poisonIn (committing 1) (rPtr (commitRec 1) 1 + 16 * i) 16 = none)
      ∧ rPar (commitRec 1) 47 43 = 1)
    ∧ (let s : State := { queued with steps := [{ ending 1 with kgen := 3 }] }
       (commitDue s).isSome = true ∧ kgen s ≠ 3)
    ∧ commitDue queued = none := by decide +kernel

/-- A step enqueued, and the same joined. -/
def live1 : State := { queued with steps := [{ sub with phase := .enqueued }] }
def joined1 : State := { queued with steps := [{ sub with phase := .joined }] }
theorem test_Kill_met : keeperUp live1 = true ∧ live1.steps.filter Step.live ≠ [] ∧ (live1.steps.filter Step.live).any (fun x => x.phase == .joined) = false
    ∧ (joined1.steps.filter Step.live).any (fun x => x.phase == .joined) = true ∧ queued.steps.filter Step.live = []
    ∧ (queued.killDone = true ∧ recovering queued = false ∧ queued.recov.active = false ∧ flag queued Reg.XCHG_FAB_DRAIN 0 = false
        ∧ fld queued Reg.REL_TREE 3 0 ≠ 0xF) := by decide +kernel
/-- A SWITCH_MODEL with nothing in front, and a step of another model than the active one. -/
def swPkt : State := { loaded with switchq := [{ model := 2, behind := 0, reply := rep0 }] }
def swStep : State := setReg Reg.PART_ACTIVE 7 { loaded with steps := [sub] }
/-- The same with an image in die memory, and with one in staging whose first word is poisoned. -/
def imgAt (a : Addr) : BitVec 1024 := BitVec.ofNat 1024 (3 + a * 2 ^ 64 + 8 * 2 ^ 128)
def swImg (a : Addr) : State := { swPkt with models := [{ id := 2, hdr := imgAt a, resident := true, leaving := false }], poison := [pl0 / 8] }
def popped (s : State) : State := switchOut { s with switchq := s.switchq.drop 1 }
theorem test_Switch_met : (keeperUp swPkt = true ∧ switching swPkt = true ∧ (switchDue swPkt).isSome = true
      ∧ modelHdr { swPkt with switchq := swPkt.switchq.drop 1 } 2 = some hdr4
      ∧ dieReads (popped swPkt) (switchRanges hdr4) = [] ∧ modelHdr (popped swPkt) 2 = some hdr4 ∧ (switchBad (popped swPkt) [] hdr4).isNone = true)
    ∧ (switching swStep = true ∧ (match switchDue swStep with | some (.step x) => x == sub | _ => false) = true
      ∧ modelHdr swStep sub.model = some hdr4 ∧ dieReads (switchOut swStep) (switchRanges hdr4) = [] ∧ (switchBad (switchOut swStep) [] hdr4).isNone = true)
    ∧ switching up = false := by decide +kernel
theorem test_Switch_image : (switching (swImg 0x100000000) = true ∧ modelHdr (swImg 0x100000000) 2 = some (imgAt 0x100000000)
      ∧ dieReads (popped (swImg 0x100000000)) (switchRanges (imgAt 0x100000000)) ≠ [])
    ∧ (switching (swImg pl0) = true ∧ dieReads (popped (swImg pl0)) (switchRanges (imgAt pl0)) = []
      ∧ (switchBad (popped (swImg pl0)) [] (imgAt pl0)).isSome = true) := by decide +kernel
/-- The same image with no poisoned word: the second byte's word meets an error that the code cannot correct, or one that it corrects. -/
def swClean : State := { swImg pl0 with poison := [] }
theorem test_Switch_meets :
    (switchBad (switchMeets (imgAt pl0) none (popped swClean)) [] (imgAt pl0)).isNone = true
    ∧ switchBad (switchMeets (imgAt pl0) (some (pl0 + 1, .uncorrectable)) (popped swClean)) [] (imgAt pl0) = some (false, pl0)
    ∧ (let s := switchMeets (imgAt pl0) (some (pl0 + 1, .corrected 5)) (popped swClean)
       (switchBad s [] (imgAt pl0)).isNone = true ∧ reg s Reg.REL_CE_CNT = 1)
    ∧ switchMeets (imgAt pl0) (some (pl0 + 8, .uncorrectable)) (popped swClean) = popped swClean := by decide +kernel

/-! ### Records on engines -/

/-- A record of an opcode with PARAM, waiting on C1016 and signalling C1017 (R283). -/
def rec' (op par : Nat) (ptrs : List Addr) : Record :=
  BitVec.ofNat 512 (op + 1016 * 2 ^ 16 + 1017 * 2 ^ 26 + par * 2 ^ 128 + ((withIdx 0 ptrs).map (fun e => e.2 * 2 ^ (192 + 64 * e.1))).foldl (· + ·) 0)
/-- A list of one record, enqueued and placed. -/
def onRing (r : Record) (s : State) : State :=
  { s with steps := [{ sub with phase := .enqueued, recs := [r] }], ringq := [{ ring := ringOf r, step := sub.seq, idx := 0, raw := r }] }
/-- The record at the head of an engine's ring can start and nothing stops its job. -/
def runsB (i : Instr) (s : State) : Bool :=
  match jobRowOf i with
  | none => false
  | some (e, be, p, mk) => match startable s e be with
    | none => false
    | some r => p r.raw && dieBytes s (mk s r).reads == 0 && (poisonAny (startRun e r s) (cmdSpan r :: (mk s r).reads)).isNone && (mk s r).kill.isNone
        && (partialPoison (startRun e r s) ((mk s r).writes.map Wr.a)).isNone
/-- Staging: two tensors of two BF16 values at st0 and st0 + 128, blocks at st0 + 256 and st0 + 512 (a flag area named), two lists of four
16-byte rows at st0 + 3072 and st0 + 3200. -/
def st0 : Addr := Config.stagingBase
def listD : Addr := st0 + 3072
def engCells : List (Nat × Nat) :=
  [(1, 4), (5, 254), (6, 16), (7, 2), (8, 2), (11, 1), (16, 1), (19, 2), (24, 1), (32, 1), (40, 1), (129, 8), (133, 254), (134, 16), (135, 2), (136, 2),
   (139, 1), (144, 1), (147, 2), (152, 1), (160, 1), (168, 1)]
def engBlk : List (Nat × Nat) := [(560, 128), (561, 2), (565, 254)]
def engLists : List (Nat × Nat) :=
  [(3073, 16), (3077, 254), (3078, 19), (3079, 2), (3080, 16), (3083, 1), (3088, 4), (3091, 16), (3096, 1), (3104, 1), (3112, 1), (3201, 20), (3205, 254),
   (3206, 19), (3207, 2), (3208, 16), (3211, 1), (3216, 4), (3219, 16), (3224, 1), (3232, 1), (3240, 1)]
def engM (l : List (Nat × Nat)) : State := { activeS with mem := cells st0 l ++ listCells }
def engS : State := engM (engCells ++ engBlk ++ engLists)
def fitsB (e : Nat) (p : Record → Bool) (mk : State → RingRec → Job) (s : State) : Bool :=
  match startable s e false with
  | none => false
  | some r => p r.raw && dieBytes s (mk s r).reads == 0 && (poisonAny ((mk s r).start (startRun e r s)) (cmdSpan r :: (mk s r).reads)).isNone && (mk s r).kill.isNone
      && (partialPoison ((mk s r).start (startRun e r s)) ((mk s r).writes.map Wr.a)).isNone
      && !(readsEarly ((mk s r).start (startRun e r s)) r (mk s r).reads) && (dieCells ((mk s r).start (startRun e r s)) ((mk s r).writes.map Wr.a) == 0
        || bucketRate ((mk s r).start (startRun e r s)) Reg.PART_REG_MEM == 0)
theorem metered_zero {j : Job} {s : State} (h : dieCells s (j.writes.map Wr.a) = 0 ∨ bucketRate s Reg.PART_REG_MEM = 0) : metered j s = 0 := by
  unfold metered; split
  · rfl
  · next hb => exact h.resolve_right hb
theorem fits_at {e : Nat} {p : Record → Bool} {mk : State → RingRec → Job} {s : State} {r : RingRec} (hr : startable s e false = some r)
    (h : fitsB e p mk s = true) : p r.raw = true ∧ jobRuns s e false r (mk s r) := by
  unfold fitsB at h
  rw [hr] at h
  simp only [Bool.and_eq_true, beq_iff_eq, Option.isNone_iff_eq_none, Bool.not_eq_true', Bool.or_eq_true] at h
  obtain ⟨⟨⟨⟨⟨⟨h1, h2⟩, h3⟩, h4⟩, h5⟩, h6⟩, h7⟩ := h
  exact ⟨h1, hr, h2, h3, h4, h5, h6, metered_zero h7⟩
theorem fits_ok {e : Nat} {p : Record → Bool} {mk : State → RingRec → Job} {s : State} (h : fitsB e p mk s = true) :
    ∃ r, p r.raw = true ∧ jobRuns s e false r (mk s r) := by
  cases hr : startable s e false with
  | none => unfold fitsB at h; rw [hr] at h; cases h
  | some r => exact ⟨r, fits_at hr h⟩
def two (op par : Nat) : State := onRing (rec' op par [st0, st0 + 128, st0 + 128, st0 + 512]) engS
def lst (op par : Nat) : State := onRing (rec' op par [listD, listD + 128, listD + 128, listD + 128]) engS
def lsx (op par : Nat) : State := onRing (rec' op par [listD, listD + 128, listD + 128, st0 + 256]) engS
def hd (s : State) : RingRec := (s.ringq.head?).getD { ring := 0, step := 0, idx := 0, raw := 0 }

theorem test_EngineRowsRun_met : ∃ i e be p mk r, jobRowOf i = some (e, be, p, mk) ∧ p r.raw = true ∧ jobRuns (two 0x08 0) e be r (mk (two 0x08 0) r) := by
  obtain ⟨r, a, b⟩ := fits_ok (e := 1) (p := isSfu 0) (mk := funcJob) (s := two 0x08 0) (by decide +kernel)
  exact ⟨.func false, 1, false, _, _, r, rfl, a, b⟩
theorem test_EngineRowsRun_sfu : fitsB 1 (isSfu 1) rowMaxJob (two 0x08 1) = true ∧ fitsB 1 (isSfu 2) rowSumexpJob (two 0x08 2) = true
    ∧ fitsB 1 (isSfu 3) softmaxJob (two 0x08 3) = true ∧ fitsB 1 (isSfu 4) rowRmsJob (two 0x08 4) = true
    ∧ fitsB 1 (isSfu 5) renormJob (two 0x08 5) = true := by decide +kernel
theorem test_EngineRowsRun_select : fitsB 2 isSelect selectJob (two 0x10 0) = true ∧ fitsB 2 isGonly gonlyJob (two 0x10 8) = true := by decide +kernel
theorem test_EngineRowsRun_rest : fitsB 5 isRecv recvJob (lsx 0x29 0) = true ∧ fitsB 5 isForward forwardJob (lsx 0x2A 0) = true
    ∧ fitsB 8 (fun r => rOp r == 0x40) moveJob (two 0x40 0) = true ∧ fitsB 9 isReduce reduceJob (two 0x49 0) = true := by decide +kernel

/-- The second half of a gateway whose one bundle has arrived. -/
def gwHalf : Half :=
  { step := 0, half := false, layer := 3, model := 2, armed := true, xb := st0 + 256, inRows := 0, bundleRows := 0, resCnt := 0, sendXb := none, expChunks := 0,
    arrivals := 0, sendSignalled := false, sendWl := 0, recvWl := 0, inRecs := [], resultsSent := 0, rxKeys := [], rxCount := 0, rxBase := 0, rxCap := 0,
    rxOpen := false, counted := false }
def gw : State := { lst 0x18 1 with halves := [gwHalf] }
theorem test_EngineRowsWithConditions_met : fitsB 0 (fun r => rOp r == 1) scoreJob (two 1 0) = true ∧ fitsB 0 isScoreCount scoreCountJob (two 2 0) = true
    ∧ fitsB 3 isSort sortJob (lst 0x18 0) = true ∧ (sortNeed (lst 0x18 0) (hd (lst 0x18 0))).2.2.2 = []
    ∧ fitsB 3 isSortGw sortGwJob gw = true ∧ gwReady gw false = true
    ∧ fitsB 4 (fun r => rOp r == 0x20) planJob (lst 0x20 0) = true ∧ (planNeed (lst 0x20 0) (hd (lst 0x20 0))).2.2.2 = []
    ∧ fitsB 5 isSend sendJob (lsx 0x28 0) = true ∧ capMode (lsx 0x28 0) ≠ 1
    ∧ fitsB 6 isFetchReq fetchReqJob (lsx 0x30 0) = true ∧ (fetchNeed (lsx 0x30 0) (hd (lsx 0x30 0))).2.2.2 = []
    ∧ fitsB 6 isFetchSrv fetchSrvJob (lsx 0x30 8192) = true ∧ (serverNeed (lsx 0x30 8192) (hd (lsx 0x30 8192))).2.2.2 = [] := by decide +kernel
theorem test_EngineRowsWithConditions_barriers : fitsB 9 isReduceBcn reduceBcnJob (two 0x49 0xE0) = true ∧ fitsB 9 isDispatch dispatchJob (lst 0x48 0) = true
    ∧ (stepAt (two 0x49 0xE0) 0).any (fun x => barFree (two 0x49 0xE0) (reduceId (two 0x49 0xE0) x)) = true
    ∧ (stepAt (lst 0x48 0) 0).any (fun x => barFree (lst 0x48 0) (countId (lst 0x48 0) x false)) = true
    ∧ (dispatchNeed (lst 0x48 0) (hd (lst 0x48 0))).2.2.2 = [] := by decide +kernel
/-- SEND while capture is on, with room for no more than it needs (R369). -/
def capSend : State := setFld Reg.PART_CAP_STAT 1 0 1 (lsx 0x28 0)
theorem test_EngineRowsWithConditions_capture : capMode capSend = 1 ∧ (startable capSend 5 false).isSome = true
    ∧ fitsB 5 isSend sendJob capSend = true
    ∧ 16 * sumExpChunks (planSum capSend 0 (xBlock capSend (hd capSend).raw).planBase) ≤ capFree capSend := by decide +kernel
/-- FETCH_REQUESTER while capture is on (R369). -/
def capFetch : State := setFld Reg.PART_CAP_STAT 1 0 1 (lsx 0x30 0)
theorem test_EngineRowsWithConditions_fetch : capMode capFetch = 1 ∧ (startable capFetch 6 false).isSome = true
    ∧ fitsB 6 isFetchReq fetchReqJob (reserving (fetchRoom capFetch (hd capFetch)) capFetch) = true ∧ 16 * fetchRoom capFetch (hd capFetch) ≤ capFree capFetch
    ∧ (fetchNeed capFetch (hd capFetch)).2.2.2 = [] := by decide +kernel

/-- COMBINE of a row of 40,000 elements; of areas that are too small for the plan's sum; that waits for its shared rows; of nothing (R224, R226, R441). -/
def combS (d xb : Addr) (s : State) (op : Nat) : State := onRing (rec' op 0 [d, st0 + 128, xb, st0 + 512]) s
/-- A combine block whose slots and counts lie in staging. -/
def combBlk : List (Nat × Nat) := [(513, 24), (517, 254), (520, 128), (521, 2), (525, 254)]
def wideS : State := engM (engCells ++ [(257, 4), (261, 254), (262, 16), (263, 2), (264, 64), (265, 156), (267, 1), (272, 1), (275, 2), (280, 1), (288, 1),
  (296, 1)] ++ combBlk ++ engLists)
def summed : State := engM (engCells ++ combBlk ++ [(812, 128), (813, 12), (817, 254)] ++ engLists ++ [(5132, 1)])
def smallArea : State :=
  let s := combS st0 (st0 + 772) summed 0x38
  { s with steps := s.steps.map (fun x => { x with recs := x.recs ++ [rec' 0x20 0 [listD, listD + 128, listD + 128, listD + 128]], plansDone := [listD + 128] }) }
def sharedS : State := engM (engCells ++ combBlk ++ [(564, 1), (584, 250), (585, 3), (588, 1)] ++ engLists)
def plain (op : Nat) : State := combS st0 (st0 + 256) (engM (engCells ++ combBlk ++ engLists)) op
def combOk (s : State) : Bool := (startable s 7 false).isSome && (stepAt s (hd s).step).isSome
theorem test_Combine_met : combOk (combS (st0 + 256) st0 wideS 0x38) = true ∧ combOk smallArea = true ∧ combOk (combS st0 (st0 + 256) sharedS 0x38) = true
    ∧ combOk (plain 0x38) = true ∧ combOk (plain 0x39) = true
    ∧ (stepAt (plain 0x39) 0).any (fun x => barFree (plain 0x39) (commitId (plain 0x39) x)) = true := by decide +kernel
theorem test_Combine_cases :
    (stepAt (combS (st0 + 256) st0 wideS 0x38) 0).any (fun x => decide (widthLimit (bFld x.bound Reg.COMB_CFG 1 0)
      < (combOf (combS (st0 + 256) st0 wideS 0x38) 0 (hd (combS (st0 + 256) st0 wideS 0x38)).raw).w)) = true
    ∧ areaBad smallArea 0 (combOf smallArea 0 (hd smallArea).raw).xb = true
    ∧ ((combOf (combS st0 (st0 + 256) sharedS 0x38) 0 (hd (combS st0 (st0 + 256) sharedS 0x38)).raw).b.nsh ≠ 0
      ∧ reached (combS st0 (st0 + 256) sharedS 0x38) 1018 1 = false
      ∧ (combOf (combS st0 (st0 + 256) sharedS 0x38) 0 (hd (combS st0 (st0 + 256) sharedS 0x38)).raw).b.shWait = 1018)
    ∧ fitsB 7 (fun r => rOp r == 0x38) combJob (plain 0x38) = true ∧ fitsB 7 (fun r => rOp r == 0x39) combJob (plain 0x39) = true
    ∧ (combOf (plain 0x38) 0 (hd (plain 0x38)).raw).b.nsh = 0
    ∧ areaBad (plain 0x38) 0 (combOf (plain 0x38) 0 (hd (plain 0x38)).raw).xb = false := by decide +kernel
/-- The ends of a combine: what it reads in die memory, poisoned, missing, partly written, metered (R227, R344, R379, R381). -/
def combEnd (s : State) : Bool × Bool × Bool × Bool × Bool :=
  let r := hd s
  let u := setFld Reg.COMB_STAT 6 6 (b2n (combOf s r.step r.raw).wide) (startRun 7 r s)
  let j := combJob u r
  (dieBytes u j.reads == 0, (poisonAny u (cmdSpan r :: j.reads)).isNone, j.kill.isNone, (partialPoison u ((j.doneAs u r).writes.map Wr.a)).isNone,
   dieCells u ((j.doneAs u r).writes.map Wr.a) == 0 || bucketRate u Reg.PART_REG_MEM == 0)
def combAt (l m : List (Nat × Nat)) : State := combS st0 (st0 + 256) (engM (l ++ m ++ engLists)) 0x38
/-- The output in FP16. -/
def fpCells : List (Nat × Nat) := engCells.map (fun e => if e.1 = 6 then (6, 1) else e)
theorem test_Combine_ends : combEnd (plain 0x38) = (true, true, true, true, true)
    ∧ (combEnd (combAt engCells ((292, 1) :: (combBlk.filter (fun e => e.1 != 517))))).1 = false
    ∧ combEnd { plain 0x38 with poison := [ringSlotAddr 14 0 / 8] } = (true, false, true, true, true)
    ∧ (combEnd (combS st0 (st0 + 256) (engM (engCells ++ [(292, 1)] ++ combBlk ++ [(640, 1)] ++ engLists ++ [(6154, 16)])) 0x38)).2.2.1 = false
    ∧ combEnd { combAt fpCells combBlk with poison := [(st0 + 1024) / 8] } = (true, true, true, false, true)
    ∧ combEnd (setReg Reg.PART_REG_MEM 1 (combAt (fpCells.filter (fun e => e.1 != 5)) combBlk)) = (true, true, true, true, false) := by decide +kernel
theorem test_Combine_none : (startable queued 7 false).isNone = true ∧ queued.running = [] ∧ rOp (hd (plain 0x38)).raw = 0x38 := by decide +kernel

/-! ### Ends of engine rows, failing units -/

/-- The row's record is at the head of its ring; what its job does to die memory, to poisoned words, and whether it kills. -/
def endB (e : Nat) (p : Record → Bool) (mk : State → RingRec → Job) (s : State) : Option (Bool × Bool × Bool × Bool × Bool) :=
  (startable s e false).map (fun r => (p r.raw, dieBytes s (mk s r).reads == 0, (poisonAny (startRun e r s) (cmdSpan r :: (mk s r).reads)).isNone, (mk s r).kill.isNone,
    (partialPoison (startRun e r s) ((mk s r).writes.map Wr.a)).isNone))
def moveP (r : Record) : Bool := rOp r == 0x40
def twoAt (s : State) (op : Nat) : State := onRing (rec' op 0 [st0, st0 + 128, st0 + 128, st0 + 512]) s
/-- RECV whose areas are too small for its plan's sum (R441). -/
def smallRecv : State :=
  let s := onRing (rec' 0x29 0 [listD, listD + 128, listD + 128, st0 + 772]) summed
  { s with steps := s.steps.map (fun x => { x with recs := x.recs ++ [rec' 0x20 0 [listD, listD + 128, listD + 128, listD + 128]], plansDone := [listD + 128] }) }
def poisS (a : Addr) : State :=
  { onRing (rec' 0x40 0 [st0, st0 + 128]) (engM ((engCells.filter (fun e => decide (e.1 < 128))) ++ (128, 2) :: (engCells.filter (fun e => decide (128 < e.1))))) with poison := [a / 8] }
theorem test_EngineRowsStopped_met : (startable queued 8 false).isNone = true
    ∧ (endB 1 (isSfu 1) rowMaxJob (two 0x08 0)).map (fun x => x.1) = some false
    ∧ endB 8 moveP moveJob (poisS (st0 + 1024)) = some (true, true, false, true, true)
    ∧ (endB 5 isRecv recvJob smallRecv).map (fun x => x.2.2.2.1) = some false := by decide +kernel
theorem test_EngineRowsStopped_writes : endB 8 moveP moveJob (poisS (st0 + 2048)) = some (true, true, true, true, false)
    ∧ (endB 8 moveP moveJob (onRing (rec' 0x40 0 [pl0 + 0x80, pl0 + 0x100]) activeS)).map (fun x => x.2.1) = some false := by decide +kernel
theorem move_plain (s : State) (r : RingRec) : (moveJob s r).start = id ∧ (moveJob s r).after = id ∧ (moveJob s r).rep = id := by
  unfold moveJob; dsimp only; split <;> exact ⟨rfl, rfl, rfl⟩
/-- A MOVE of a basic-level step. -/
def moving : State := { two 0x40 0 with steps := (two 0x40 0).steps.map (fun x => { x with opcode := 0x20 }) }
/-- One state, record and step that meet every hypothesis of O38. -/
theorem test_SignalsOnce_met : ∃ (i : Instr) (e : Nat) (be : Bool) (p : Record → Bool) (mk : State → RingRec → Job) (s : State) (r : RingRec) (x : Step),
    s.wf = true ∧ jobRowOf i = some (e, be, p, mk) ∧ p r.raw = true ∧ jobRuns s e be r (mk s r) ∧ (mk s r).wait = false
    ∧ (∀ u : State, (mk s r).start u = { u with live := ((mk s r).start u).live } ∧ (mk s r).after u = { u with live := ((mk s r).after u).live }
      ∧ (mk s r).rep u = { u with live := ((mk s r).rep u).live })
    ∧ s.cap.digest = false ∧ stepAt s r.step = some x ∧ (x.opcode ≠ 0x80 ∨ x.commitRec ≠ none) := by
  have hr : startable moving 8 false = some (hd moving) := by decide +kernel
  obtain ⟨hp, hj⟩ := fits_at hr (p := moveP) (mk := moveJob) (by decide +kernel)
  obtain ⟨h1, h2, h3⟩ := move_plain moving (hd moving)
  exact ⟨.move false, 8, false, _, _, moving, hd moving, (stepAt moving 0).getD sub, by decide +kernel, rfl, hp, hj, by decide +kernel,
    fun u => ⟨by rw [h1]; rfl, by rw [h2]; rfl, by rw [h3]; rfl⟩, by decide +kernel, by decide +kernel, by decide +kernel⟩

/-- Tile 0 and lane 0 work and their records wait; the same with tile 0 already failed; and tile 8 the spare. -/
def lanesS : State := setReg Reg.SORT_LANE_MAP 0x8F (setReg Reg.SCORE_TILE_MAP 0x10FF State.reset)
def mapped' (s : State) : State := { s with live := lanesS.live ++ s.live }
theorem test_Failures_met :
    (flag (two 1 0) Reg.SCORE_TILE_FAIL 0 = false ∧ flag (two 1 0) Reg.SCORE_TILE_MAP 0 = true ∧ (startable (two 1 0) 0 false).isSome = true)
    ∧ (flag (lst 0x18 0) Reg.SORT_LANE_FAIL 0 = false ∧ flag (lst 0x18 0) Reg.SORT_LANE_MAP 0 = true ∧ (startable (lst 0x18 0) 3 false).isSome = true)
    ∧ (flag gw Reg.SORT_LANE_FAIL 0 = false ∧ flag gw Reg.SORT_LANE_MAP 0 = true ∧ (startable gw 3 false).isSome = true)
    ∧ flag (raiseBit Reg.SCORE_TILE_FAIL 0 (two 1 0)) Reg.SCORE_TILE_FAIL 0 = true
    ∧ flag (raiseBit Reg.SORT_LANE_FAIL 0 (lst 0x18 0)) Reg.SORT_LANE_FAIL 0 = true
    ∧ (fld gw Reg.SORT_LANE_MAP 7 5 = 4 ∧ flag gw Reg.SORT_LANE_MAP 4 = false ∧ flag gw Reg.SORT_LANE_FAIL 4 = false ∧ (startable (two 2 0) 0 false).isSome = true)
    ∧ fld (setFld Reg.SORT_LANE_MAP 7 5 7 gw) Reg.SORT_LANE_MAP 7 5 ≠ 4 ∧ fld (setFld Reg.SCORE_TILE_MAP 12 9 0xF (two 1 0)) Reg.SCORE_TILE_MAP 12 9 ≠ 8
    ∧ (fld (two 1 0) Reg.SCORE_TILE_MAP 12 9 = 8 ∧ flag (two 1 0) Reg.SCORE_TILE_MAP 8 = false ∧ flag (two 1 0) Reg.SCORE_TILE_FAIL 8 = false) := by decide +kernel
/-- The slice is another die than the directory of expert 0's line. -/
def away (s : State) : State := { s with da := BitVec.ofNat 20 (Config.homeOf 0 0 0 % 2 ^ 20 + 1), homes := [] }
/-- A valid slot, a run, an in-record of mode FETCH, each of expert 0 whose line the slice does not hold. -/
def slotS : State := away (onRing (rec' 0x18 0 [listD + 256, listD + 128, listD + 128, 0]) (engM (engCells ++ engLists ++
  [(3329, 16), (3333, 254), (3334, 19), (3335, 2), (3336, 128), (3339, 1), (3344, 1), (3347, 128), (3352, 1), (3360, 1), (3368, 1), (4106, 16)])))
def runS : State := away (onRing (rec' 0x20 0 [listD, listD + 128, listD + 128, listD + 128]) (engM (engCells ++ engLists ++ [(4096, 1)])))
def srvS : State := away (onRing (rec' 0x30 8192 [listD, 0, 0, st0 + 256]) (engM (engCells ++ [(297, 3), (301, 254), (772, 1)] ++ engLists ++ [(4098, 64)])))
theorem away_missing {s : State} (h : s.ll = []) : llMissing (away s) false 0 0 [0] ≠ [] := by
  have h' : (away s).ll = [] := h
  have hd : ¬ homeDir (away s) false 0 0 0 = ownDa (away s) := by
    simp only [homeDir, ownDa, away, List.find?_nil, BitVec.toNat_ofNat]
    omega
  simp [llMissing, llLook, llGet, h', hd]
theorem test_MissingLines_met : sortNeed slotS (hd slotS) = (false, 0, 0, [0]) ∧ planNeed runS (hd runS) = (false, 0, 0, [0])
    ∧ serverNeed srvS (hd srvS) = (false, 0, 0, [0]) ∧ (startable slotS 3 false).isSome = true ∧ (startable runS 4 false).isSome = true
    ∧ (startable srvS 6 false).isSome = true := by decide +kernel

/-! ### Packets and frames -/

def hdr (typ : Nat) : Hd := { typ := typ, dst := 0, be := false, epoch := false, layer := 0, half := false, model := 0, kgen := 0 }
/-- An ACK of the slice's own partition, the same with another partition's number, from a fenced die, and a COUNT from no member. -/
def ackP : Packet := mkPacket member (hdr 11) []
def farP : Packet := mkPacket up (hdr 11) []
def badCrc : Packet := { ackP with crc := 1 }
def oddP : Packet := mkPacket (setReg Reg.CORE_DEVID_LO 0 { member with da := 9 }) { hdr 4 with ts := 0 } (leBytes 16 1)
def fenced0 : State := setReg (Reg.REL_FENCE 0) 0x80000000 member
theorem test_Packets_met : takesPackets member = true ∧ fenced member = false ∧ noCredit false member = false ∧ noCredit true member = false
    ∧ noCredit false { member with ejectQ := [oddP, oddP] } = true ∧ noCredit false (raiseBit Reg.PART_CAP_STAT 3 member) = true
    ∧ (waits false { member with ejectQ := [oddP] } = true ∧ noCredit false { member with ejectQ := [oddP] } = false)
    ∧ (pktVerdict true ackP member = none ∧ srcFenced ackP member = false ∧ strange ackP member = false ∧ pTyp ackP = 11)
    ∧ srcFenced ackP fenced0 = true ∧ takesPackets fenced0 = true
    ∧ ((pktVerdict true farP member).isSome = true ∧ pMcast farP = 0) ∧ pktVerdict true badCrc member = some (Reg.XCHG_FAB_CRC_CNT, 0)
    ∧ (pktVerdict false oddP member = none ∧ strange oddP member = true) := by decide +kernel

def transitP (dst hops mc : Nat) : Packet := { ackP with w0 := BitVec.ofNat 64 (11 + mc * 2 ^ 6 + dst * 2 ^ 16 + 200 * 2 ^ 36 + hops * 2 ^ 56) }
/-- A row copy from die 3 on its way from the anchor 2 to the marked die 0. -/
def copyP : Packet := { ackP with w0 := BitVec.ofNat 64 (11 + 2 ^ 6 + 5 * 2 ^ 8 + 2 * 2 ^ 16 + 3 * 2 ^ 36 + 2 ^ 56) }
theorem test_Transit_met : pDst ackP = ownDa member
    ∧ pDst (transitP 1 0 0) ≠ ownDa member ∧ srcFenced (transitP 1 0 0) (setReg (Reg.REL_FENCE 0) 0x800000C8 member) = true ∧ srcFenced (transitP 1 0 0) member = false
    ∧ pHops (transitP 1 63 0) = 63 ∧ pHops (transitP 1 0 0) ≠ 63
    ∧ copyPort member (transitP 1 0 0) = none ∧ route member (transitP 1 0 0) = some 0 ∧ route member (transitP 64 0 0) = none
    ∧ copyPort { member with da := 1 } copyP = some 1 ∧ holeBeyond (tick { member with da := 1 }) 1 = false
    ∧ holeBeyond (tick (setReg Reg.REL_HOLE_LO 1 { member with da := 1 })) 1 = true := by decide +kernel

/-! ### Timeouts, events of the exchange, ingress, die memory -/

def aRun (e : Nat) : Run := { newRun (two 0x40 0) e (hd (two 0x40 0)) with acks := [1], stage := 2 }
def aWork (c : Nat) : Work :=
  { cluster := c, eng := 5, step := 0, half := false, expert := 1, layer := 3, model := 2, replica := false, gather := true, count := 1, waddr := 0, inBase := 0,
    tagBase := st0, src := 0, place := 0, first := 0, addr := 0, rowsLeft := 1, held := false, taken := false }
def aStream : Stream := { note := { half := false, expert := 0, layer := 0, model := 0, slot := 0, bank := 0, total := 4096 }, got := [], complete := false }
def runs (l : List Run) : State := { live1 with running := l }
def shWaitS : State := { sharedS with steps := [{ sub with phase := .enqueued }], running := [{ aRun 7 with cmd := hd (combS st0 (st0 + 256) sharedS 0x38), shWait := true }] }
theorem test_Timeouts_met : keeperUp (runs [aRun 5]) = true ∧ capMode (runs [aRun 5]) ≠ 2
    ∧ ((runOn (runs [aRun 5]) 5).any (fun u => u.acks != [])) = true
    ∧ (({ live1 with halves := [{ gwHalf with sendSignalled := true, expChunks := 1 }] } : State).halves.find? (fun h => h.half == false && h.sendSignalled && decide (h.arrivals < h.expChunks))).isSome = true
    ∧ (({ live1 with steps := [{ sub with phase := .enqueued, streams := [aStream] }] } : State).steps.find? (fun x => x.live && x.streams.any (fun t => !t.complete))).isSome = true
    ∧ (shWaitS.running.find? (fun u => u.eng == 7 && u.shWait)).isSome = true
    ∧ reached shWaitS (cBlock shWaitS (hd (combS st0 (st0 + 256) sharedS 0x38)).raw).shWait (cBlock shWaitS (hd (combS st0 (st0 + 256) sharedS 0x38)).raw).shTarget = false
    ∧ capMode (setFld Reg.PART_CAP_STAT 1 0 2 live1) = 2 := by decide +kernel
/-- With nothing missing. -/
theorem test_Timeouts_none : up.running = [] ∧ up.halves = [] ∧ up.steps = [] ∧ keeperUp { up with powered := false } = false := by decide +kernel
def lateGroup (g : ServeGroup) : State := { srvS with running := [{ aRun 6 with cmd := hd srvS, stage := 2, serves := [{ g with sent := false }] }] }
theorem test_FetchRdLate_met (g : ServeGroup) : ∃ u, (lateGroup g).running.find? (fun u => u.eng == 6 && u.stage == 2 && bit (rParam u.cmd.raw) 13 && u.serves.any (fun g => !g.sent)) = some u := by
  have h : bit (rParam (hd srvS).raw) 13 = true := by decide +kernel
  exact ⟨{ aRun 6 with cmd := hd srvS, stage := 2, serves := [{ g with sent := false }] }, by simp [lateGroup, h, aRun, newRun]⟩

def worked (l : List Work) : State := { live1 with work := l }
theorem test_ExchangeEvents_met : forwarding (worked [aWork 0]) = true ∧ fenced (worked [aWork 0]) = false
    ∧ (rowWork (worked [{ aWork 0 with taken := true }]) 0 0).isSome = true
    ∧ ((rowWork (worked [{ aWork 0 with taken := true, gather := false }]) 0 0).any (fun w => !w.gather)) = true ∧ (stepAt live1 0).isSome = true
    ∧ flag (raiseBit Reg.COMB_SH_SIG 10 live1) Reg.COMB_SH_SIG 10 = true := by decide +kernel
/-- Cluster 0 holds three tiles, cluster 1 none; balancing is on from one tile more (R360). -/
def balanced : State := { worked [aWork 0, aWork 0, aWork 0] with steps := [{ sub with phase := .enqueued, bound := setReg Reg.PART_DET_CTL 0x201 live1 |>.live }] }
theorem test_Steal_met : idleCluster balanced = some 1 ∧ donorCluster balanced = some 0 ∧ (tiles balanced 0).getLast?.isSome = true ∧ capMode balanced ≠ 2
    ∧ capMode (setFld Reg.PART_CAP_STAT 1 0 2 balanced) = 2 := by decide +kernel

def ingMap (ctl : Nat) : RegMap := (setReg Reg.SCORE_ING_CTL ctl (setReg Reg.SCORE_ING_SHAPE 0x00040002 (setReg (Reg.SCORE_ING_RANGE 0) 0x00020000 State.reset))).live
def anIng (ctl : Nat) (drop : Bool) (beat : List (Nat × Nat)) : Ingress :=
  { step := 0, bound := ingMap ctl, rows := [], beat := beat, sigA := false, sigB := false, dropping := drop }
def ingS (i : Ingress) (l : List Nat) : State := { live1 with ing := [i], poison := l }
theorem test_Ingress_met : keeperUp (ingS (anIng 1 false []) []) = true
    ∧ (ingS (anIng 1 false []) []).ing.find? (fun i => decide (ingGot i.rows 0 < ingCount i.bound 0)) = some (anIng 1 false [])
    ∧ (ingS (anIng 1 false []) []).ing.find? (fun i => decide (ingGot i.rows 3 < ingCount i.bound 3)) = none
    ∧ bFld (anIng 0 false []).bound Reg.SCORE_ING_CTL 0 0 = 0 ∧ bFld (anIng 1 false []).bound Reg.SCORE_ING_CTL 0 0 ≠ 0
    ∧ ingGot (anIng 1 false [(0, 1)]).beat 0 ≠ 0 ∧ ingGot (anIng 1 false []).beat 0 = 0
    ∧ (flagWrite (anIng 1 false []) 0 0 (ingS (anIng 1 false []) [])).1 = false ∧ (flagWrite (anIng 1 false []) 0 0 (ingS (anIng 1 false []) [0])).1 = true
    ∧ (ingS (anIng 0x100001 false []) []).ing.find? (fun i => !i.dropping && !(i.sigA && i.sigB) && bFld i.bound Reg.SCORE_ING_CTL 31 20 != 0
        && (stepAt live1 i.step).isSome) = some (anIng 0x100001 false []) := by decide +kernel

def tag0 : MemTag := { slot := 3, gen := 2, busy := true, freeAt := 0, eng := 8, addr := 0x100001000, n := 64 }
def reading : State := { live1 with memTags := [tag0], running := [{ aRun 8 with memSlots := [3] }] }
/-- Tags: slot 3 of generation 2, of another generation, and a slot with nothing outstanding. -/
theorem test_ServeDone_met : (runOfTag (setTag { tag0 with busy := false } { reading with running := reading.running.map (fun u => { u with stage := 4 }) })
    tag0).any (fun u => u.stage == 4) = true := by decide +kernel
theorem test_DieMemory_met : clocked reading = true ∧ slotGen reading 3 = 2 ∧ slotGen reading 4 = 0
    ∧ reading.memTags.find? (fun t => t.slot == 3 && t.busy) = some tag0 ∧ reading.memTags.find? (fun t => t.slot == 4 && t.busy) = none
    ∧ (runOfTag (setTag { tag0 with busy := false } reading) tag0).isSome = true ∧ runOfTag { reading with running := [] } tag0 = none
    ∧ (runOn reading 8).isSome = true ∧ inStaging 0x100001000 = false ∧ 0x100001000 < Config.apertureBase := by decide +kernel
/-- A run with another read out goes on waiting; one with none left works; the Keeper's packet under check waits or is judged. -/
theorem test_DieMemory_waits : readsBack { aRun 8 with memSlots := [4] } reading = false ∧ readsBack { aRun 8 with memSlots := [] } reading = true
    ∧ readsOut (checking [keeperTag] pLoadDie) takeEng = true ∧ readsOut (checking [] pLoadDie) takeEng = false ∧ keeperUp (checking [] pLoadDie) = true := by
  decide +kernel

theorem test_ExternalAccess_met : clocked up = true ∧ inStaging st0 = true ∧ inStaging 0x1000 = false ∧ ¬ Config.apertureBase ≤ 0x1000
    ∧ (∀ j < 8, phys up (st0 + j) ≠ none) ∧ up.poison = [] ∧ st0 + 4 ≤ Config.stagingBase + Config.stagingSize := by decide +kernel

/-! ### Beacon, flips, detections, bring-up -/

/-- A HEARTBEAT frame with its CRC. -/
def beatHead : W64 := headOf 3 0x01 false false 0 0 0
def beat (crc : W16) (whole : Bool) : Frame := { head := beatHead, pay := 0, crc := crc, whole := whole }
def beatOk : Frame := { beat 0 true with crc := crc16 (fBytes (beat 0 true)) }
theorem hears_of {s : State} {c : Nat} (h : (s.powered && !s.power.clkStopped && (c == 0 || c == 2 || (pwrState s != 2 && decide (2 ≤ fld s Reg.REL_PWR_STAT 4 3)))) = true) :
    hears s c := by
  simp only [Bool.and_eq_true, Bool.not_eq_true', Bool.or_eq_true, beq_iff_eq, bne_iff_ne, decide_eq_true_eq] at h
  exact ⟨h.1.1, h.1.2, by rcases h.2 with (a | a) | a; exacts [.inl a, .inr (.inl a), .inr (.inr a)]⟩
theorem test_Frames_met : (up.wf = true ∧ fCls beatOk = 3 ∧ fTyp beatOk = 1 ∧ (beat 1 true).whole = true ∧ (beat 1 true).crc ≠ crc16 (fBytes (beat 1 true)))
    ∧ (beatOk.whole = true ∧ beatOk.crc = crc16 (fBytes beatOk) ∧ repeated up 3 beatOk = false ∧ (beat 0 false).whole = false ∧ ready up = true)
    ∧ repeated (setLink 3 { linkAt up 3 with seqRx := [(3, 0)] } up) 3 beatOk = true
    ∧ (ready phaseC = false ∧ repeated phaseC 3 beatOk = false) := by decide +kernel
theorem test_Frames_hears : hears up 3 ∧ hears phaseC 3 ∧ hears dark 0 ∧ ¬ hears dark 3 :=
  ⟨hears_of (by decide +kernel), hears_of (by decide +kernel), hears_of (by decide +kernel), fun h => by
    have hp : pwrState dark = 2 := by decide +kernel
    rcases h.2.2 with a | a | a
    · exact absurd a (by decide)
    · exact absurd a (by decide)
    · exact a.1 hp⟩

def linked (k : Link → Link) : State := setLink 3 (k (linkAt up 3)) up
def aTx (n : Nat) : TxFrame := { cls := 3, frame := beatOk, sent := true, resends := n }
def claiming : State := setFld Reg.XCHG_BCN_ELECT 5 4 1 (setReg (Reg.XCHG_BCN_TREE 0) 0x200 up)
theorem test_BeaconTimers_met : bcnTx up = true ∧ bcnTx dark = false
    ∧ ((seatTree claiming).isSome = true ∧ forwarding claiming = true ∧ electState claiming = 1 ∧ claiming.elect.rootSeen = false) ∧ seatTree up = none
    ∧ (({ up with elect := { up.elect with waitRoot := true } } : State).elect.waitRoot = true)
    ∧ ((linkAt (linked (fun k => { k with tx := [aTx 0] })) 3).tx.any (fun t => t.cls == 3 && t.sent) = true)
    ∧ (linkFailed (linked (fun k => { k with tx := [aTx 0] })) 3 = false ∧ (linkAt (linked (fun k => { k with tx := [aTx 0] })) 3).dark = false
      ∧ fld (linked (fun k => { k with tx := [aTx 15] })) Reg.XCHG_BCN_CFG 14 11 ≤ 15 ∧ 0 < fld (linked (fun k => { k with tx := [aTx 0] })) Reg.XCHG_BCN_CFG 14 11)
    ∧ (({ up with recov := { up.recov with warm := [3] } } : State).recov.warm.contains 3 = true) := by decide +kernel

def seated : State := raiseBit Reg.XCHG_BCN_ELECT 2 (stageReg Reg.PART_SCHED 1 up)
def prepS : State := raiseBit Reg.XCHG_FAB_EPOCH 2 up
def dualS : State := raiseBit Reg.XCHG_FAB_EPOCH 1 up
def drainS : State := raiseBit Reg.XCHG_FAB_DRAIN 0 prepS
theorem test_FlipEvents_met : (keeperUp seated = true ∧ flag seated Reg.XCHG_BCN_ELECT 2 = true)
    ∧ epochWork { seated with models := [{ id := 2, hdr := hdr4, resident := false, leaving := false }] } = true ∧ epochWork up = false
    ∧ (forwarding prepS = true ∧ fenced prepS = false ∧ stage1Done prepS = true ∧ stage1Done up = false)
    ∧ (dual dualS = true ∧ dualS.flip.retireJoined = false ∧ oldSettled dualS = true ∧ dual up = false)
    ∧ (flag drainS Reg.XCHG_FAB_DRAIN 0 = true ∧ prep drainS = true ∧ drainS.steps.any Step.live = false ∧ drainS.abortAcks = [] ∧ drainS.killDone = true
      ∧ keeperUp drainS = true ∧ flag up Reg.XCHG_FAB_DRAIN 0 = false) := by decide +kernel

theorem test_Detections_met : (clocked up = true ∧ flag (raiseBit Reg.REL_SCRUB 0 up) Reg.REL_SCRUB 0 = true ∧ flag (setReg Reg.REL_SCRUB 0 up) Reg.REL_SCRUB 0 = false)
    ∧ (up.powered = true ∧ flag (raiseBit Reg.REL_SND_CTL 0 up) Reg.REL_SND_CTL 0 = true ∧ pwrState up ≠ 2 ∧ up.power.clkStopped = false)
    ∧ (1 ≤ fld up Reg.REL_PWR_STAT 4 3 ∧ Nat.land 1 up.power.clkBad = 0
      ∧ Nat.land 1 ({ up with power := { up.power with clkBad := 1 } } : State).power.clkBad ≠ 0)
    ∧ ((raiseBit Reg.REL_STAT 9 up).alarm = false ∧ ({ raiseBit Reg.REL_STAT 9 up with alarm := true } : State).alarm = true)
    ∧ (forwarding up = true ∧ fenced up = false ∧ fenced (raiseBit Reg.REL_STAT 9 up) = true ∧ forwarding (raiseBit Reg.REL_STAT 9 up) = true
      ∧ forwarding phaseC = false ∧ inPhase phaseC 2 = true ∧ forwarding dark = false ∧ inPhase dark 2 = false) := by decide +kernel

def phase (n : Nat) : State := setFld Reg.REL_PWR_STAT 4 3 n State.reset
theorem test_Bringup_met : State.reset.powered = true ∧ ({ State.reset with powered := false } : State).powered = false
    ∧ inPhase (phase 0) 0 = true ∧ inPhase (phase 1) 1 = true ∧ inPhase (phase 2) 2 = true ∧ inPhase up 0 = false ∧ inPhase up 1 = false ∧ inPhase up 2 = false
    ∧ (phase 2).power.fwVer = none ∧ (({ (phase 2).power with fwVer := some 1 } : Power).fwVer = some 1)
    ∧ up.powered = true := by decide +kernel

/-! ### Steps -/

theorem test_StepRuns_met : ({ up with pending := [.bootGo 1] } : State).pending = .bootGo 1 :: [] ∧ up.pending = [] ∧ up.wf = true := by decide +kernel
/-- An idle tick keeps a canonical state. -/
theorem test_StepKeeps_met : ∃ t, step up = .next t ∧ up.wf = true := ⟨_, by unfold step; rfl, by decide +kernel⟩
theorem test_Select_met : ∀ c ∈ [({ x := 0, p := 0, s := 0x3F800000 } : Cand), { x := 1, p := 0, s := 0x40000000 }], nanScore c = false := by decide +kernel

/-! ### The form of commands: one ill-formed term for each check -/

def longPkt : HostPkt := { hdr := 0, params := List.replicate 228 0 }
def oddPkt : HostPkt := { hdr := 0, params := [0] }
def badLen : Packet := { ackP with payload := [0] }
theorem test_wf_host : (Instr.nop longPkt).wf = false ∧ (Instr.submitList oddPkt).wf = false ∧ (Instr.nop (pkt 0 0 [])).wf = true := by decide +kernel
theorem test_wf_packet : (Instr.ack badLen).wf = false ∧ (Instr.transitForward badLen false).wf = false ∧ (Instr.ack ackP).wf = true := by decide +kernel
theorem test_wf_frames : (Instr.join 16 beatOk).wf = false ∧ (Instr.beaconFrameAck 3 4).wf = false ∧ (Instr.darkSidebandChange 16 true).wf = false
    ∧ (Instr.heartbeat 15 beatOk).wf = true := by decide +kernel
theorem test_wf_units : (Instr.score false (some 9)).wf = false ∧ (Instr.sort false (some 5)).wf = false ∧ (Instr.shDone 4).wf = false
    ∧ (Instr.ingressBeat 4 0 (List.replicate 64 0)).wf = false ∧ (Instr.ingressBeat 0 0 []).wf = false ∧ (Instr.ackTimeout 10).wf = false
    ∧ (Instr.memReadTimeout 1024).wf = false := by decide +kernel
theorem test_wf_access : (Instr.registerRead 0 3).wf = false ∧ (Instr.registerWrite 0xFFFE 4 0).wf = false ∧ (Instr.mbCmdWrite 64 0).wf = false
    ∧ (Instr.apertureAccess { write := true, addr := 0, n := 2, data := [0], found := .clean }).wf = false
    ∧ (Instr.apertureAccess { write := false, addr := 0xFFFFFFFFFFFF, n := 2, data := [], found := .clean }).wf = false := by decide +kernel
/-- The opcode table gives no command bits. -/
theorem test_noWord : decodeTableWord 8 0 = none ∧ State.withFetchWord up 8 0 = up := ⟨rfl, rfl⟩

/-! ### Worked examples of the spec -/

/-- The worked example after R60: 5.0, -0.7, 12.5 and 0.26 as an MXFP4 block: scale 0x80, elements 4, 9, 7, 0, none clamped (R48). -/
theorem test_mx_block : mxBlock 0x09 false (([0x40A00000, 0xBF333333, 0x41480000, 0x3E851EB8] ++ List.replicate 28 0).map ofF32)
    = (0x80, [4, 9, 7, 0] ++ List.replicate 28 0, 0) := by decide +kernel
/-- Its router tensor: element (35, 2) in the upper half of byte 8,209, its scale at byte 513 (R51, R55). -/
def router : Desc :=
  { base := 0, fmt := 0x09, ndim := 2, size := [8192, 256, 1, 1, 1], stride := [1, 8192, 0, 0, 0], scaleBase := 0x100000, sstride := 256, idxBase := 0, idxDim := 0,
    idxMode := 0, idxFmt := 0, idxStride := 0, idxBound := 0, rsv := true }
theorem test_desc_place : router.place [35, 2, 0, 0, 0] = (8209, 4, 1) ∧ router.scaleAt [35, 2, 0, 0, 0] = 0x100000 + 513 := by decide +kernel
/-- Token 0 of the example after R150: experts 5 and 6 tie at 14/64, then expert 0 at 12/64 (R127). -/
theorem test_select_order : (candList { set := [{ x := 0, p := 0x3EA00000, s := 0x3E400000 }, { x := 4, p := 0x3D800000, s := 0x3D800000 }, { x := 5, p := 0x3E400000, s := 0x3E600000 },
    { x := 6, p := 0x3E200000, s := 0x3E600000 }], nan := false, clamps := 0 }).map Cand.x = [5, 6, 0, 4] := by decide +kernel
/-- The check value of R259. -/
theorem test_crc16 : crc16 [0x31, 0x32, 0x33, 0x34, 0x35, 0x36, 0x37, 0x38, 0x39] = 0x29B1 := by decide +kernel
/-- The check value of R186. -/
theorem test_crc32c : (crc32c [0x31, 0x32, 0x33, 0x34, 0x35, 0x36, 0x37, 0x38, 0x39]).toNat = 0xE3069283 := by decide +kernel


/-! ### Witnesses of the completion statements of capture, detections, bring-up and unlisted traffic -/

def capStarting : State := { setFld Reg.PART_CAP_STAT 1 0 3 member with cap := { member.cap with start := some rep0 } }
def capEnding : State := { setFld Reg.PART_CAP_STAT 1 0 1 member with cap := { member.cap with stop := some rep0 } }
def capStaged : State := { capEnding with cap := { capEnding.cap with bufs := [0xFE0000800000], staged := [[1, 2]] } }
theorem test_CaptureComplete_met : (keeperUp capStarting = true ∧ capMode capStarting = 3 ∧ capStarting.steps = [] ∧ capStarting.cap.start = some rep0)
    ∧ (keeperUp capEnding = true ∧ capMode capEnding = 1 ∧ capEnding.cap.stop ≠ none ∧ capEnding.steps = []) ∧ (keeperUp member = true ∧ capMode member = 0)
    ∧ (capMode capStaged ≠ 2 ∧ capStaged.cap.bufs ≠ [] ∧ capStaged.cap.staged.flatten = [1, 2]) := by decide +kernel

/-- Margins of five domains under thresholds 20, 10 and 5 (R395). -/
def sound (vofs : Nat) : State := setReg Reg.REL_SND_VOFS vofs (setReg Reg.REL_SND_THR 0x050A14 (setReg Reg.REL_SND_CTL 0xA01 up))
def soundAt (m : Nat) : Nat := (sndLowest 0 [m, 40, 40, 40, 40]).1
theorem test_DetectionsComplete_met : flag (sound 5) Reg.REL_SND_CTL 0 = true ∧ fld (sound 5) Reg.REL_SND_CTL 12 9 = 5 ∧ fld (sound 4) Reg.REL_SND_VOFS 3 0 < 5
    ∧ soundAt 5 ≤ fld (sound 5) Reg.REL_SND_THR 23 16 ∧ fld (sound 5) Reg.REL_SND_THR 23 16 < soundAt 6 ∧ soundAt 10 ≤ fld (sound 5) Reg.REL_SND_THR 15 8
    ∧ soundAt 20 ≤ fld (sound 4) Reg.REL_SND_THR 7 0 ∧ ¬ soundAt 21 ≤ fld (sound 4) Reg.REL_SND_THR 7 0
    ∧ ({ up with poison := [Config.stagingBase / 8] } : State).poison.contains (Config.stagingBase / 8 + up.scrubPos) = true := by decide +kernel

def vofsAsked : State := stageReg Reg.REL_PWR_CFG 1 up
theorem test_BringupComplete_met : up.powered = true ∧ up.power.vofsSet = false ∧ Nat.land (stg up Reg.REL_PWR_CFG) 3 = Nat.land (reg up Reg.REL_PWR_CFG) 3
    ∧ vofsAsked.powered = true ∧ forwarding vofsAsked = true ∧ Nat.land (stg vofsAsked Reg.REL_PWR_CFG) 3 ≠ Nat.land (reg vofsAsked Reg.REL_PWR_CFG) 3
    ∧ (cfgMismatch vofsAsked = true ∧ cfgMismatch (agreed vofsAsked) = false) ∧ forwarding dark = false
    ∧ Nat.land (stg (stageReg Reg.REL_PWR_CFG 1 dark) Reg.REL_PWR_CFG) 3 ≠ Nat.land (reg (stageReg Reg.REL_PWR_CFG 1 dark) Reg.REL_PWR_CFG) 3
    ∧ (phase 1).power.waking = false ∧ ({ (phase 1).power with waking := true, full := false } : Power).full = false := by decide +kernel

def badType : Packet := mkPacket member (hdr 7) []
theorem test_UnlistedTraffic_met : waits true member = false ∧ takesPackets member = true ∧ noCredit true member = false ∧ member.fabQ = [] ∧ srcFenced badCrc member = false ∧ pMcast badCrc = 0 ∧ pCrcOk badCrc = false
    ∧ pTyp badType = 7 ∧ pCrcOk badType = true ∧ srcFenced badType member = false ∧ pMcast badType = 0 ∧ listedFrame beatOk = true
    ∧ listedFrame { beatOk with head := headOf 3 0x1F false false 0 0 0 } = false ∧ runOn member 5 = none ∧ member.memTags = []
    ∧ waits false { member with ejectQ := [oddP] } = true := by decide +kernel

/-! ### Further witnesses, clause by clause -/

/-- O14: the latch is refilled after a take (R328). -/
def taken : State := { logged with clock := 5, log := { logged.log with takenAt := some 0 } }
theorem test_Refilling_met : refilling taken = true ∧ refilling logged = false ∧ ctlUp taken = true ∧ pwrState taken ≠ 2 := by decide +kernel

/-- O18: a valid image copy of 64 bytes at BOOT_SRC = 64 (R413, R414). -/
def imageS : State := setReg Reg.REL_BOOT_SRC_LO 64 { phaseC with mem := (withIdx 64 (mkCopy 2 1 (List.replicate 64 7))).filter (fun e => e.2 != 0) }
theorem test_ImageThere_met : inPhase imageS 2 = true ∧ imageS.power.fwVer = none ∧ (extImage imageS).isSome = true := by decide +kernel

/-- O32: a COMMIT whose publication block holds a poisoned word (R287, R378). -/
def commitAt : Record := BitVec.ofNat 512 (0xF0 + 1016 * 2 ^ 16 + 2 ^ 171 + st0 * 2 ^ 192)
def commitPoison : State := { queued with steps := [{ ending 1 with recs := [commitAt] }], poison := [st0 / 8] }
theorem test_CommitPoison_met : (commitDue commitPoison).any (fun e => (pubPoisoned commitPoison e.2 0).isSome
    && decide (e.1.kgen.toNat = kgen commitPoison)) = true := by decide +kernel

/-- O57: a fatal margin before readiness, after the loss of a clock, in a slice lost already, and in none of these (R385, R400, R409). -/
theorem test_Lossless_met : ready phaseC = false ∧ ({ up with power := { up.power with clkStopped := true } } : State).power.clkStopped = true
    ∧ ready (sound 5) = true ∧ (sound 5).power.clkStopped = false ∧ fenced (sound 5) = false := by decide +kernel

/-- O33: a killed step to run again, under no hold and under one (R295, R368). -/
def killed1 : State := { queued with steps := [{ sub with phase := .killed }] }
theorem test_RerunLeft_met : killed1.steps.any (fun x => x.phase == .killed) = true ∧ capHold killed1 = false ∧ ownPoison killed1 = none
    ∧ capHold (raiseBit Reg.PART_CAP_STAT 2 killed1) = true := by decide +kernel

/-- O37: a MOVE from staging to die memory, with a rate set: it has credit, or it has none (R344). -/
def movesOut (tk : Int) : State :=
  let s := setReg Reg.PART_REG_MEM 1 (onRing (rec' 0x40 0 [st0, st0 + 128]) (engM (engCells.filter (fun e => e.1 != 133))))
  { s with memb := { s.memb with tk := tk } }
theorem test_Metered_met : endB 8 moveP moveJob (movesOut 0) = some (true, true, true, true, true)
    ∧ decide (metered (moveJob (movesOut 0) (hd (movesOut 0))) (startRun 8 (hd (movesOut 0)) (movesOut 0)) ≠ 0) = true
    ∧ 0 ≤ (startRun 8 (hd (movesOut 0)) (movesOut 0)).memb.tk ∧ (startRun 8 (hd (movesOut 0)) (movesOut 0)).memb.mem = []
    ∧ (startRun 8 (hd (movesOut (-1))) (movesOut (-1))).memb.tk < 0 := by decide +kernel

/-- O54: every listed command on a state where it acts. -/
def acts (i : Instr) (s : State) : Bool := match exec i s with | .next t => decide (t ≠ s) | _ => false
def okFrame (h : W64) : Frame := { head := h, pay := 9, crc := crc16 (fBytes { head := h, pay := 9, crc := 0, whole := true }), whole := true }
theorem test_Frames_act : acts (.transitForward (transitP 1 0 0) false) member = true ∧ acts (.badTypePacket true badCrc) member = true
    ∧ acts (.claim 3 (okFrame (headOf 3 2 true false 0 0 0))) up = true ∧ acts (.discover 3 (okFrame (headOf 3 4 false false 0 0 0))) up = true
    ∧ acts (.discoverReply 3 (okFrame (headOf 3 5 true false 0 0 0))) up = true ∧ acts (.heartbeat 3 beatOk) up = true := by decide +kernel
theorem test_LinkEvents_act : acts (.unlistedBeaconFrame 3 (okFrame (headOf 3 0x1F false false 0 0 0))) up = true
    ∧ acts (.beaconFrameAck 3 3) (linked (fun k => { k with tx := [aTx 0] })) = true ∧ acts (.darkSidebandChange 3 true) up = true
    ∧ acts (.clockWindow 1) up = true ∧ acts .pwrGoodFall up = true := by decide +kernel

/-- O60: a state with a reply, a running command and an unfinished step, within the bounds, whose step answers a next state. -/
def bounds1 : State := { startRun 8 (hd (movesOut 0)) (movesOut 0) with replies := [mkReply (pkt 0x00 0 []) 0 []], pending := [.replyFifoEnter] }
theorem test_KeepsBounds_met : bounds1.bounded = true ∧ bounds1.running.length = 1 ∧ bounds1.steps.length = 1 := by decide +kernel
theorem test_KeepsBounds_steps : ∃ t, step bounds1 = .next t := ⟨_, rfl⟩

end Sys2Proof.Tests
end

section
/-! What a row that starts a record does with it, said once for every row of `jobRowIf`, and how a record's job ends where something stops it. -/

namespace Sys2Proof.Machine

variable {s u t : State} {e : Nat} {be c c' : Bool} {r : RingRec} {p : Record → Bool} {mk : State → RingRec → Job}

/-! ### The rows that start a record -/

/-- The next state `t` of a row that starts the records `p` picks, from `s`: `s` itself where the row finds no record of its own; and where it starts `r`, by
then in the state `u`, under its further conditions `c`, what `runJob` leaves. -/
structure RowStart (e : Nat) (be : Bool) (p : Record → Bool) (mk : State → RingRec → Job) (s u : State) (r : RingRec) (c : Bool) (t : State) : Prop where
  idle : startable s e be = none → t = s
  other : startable s e be = some r → p r.raw = false → t = s
  starts : c = true → startable s e be = some r → startable u e be = some r → p r.raw = true → t = runJob e be p mk u

/-- A row with no further condition. -/
theorem rowStart_runJob : RowStart e be p mk s s r true (runJob e be p mk s) :=
  ⟨runJob_none, runJob_other, fun _ _ _ _ => rfl⟩

/-- With no record to start no lines are asked for. -/
theorem runLines_none {need : State → RingRec → Bool × Nat × Nat × List Nat} (h : startable s e be = none) : runLines e be p need mk s = s := by
  unfold runLines; rw [h]

/-- A record of another row asks for no lines. -/
theorem runLines_other {need : State → RingRec → Bool × Nat × Nat × List Nat} (h : startable s e be = some r) (hp : p r.raw = false) :
    runLines e be p need mk s = s := by
  unfold runLines; rw [h]; dsimp only; rw [if_pos (by rw [hp]; decide)]

/-- A row whose record starts once its lines are held (R157). -/
theorem rowStart_runLines (need : State → RingRec → Bool × Nat × Nat × List Nat) :
    RowStart e be p mk s s r (llMissing s (need s r).1 (need s r).2.1 (need s r).2.2.1 (need s r).2.2.2).isEmpty (runLines e be p need mk s) :=
  ⟨runLines_none, runLines_other, fun hc h _ hp => runLines_held h hp (List.isEmpty_iff.mp hc)⟩

/-- A row that does nothing unless a check holds, which it does where the record may start (R179, R270). -/
theorem rowStart_gated {ok : Bool} (hrow : RowStart e be p mk s u r c t) (hok : startable s e be = some r → c' = true → ok = true ∧ c = true) :
    RowStart e be p mk s u r c' (if ok then t else s) where
  idle h := by rw [hrow.idle h, ite_self]
  other h hp := by rw [hrow.other h hp, ite_self]
  starts hc h hu hp := by
    obtain ⟨hok, hc⟩ := hok h hc
    rw [if_pos hok, hrow.starts hc h hu hp]

/-- A record that may start with what it reserves in capture staging runs in the state with the room reserved (R369). -/
theorem withReserve_fits {need : State → RingRec → Nat} {run : State → State} {n : Nat} (h : startable s e be = some r) (hp : p r.raw = true)
    (hn : need s r = n) (hfit : staged16 n s = true) : withReserve e be p need run s = run (reserving n s) := by
  unfold withReserve reserving
  rw [h]; dsimp only; rw [if_neg (by rw [hp]; decide), hn]
  by_cases hm : capMode s = 1
  · have hroom : ¬ capFree s < 16 * n := by simpa [staged16, hm] using hfit
    rw [if_neg (by simp [hm]), if_neg hroom, if_pos hm]
  · rw [if_pos (by simpa using hm), if_neg hm]

/-- A row that reserves room in capture staging before it goes on as `run` does (R369). -/
theorem rowStart_withReserve {need : State → RingRec → Nat} {run : State → State} {n : Nat} (hn : c = true → need s r = n)
    (hrun : RowStart e be p mk (reserving n s) (reserving n s) r c (run (reserving n s))) :
    RowStart e be p mk s (reserving n s) r (c && staged16 n s) (withReserve e be p need run s) where
  idle h := by unfold withReserve; rw [h]
  other h hp := by unfold withReserve; rw [h]; dsimp only; rw [if_pos (by rw [hp]; decide)]
  starts hc h hu hp := by
    obtain ⟨hc, hfit⟩ := Bool.and_eq_true_iff.mp hc
    rw [withReserve_fits h hp (hn hc) hfit, hrun.starts hc hu hu hp]

/-- A row whose further conditions are said in another form. -/
theorem RowStart.weaken (hrow : RowStart e be p mk s u r c t) (hc : c' = true → c = true) : RowStart e be p mk s u r c' t :=
  ⟨hrow.idle, hrow.other, fun h => hrow.starts (hc h)⟩

/-- A row of one job and no further condition does what `runJob` does. -/
theorem exec_jobRowOf {i : Instr} (h : jobRowOf i = some (e, be, p, mk)) : exec i s = .next (settle (runJob e be p mk s)) := by
  unfold jobRowOf at h
  split at h <;> cases h <;> rfl

/-- FETCH as requester: it asks for no room while lines are missing (R157, R369). -/
theorem rowStart_fetchRequester :
    let room := fetchRoom s r
    let holds (t : State) : Bool := (llMissing t (fetchNeed t r).1 (fetchNeed t r).2.1 (fetchNeed t r).2.2.1 (fetchNeed t r).2.2.2).isEmpty
    RowStart 6 be isFetchReq fetchReqJob s (reserving room s) r (holds s && holds (reserving room s) && staged16 room s)
      (withReserve 6 be isFetchReq
        (fun s r => if (llMissing s (fetchNeed s r).1 (fetchNeed s r).2.1 (fetchNeed s r).2.2.1 (fetchNeed s r).2.2.2).isEmpty then fetchRoom s r else 0)
        (runLines 6 be isFetchReq fetchNeed fetchReqJob) s) := by
  intro room holds
  refine rowStart_withReserve (fun hc => ?_) ((rowStart_runLines fetchNeed).weaken fun hc => ?_)
  · exact if_pos (Bool.and_eq_true_iff.mp hc).1
  · exact (Bool.and_eq_true_iff.mp hc).2

/-- Every row of `jobRowIf` does with its record what `RowStart` says. -/
theorem exec_jobRowIf {i : Instr} (h : jobRowIf i s r = some (e, be, p, mk, u, c)) :
    ∃ t, exec i s = .next (settle t) ∧ RowStart e be p mk s u r c t := by
  unfold jobRowIf at h
  dsimp only at h
  split at h
  · -- SCORE
    cases h; exact ⟨_, rfl, rowStart_runJob⟩
  · -- SCORE_COUNT
    cases h; exact ⟨_, rfl, rowStart_runJob⟩
  · -- SORT, source mode
    cases h; exact ⟨_, rfl, rowStart_runLines sortNeed⟩
  · -- SORT, gateway mode
    cases h; exact ⟨_, rfl, rowStart_gated rowStart_runJob fun _ hc => ⟨hc, rfl⟩⟩
  · -- PLAN
    cases h; exact ⟨_, rfl, rowStart_runLines planNeed⟩
  · -- SEND
    cases h; exact ⟨_, rfl, rowStart_withReserve (c := true) (fun _ => rfl) rowStart_runJob⟩
  · -- FETCH, requester
    cases h; exact ⟨_, rfl, rowStart_fetchRequester⟩
  · -- FETCH, server
    cases h; exact ⟨_, rfl, rowStart_runLines serverNeed⟩
  · -- REDUCE_STATS, beacon
    cases h; exact ⟨_, rfl, rowStart_gated rowStart_runJob fun hs hc => ⟨by rw [hs]; exact hc, rfl⟩⟩
  · -- DISPATCH
    cases h
    refine ⟨_, rfl, rowStart_gated (rowStart_runLines dispatchNeed) fun hs hc => ?_⟩
    obtain ⟨hjoin, hheld⟩ := Bool.and_eq_true_iff.mp hc
    exact ⟨by rw [hs]; exact hjoin, hheld⟩
  · -- the rows of `jobRowOf`
    obtain ⟨q, hq, he⟩ := Option.map_eq_some_iff.mp h
    cases he
    exact ⟨_, exec_jobRowOf hq, rowStart_runJob⟩

/-! ### How a job ends -/

section
variable {w : Run} {j : Job} {a : Addr} (hread : poisonAny s (cmdSpan w.cmd :: j.reads) = none) (hkill : j.kill = none)
include hread hkill

/-- A job that would write part of a poisoned word is aborted, read early or not (R25, R379). -/
theorem doJob_aborts_doneAs (hpart : partialPoison s ((j.doneAs s w.cmd).writes.map Wr.a) = some a) : doJob w j s = abortWrite a w.cmd.step s := by
  rw [doJob_open hread hkill, hpart]

variable (hpart : partialPoison s ((j.doneAs s w.cmd).writes.map Wr.a) = none)
include hpart

/-- A job whose writes the MEM bucket does not meter makes them at once (R344). -/
theorem doJob_unmetered (hm : metered (j.doneAs s w.cmd) s = 0) : doJob w j s = jobLast w (j.doneAs s w.cmd) s := by
  rw [doJob_open hread hkill, hpart]; dsimp only; rw [if_pos hm]

/-- Metered writes pass a MEM bucket that has credit and at which nothing waits, and are charged to it (R344). -/
theorem doJob_charged (hm : metered (j.doneAs s w.cmd) s ≠ 0) (htk : 0 ≤ s.memb.tk) (hq : s.memb.mem = []) :
    doJob w j s = jobLast w (j.doneAs s w.cmd) (chargeMem (metered (j.doneAs s w.cmd) s) s) := by
  rw [doJob_open hread hkill, hpart]; dsimp only; rw [if_neg hm, if_pos ⟨htk, hq⟩]

/-- Metered writes wait at a MEM bucket without credit, or behind a request that waits there (R344). -/
theorem doJob_waits (hm : metered (j.doneAs s w.cmd) s ≠ 0) (hq : s.memb.tk < 0 ∨ s.memb.mem ≠ []) :
    doJob w j s = { s with memb := { s.memb with
      mem := s.memb.mem ++ [{ be := rBe w.cmd.raw, write := true, eng := w.eng, n := metered (j.doneAs s w.cmd) s,
                              addr := ((j.doneAs s w.cmd).writes.map Wr.a).headD 0 }] } } := by
  have hno : ¬ (0 ≤ s.memb.tk ∧ s.memb.mem = []) := by
    rintro ⟨htk, hmem⟩
    exact hq.elim (fun h => absurd htk (not_le.mpr h)) (fun h => h hmem)
  rw [doJob_open hread hkill, hpart]; dsimp only; rw [if_neg hm, if_neg hno]

end

/-- Settles O37: the row leaves its state alone or starts its record (`exec_jobRowIf`), and a record that starts asks for its operands in die memory
(`runJob_die`) or does its job (`runJob_staging`), which ends as the lemmas about `doJob` say. -/
theorem engineRowsStopped : Obligations.EngineRowsStopped := by
  unfold Obligations.EngineRowsStopped
  intro i e be c p mk s u r hrow j v d starts reads
  obtain ⟨t, hexec, hrow⟩ := exec_jobRowIf hrow
  have stays (h : t = s) : exec i s = .next (settle s) := by rw [hexec, h]
  have asks (h : starts) (hd : dieBytes u j.reads ≠ 0) : exec i s = .next (settle (memRequests e be (dieReads u j.reads) v)) := by
    obtain ⟨hc, hs, hu, hp⟩ := h
    rw [hexec, hrow.starts hc hs hu hp, runJob_die hu hp hd]
  have does {x : State} (h : starts) (hd : dieBytes u j.reads = 0) (hx : doJob (newRun u e r) j v = x) : exec i s = .next (settle x) := by
    obtain ⟨hc, hs, hu, hp⟩ := h
    rw [hexec, hrow.starts hc hs hu hp, runJob_staging hu hp hd, hx]
  exact ⟨fun h => stays (hrow.idle h), fun h hp => stays (hrow.other h hp),
    fun a h hd hread => does h hd (doJob_poisoned hread),
    fun k h hd hread hkill => does h hd (doJob_kills hread hkill),
    fun a h hd hread hkill hpart => does h hd (doJob_aborts_doneAs hread hkill hpart),
    fun h hd hread hkill hpart =>
      ⟨fun hm => does h hd (doJob_unmetered hread hkill hpart hm),
        fun hm htk hq => does h hd (doJob_charged hread hkill hpart hm htk hq),
        fun hm hq => does h hd (doJob_waits hread hkill hpart hm hq)⟩,
    asks⟩

end Sys2Proof.Machine
end

section
/-! How the engine rows of one job run (R31, R33), and what the completion of a command changes (R282, R285, R299, R326). -/

namespace Sys2Proof.Machine

open State

variable {s v w : State} {e : Nat} {be : Bool} {r : RingRec} {p : Record → Bool} {mk : State → RingRec → Job} {i : Instr} {u : Run} {j : Job} {x : Step}

/-! ### The rows of one job -/

/-- A row of one job whose record nothing stops leaves what the job does. -/
theorem exec_jobRowOf_runs (hrow : jobRowOf i = some (e, be, p, mk)) (hp : p r.raw = true) (hruns : jobRuns s e be r (mk s r)) :
    exec i s = .next (settle (jobEnds s e r (mk s r))) := by
  rw [exec_jobRowOf hrow, runJob_runs hp hruns]

/-- Settles O34: a row of `jobRowOf` runs its job, and nothing stops one that `jobRuns`. -/
theorem engineRowsRun : Obligations.EngineRowsRun := by
  unfold Obligations.EngineRowsRun
  exact fun _ _ _ _ _ _ _ hrow hp hruns => exec_jobRowOf_runs hrow hp hruns

/-! ### What the work of a job changes -/

/-- A byte reads the same where memory and windows are the same (R323, R324). -/
theorem rd8_congr (hmem : w.mem = v.mem) (hwin : w.windows = v.windows) (a : Addr) : rd8 w a = rd8 v a := by
  unfold rd8 phys; rw [hmem, hwin]

/-- A job whose other changes are of live registers makes its writes, and changes nothing else but live registers. -/
theorem jobWork_only (hafter : ∀ t, LiveOnly t (j.after t)) (hrep : ∀ t, LiveOnly t (j.rep t)) (s : State) :
    jobWork j s = { s with live := (jobWork j s).live, mem := (putAll j.writes s).mem, poison := (putAll j.writes s).poison } := by
  have hwritten : LiveOnly (putAll j.writes s) (jobWork j s) :=
    (((applyFx_only _ _).trans (seeMisses_only _ _)).trans (hrep _)).trans (hafter _)
  exact Eq.trans hwritten (congrArg (fun t : State => { t with live := (jobWork j s).live }) (putAll_only j.writes s))

/-- Counting the cycles of a command changes its BUSY counter, and takes a free value. -/
theorem busy_only (lo bound : Nat) (s : State) : busy lo bound s = { s with live := (busy lo bound s).live, free := (busy lo bound s).free } := rfl

/-- Where digests are off a command writes none (R367). -/
theorem digests_off (h : s.cap.digest = false) (r : RingRec) (outs : List Addr) : digests r outs s = s := by
  unfold digests; rw [h]; rfl

/-! ### What completing changes -/

/-- A command that signals frees its slot and its engine, and changes nothing else but its counter, credits, the log and collective data (R33, R282). -/
theorem retire_only (u : Run) (s : State) :
    retire u s = { s with
      live := (retire u s).live, cnt := (signal (rSig u.cmd.raw) s).cnt, cpools := (retire u s).cpools
      running := s.running.filter (fun x => x.eng != u.eng)
      ringq := dropFirst (fun x => x.ring == u.cmd.ring && x.step == u.cmd.step && x.idx == u.cmd.idx) s.ringq
      colls := (retire u s).colls, log := (retire u s).log, free := (retire u s).free } := by
  unfold retire; dsimp only
  rw [logTrace_only, releaseCredits_only]; rfl

/-- A step is found by its number as before once something else of it has changed. -/
theorem stepAt_modStep {q : W32} {f : Step → Step} (hf : ∀ y, (f y).seq = y.seq) (h : stepAt s q = some x) : stepAt (modStep q f s) q = some (f x) := by
  have hseq : x.seq = q := by simpa using List.find?_some h
  unfold stepAt modStep at *
  have hkeep : ((fun y => y.seq == q) ∘ fun y => if y.seq = q then f y else y) = fun y : Step => y.seq == q := by
    funext y; simp only [Function.comp]; split <;> simp [hf]
  rw [List.find?_map, hkeep, h, Option.map_some, if_pos hseq]

/-- Only the last record of a list without COMMIT ends its step (R299). -/
theorem listDone_of_commit {q : W32} (h : stepAt s q = some x) (hx : x.opcode ≠ 0x80 ∨ x.commitRec ≠ none) : listDone q s = s := by
  unfold listDone; rw [h]; dsimp only
  refine if_neg fun hc => ?_
  simp only [Bool.and_eq_true, decide_eq_true_eq, Option.isNone_iff_eq_none] at hc
  exact hx.elim (fun hne => hne hc.1.1) (fun hne => hne hc.1.2)

/-- A record whose step ends by COMMIT signals, and one more record of its step counts as completed (R299). -/
theorem complete_of_commit (h : stepAt s u.cmd.step = some x) (hx : x.opcode ≠ 0x80 ∨ x.commitRec ≠ none) :
    complete u s = modStep u.cmd.step (fun y => { y with completed := y.completed + 1 }) (retire u s) := by
  have hr : stepAt (retire u s) u.cmd.step = some x := by
    have hsteps : (retire u s).steps = s.steps := by rw [retire_only]
    unfold stepAt; rw [hsteps]; exact h
  exact listDone_of_commit (stepAt_modStep (fun _ => rfl) hr) hx

/-- All that the completion of a record changes whose step ends by COMMIT. -/
theorem complete_only (h : stepAt s u.cmd.step = some x) (hx : x.opcode ≠ 0x80 ∨ x.commitRec ≠ none) :
    complete u s = { s with
      live := (complete u s).live, cnt := (signal (rSig u.cmd.raw) s).cnt, cpools := (complete u s).cpools
      running := s.running.filter (fun x => x.eng != u.eng)
      ringq := dropFirst (fun x => x.ring == u.cmd.ring && x.step == u.cmd.step && x.idx == u.cmd.idx) s.ringq
      colls := (complete u s).colls
      steps := s.steps.map (fun y => if y.seq = u.cmd.step then { y with completed := y.completed + 1 } else y)
      log := (complete u s).log, free := (complete u s).free } := by
  rw [complete_of_commit h hx, retire_only]; rfl

/-- The work of a job and the count of its cycles make its writes, and change nothing else but live registers and free values (R33). -/
theorem jobCounted_only (hafter : ∀ t, LiveOnly t (j.after t)) (hrep : ∀ t, LiveOnly t (j.rep t)) (s : State) :
    ∃ live free, (if j.busyLo = 0 then jobWork j s else busy j.busyLo j.bound (jobWork j s))
      = { s with live := live, free := free, mem := (putAll j.writes s).mem, poison := (putAll j.writes s).poison } := by
  split
  · exact ⟨_, _, jobWork_only hafter hrep s⟩
  · exact ⟨_, _, by rw [busy_only, jobWork_only hafter hrep s]⟩

section
variable (hafter : ∀ t, LiveOnly t (j.after t)) (hrep : ∀ t, LiveOnly t (j.rep t)) (hdig : s.cap.digest = false)
  (hstep : stepAt s u.cmd.step = some x) (hx : x.opcode ≠ 0x80 ∨ x.commitRec ≠ none)
include hafter hrep hdig hstep hx

/-- All that the work and the completion of a command change, where digests are off and its step ends by COMMIT. -/
theorem jobDone_only :
    jobDone u j s = { s with
      live := (jobDone u j s).live, cnt := (signal (rSig u.cmd.raw) s).cnt, cpools := (jobDone u j s).cpools
      running := s.running.filter (fun x => x.eng != u.eng)
      ringq := dropFirst (fun x => x.ring == u.cmd.ring && x.step == u.cmd.step && x.idx == u.cmd.idx) s.ringq
      colls := (jobDone u j s).colls
      steps := s.steps.map (fun y => if y.seq = u.cmd.step then { y with completed := y.completed + 1 } else y)
      log := (jobDone u j s).log, free := (jobDone u j s).free
      mem := (putAll j.writes s).mem, poison := (putAll j.writes s).poison } := by
  obtain ⟨live, free, hcounted⟩ := jobCounted_only hafter hrep s
  unfold jobDone
  generalize (if j.busyLo = 0 then jobWork j s else busy j.busyLo j.bound (jobWork j s)) = w at hcounted ⊢
  have hoff : digests u.cmd j.outs w = w := digests_off (by rw [hcounted]; exact hdig) _ _
  have hdone := complete_only (u := u) (s := w) (by rw [hcounted]; exact hstep) hx
  rw [hoff, hdone, hcounted]; rfl

/-- The command adds 1 to its signal counter and to no other (R33). -/
theorem cnt_jobDone (hcnt : cellWf (fun _ => 0) s.cnt = true) (n : Nat) :
    cnt (jobDone u j s) n = if n = rSig u.cmd.raw then cnt s n + 1 else cnt s n := by
  have hsignal : cnt (jobDone u j s) n = cnt (signal (rSig u.cmd.raw) s) n := by
    unfold cnt; rw [jobDone_only hafter hrep hdig hstep hx]
  rw [hsignal, cnt_signal s hcnt]
  split
  · next heq => rw [heq]
  · rfl

/-- Memory reads as after the job's writes. -/
theorem rd8_jobDone (a : Addr) : rd8 (jobDone u j s) a = rd8 (putAll j.writes s) a := by
  have hwritten : (putAll j.writes s).windows = s.windows := by rw [putAll_only]
  apply rd8_congr
  · rw [jobDone_only hafter hrep hdig hstep hx]
  · rw [jobDone_only hafter hrep hdig hstep hx, hwritten]

end

/-- Starting a record takes its credits and its engine; what a job sets as it starts is of live registers (R31). -/
theorem start_only (hstart : ∀ t, LiveOnly t (j.start t)) (e : Nat) (r : RingRec) (s : State) :
    j.start (startRun e r s) = { s with
      live := (j.start (startRun e r s)).live, cpools := (startRun e r s).cpools, running := s.running ++ [newRun s e r] } := by
  have h : j.start (startRun e r s) = { startRun e r s with live := (j.start (startRun e r s)).live } := hstart _
  rw [h, startRun_only]

/-! ### A canonical state stays so -/

/-- A change that leaves the staged registers, the publication table, the CMD registers and the store of a canonical state is still one after its end. -/
theorem settle_keeps (hs : s.wf = true) (hstaged : w.staged = s.staged) (hpub : w.pub = s.pub) (hmbox : w.mboxCmd = s.mboxCmd) (hnvm : w.nvm = s.nvm) :
    settle w = { w with live := (settle w).live, cnt := (settle w).cnt, mem := (settle w).mem } := by
  simp only [State.wf, Bool.and_eq_true] at hs
  obtain ⟨⟨⟨⟨⟨⟨-, hstg⟩, -⟩, hpb⟩, hmb⟩, -⟩, hnv⟩ := hs
  unfold settle
  rw [hstaged, hpub, hmbox, hnvm, cellCanon_of_wf hstg, cellCanon_of_wf hpb, cellCanon_of_wf hmb, cellCanon_of_wf hnv]

/-- Settles O38: from a canonical state the row ends in `jobDone` of its job (`exec_jobRowOf_runs`); `start_only`, `jobDone_only` and `settle_keeps` say what
that changes, and `cnt_signal` what the signal does to the counters. -/
theorem engineCommandSignalsOnce : Obligations.EngineCommandSignalsOnce := by
  unfold Obligations.EngineCommandSignalsOnce
  intro i e be p mk s r x hs hrow hp hruns hwait honly hdig hstep hx
  have hexec := exec_jobRowOf_runs hrow hp hruns
  generalize mk s r = j at hexec hwait honly ⊢
  obtain ⟨hlive, hrest⟩ := forall_and.1 honly
  obtain ⟨hafter, hrep⟩ := forall_and.1 hrest
  have hstart := start_only hlive e r s
  have hends : jobEnds s e r j = jobDone (newRun s e r) j (j.start (startRun e r s)) := by unfold jobEnds; rw [hwait]; rfl
  rw [hends] at hexec
  generalize j.start (startRun e r s) = v at hexec hstart ⊢
  have hdigv : v.cap.digest = false := by rw [hstart]; exact hdig
  have hstepv : stepAt v (newRun s e r).cmd.step = some x := by rw [hstart]; exact hstep
  have hcnt : v.cnt = s.cnt := by rw [hstart]
  have hdone := jobDone_only hafter hrep hdigv hstepv hx
  have hcells (n : Nat) := cnt_jobDone hafter hrep hdigv hstepv hx (by rw [hcnt]; exact wf_cnt hs) n
  have hbytes (a : Addr) := rd8_jobDone hafter hrep hdigv hstepv hx a
  generalize jobDone (newRun s e r) j v = w at hexec hdone hcells hbytes
  have hend : settle w = { w with live := (settle w).live, cnt := (settle w).cnt, mem := (settle w).mem } :=
    settle_keeps hs (by rw [hdone, hstart]) (by rw [hdone, hstart]) (by rw [hdone, hstart]) (by rw [hdone, hstart])
  refine ⟨settle w, hexec, fun n => ?_, fun a => ?_, ?_, ?_, ?_, ?_, ?_⟩
  · rw [settle_cnt, hcells]; unfold cnt; rw [hcnt]; rfl
  · rw [settle_rd8, hbytes]
  · rw [settle_running, hdone, hstart]; rfl
  · rw [settle_ringq, hdone, hstart]; rfl
  · rw [settle_steps, hdone, hstart]; rfl
  · rw [settle_poison, hdone]
  · rw [hend, hdone, hstart]

end Sys2Proof.Machine
end

section
/-! What a row that is a packet ejected at this die does with it (R187, R189). -/

namespace Sys2Proof.Machine

variable {s : State} {rsp : Bool} {p : Packet} {form : Bool} {k : State → State} {i : Instr}

/-- A row whose form is asked as a proposition ends as one whose form is asked as a Boolean. -/
theorem finish_ite {c : Prop} [Decidable c] {b : Bool} (h : c ↔ b = true) (u s : State) :
    finish (if c then u else s) = .next (settle (if b = true then u else s)) := by
  unfold finish; simp only [h]

/-- A CTRL row ejects a packet of its own operation, acknowledged and captured before it is acted on, and does nothing with another (R196, R301). -/
theorem ctrlRow_eq (op : Nat) (k : State → State) (p : Packet) (s : State) :
    ctrlRow op k p s = if (pTyp p == 4 && ctrlOp p == op) = true then eject false p (fun s => k (capCtrl p (ackAccept p s))) s else s := by
  unfold ctrlRow bne
  rw [← Bool.not_and]
  cases pTyp p == 4 && ctrlOp p == op <;> rfl

/-- Every row of `pktRowOf` ejects a packet of its form, and does nothing with another. -/
theorem exec_pktRowOf (h : pktRowOf i = some (rsp, p, form, k)) : exec i s = .next (settle (if form = true then eject rsp p k s else s)) := by
  unfold pktRowOf at h
  split at h <;> cases h
  -- the rows of CTRL packets
  case h_15 | h_16 | h_17 | h_18 | h_19 | h_20 => exact congrArg finish (ctrlRow_eq _ _ p s)
  -- every other row
  all_goals exact finish_ite (by simp) _ s

/-- A packet of a row, ejected at a die that takes packets and is not fenced: it waits at its input, or in order behind one that waits for room, or comes
to the head of its queue (R36, R189, R251). -/
theorem exec_pktRowOf_ejects (h : pktRowOf i = some (rsp, p, true, k)) (htakes : takesPackets s = true) (hopen : fenced s = false) :
    exec i s = .next (settle (if noCredit rsp s then { copied p s with inQ := s.inQ ++ [p] } else
      if waits rsp s then { ejected rsp p s with ejectQ := s.ejectQ ++ [p] } else atHead rsp p k (ejected rsp p s))) := by
  rw [exec_pktRowOf h, if_pos rfl, eject_eq htakes hopen]

/-- Settles O39: a row of `pktRowOf` ejects its packet (`exec_pktRowOf_ejects`), which meets the questions of `atHead_eq` at the head of its queue. That
the copies of a multicast leave before the fence discard and the checks is the model's choice (log entry 39). -/
theorem packetsDelivered : Obligations.PacketsDelivered := by
  unfold Obligations.PacketsDelivered
  intro i rsp p form k s hrow
  refine ⟨fun hform => ?_, fun hform htakes hopen => ?_⟩
  · rw [exec_pktRowOf hrow, hform]; rfl
  subst hform
  have hexec := exec_pktRowOf_ejects hrow htakes hopen
  rw [atHead_eq] at hexec
  refine ⟨fun hcredit => ?_, fun hcredit hwaits => ?_, fun hcredit hwaits hsrc => ?_, fun hcredit hwaits hsrc hchecks hstrange => ?_,
    fun hcredit hwaits hsrc hchecks hstrange => ?_⟩
  · -- it waits at its input
    simpa only [hcredit, if_true] using hexec
  · -- it waits in order
    simpa only [hcredit, hwaits, if_true, Bool.false_eq_true, if_false] using hexec
  · -- from a fenced die
    simpa only [hcredit, hwaits, hsrc, if_true, Bool.false_eq_true, if_false] using hexec
  · -- from a die that is no member
    simpa only [hcredit, hwaits, hsrc, hchecks, hstrange, if_true, Bool.false_eq_true, if_false] using hexec
  · -- delivered
    simpa only [hcredit, hwaits, hsrc, hchecks, hstrange, Bool.false_eq_true, if_false] using hexec

end Sys2Proof.Machine
end

section
/-! Rows of the register window that each name one register (R71, R297, R328, R332, R350, R363, R368, R414). -/

namespace Sys2Proof.Machine

variable {s : State} {o size v : Nat} {r : RegRow}

/-! ### Writes of the control port -/

/-- A control port that is down takes no write (R400). -/
theorem portWrite_down (h : ctlUp s = false) : portWrite o size v s = s := by unfold portWrite; rw [h]; rfl

/-- A register with no field that keeps a written value takes of a write only what the write starts. -/
theorem writeReg_wo (hrow : regRow o = some r) (hrw : r.rw = 0) (hrws : r.rws = 0) (mask v : Nat) (s : State) :
    writeReg o mask v s = writeFx o mask v s := by
  have hfields : writeRw o mask v s = s := by
    unfold writeRw; rw [hrow]; dsimp only
    exact if_pos (by rw [hrw]; exact Nat.zero_and mask)
  unfold writeReg; rw [hrow]; dsimp only
  rw [hfields, if_pos (by rw [hrws]; exact Nat.zero_and mask)]

/-- A 32-bit write that the control port takes of a register with no field that keeps a written value is what the write starts. -/
theorem portWrite_wo (d : W32) (hport : portTakes s o) (halign : o % 4 = 0) (hlow : o < 0x8000) (hrow : regRow o = some r) (hrw : r.rw = 0)
    (hrws : r.rws = 0) : portWrite o 4 d.toNat s = writeFx o 0xFFFFFFFF d.toNat s := by
  have htarget : target o = (o, none) := target_low halign hlow
  have hmapped : mapped o = true := by unfold mapped; rw [htarget, hrow]; rfl
  rw [portWrite_word d hport (aligned_word halign) hmapped htarget, writeReg_wo hrow hrw hrws]

/-- REGISTER_WRITE of a word writes that word at the control port (R421). -/
theorem exec_registerWrite_word (o : Nat) (d : W32) (s : State) :
    exec (.registerWrite o 4 (d.setWidth 64)) s = finish (portWrite o 4 d.toNat s) :=
  congrArg (fun n => finish (portWrite o 4 n s)) (BitVec.toNat_setWidth_of_le (by decide))

/-! ### The mailbox registers (R297) -/

theorem regRow_mbDoorbell : regRow Reg.KEEP_MB_DOORBELL = some ⟨0x1200, 0, 0, 0, 0, 0x1, 0, .step⟩ := by decide +kernel

theorem regRow_mbPop : regRow Reg.KEEP_MB_POP = some ⟨0x1208, 0, 0, 0, 0, 0x1, 0, .step⟩ := by decide +kernel

/-- A full mask keeps a whole word of write data. -/
theorem ofNat_land_word (d : W32) : BitVec.ofNat 32 (Nat.land d.toNat 0xFFFFFFFF) = d := by
  rw [land_word d.isLt, BitVec.ofNat_toNat, BitVec.setWidth_eq]

theorem writeFx_pop (d : W32) (s : State) : writeFx Reg.KEEP_MB_POP 0xFFFFFFFF d.toNat s = pop d s :=
  congrArg (fun w => pop w s) (ofNat_land_word d)

theorem writeFx_doorbell (d : W32) (s : State) : writeFx Reg.KEEP_MB_DOORBELL 0xFFFFFFFF d.toNat s = doorbell d s :=
  congrArg (fun w => doorbell w s) (ofNat_land_word d)

/-- Outside DARK the control port, once up, takes every write (R407). -/
theorem portTakes_awake (hup : ctlUp s = true) (hawake : pwrState s ≠ 2) (o : Nat) : portTakes s o := ⟨hup, fun hdark => absurd hdark hawake⟩

theorem pop_eq_portWrite (hawake : pwrState s ≠ 2) (d : W32) : pop d s = portWrite Reg.KEEP_MB_POP 4 d.toNat s := by
  cases hup : ctlUp s with
  | false => rw [portWrite_down hup]; unfold pop; rw [hup]; rfl
  | true =>
    rw [portWrite_wo d (portTakes_awake hup hawake _) (by decide) (by decide) regRow_mbPop rfl rfl, writeFx_pop]

theorem doorbell_eq_portWrite (hawake : pwrState s ≠ 2) (d : W32) : doorbell d s = portWrite Reg.KEEP_MB_DOORBELL 4 d.toNat s := by
  cases hup : ctlUp s with
  | false => rw [portWrite_down hup]; unfold doorbell; rw [hup]; rfl
  | true =>
    rw [portWrite_wo d (portTakes_awake hup hawake _) (by decide) (by decide) regRow_mbDoorbell rfl rfl, writeFx_doorbell]

/-- Settles O12: seven rows and LOG_WORD0_READ are accesses of the control port by definition, and `exec_registerWrite_word` says that the 64-bit datum
keeps the word; MB_POP and MB_DOORBELL are what a write of their register starts (`pop_eq_portWrite`, `doorbell_eq_portWrite`). -/
theorem namedAccessesAreRegisterAccesses : Obligations.NamedAccessesAreRegisterAccesses := by
  unfold Obligations.NamedAccessesAreRegisterAccesses
  intro s d
  have word (o : Nat) : finish (portWrite o 4 d.toNat s) = exec (.registerWrite o 4 (d.setWidth 64)) s := (exec_registerWrite_word o d s).symm
  exact ⟨word _, word _, word _, word _, word _, word _, word _,
    fun hawake => (congrArg finish (pop_eq_portWrite hawake d)).trans (word _),
    fun hawake => (congrArg finish (doorbell_eq_portWrite hawake d)).trans (word _), rfl, rfl⟩

/-! ### The clears of the two counts (R71) -/

theorem regRow_cntClr : regRow Reg.COMB_CNT_CLR = some ⟨0x5C04, 0, 0, 0, 0, 0x3, 0, .step⟩ := by decide +kernel

/-- Bit 0 of COMB_CNT_CLR clears the clamp count, bit 1 the saturation count. -/
theorem writeFx_cntClr (d : W32) (s : State) :
    writeFx Reg.COMB_CNT_CLR 0xFFFFFFFF d.toNat s =
      let u := if d.getLsbD 0 then setReg Reg.COMB_CLAMP_CNT_HI 0 (setReg Reg.COMB_CLAMP_CNT_LO 0 s) else s
      if d.getLsbD 1 then setReg Reg.COMB_SAT_CNT 0 u else u := by
  unfold writeFx; rw [land_word d.isLt]; rfl

/-- Settles O13: both rows write COMB_CNT_CLR, whose two bits keep nothing (`portWrite_wo`) and clear what `writeFx_cntClr` says. -/
theorem countsClear : Obligations.CountsClear := by
  unfold Obligations.CountsClear
  intro s d c hport hc
  have hclears := portWrite_wo d hport (by decide) (by decide) regRow_cntClr rfl rfl
  rw [writeFx_cntClr] at hclears
  obtain rfl | rfl := hc
  · exact congrArg finish hclears
  · exact congrArg finish hclears

end Sys2Proof.Machine
end

section
/-! Ingress: what a beat does that its cluster's line lets through, and what a tile's timeout does (R61 to R65, R439). -/

namespace Sys2Proof.Machine

variable {s u : State} {c : Nat} {flg : Byte} {data : List Byte} {i : Ingress}

/-! ### A beat on its line (R62, R70) -/

theorem exec_ingressBeat_low (h : ingReady s c = false) : exec (.ingressBeat c flg data) s = .next (settle s) :=
  congrArg finish (if_neg (by rw [h]; decide))

theorem exec_ingressBeat_ready (h : ingReady s c = true) : exec (.ingressBeat c flg data) s = .next (settle (onBeat c flg data s)) :=
  congrArg finish (if_pos h)

theorem ingReady_of_enabled (hkeeper : keeperUp s = true) (hc : c < 4) (henable : ingEnable s c = true) : ingReady s c = true := by
  unfold ingReady; rw [hkeeper, henable, decide_eq_true hc]; rfl

/-! ### Where a beat goes (R63, R65, R439) -/

/-- A beat that no tile expects is dropped and counted. -/
theorem onBeat_unexpected (h : s.ing.find? (fun i => decide (ingGot i.rows c < ingCount i.bound c)) = none) :
    onBeat c flg data s = raiseBit Reg.SCORE_ING_STAT 0 (bump Reg.SCORE_ING_DROP 1 s) := by
  unfold onBeat; rw [h]

section
variable (htile : s.ing.find? (fun i => decide (ingGot i.rows c < ingCount i.bound c)) = some i)
include htile

/-- A beat of a tile that is being dropped is counted and dropped. -/
theorem onBeat_dropping (hdrop : i.dropping = true) : onBeat c flg data s = setIngress (countBeat i c) (bump Reg.SCORE_ING_DROP 1 s) := by
  unfold onBeat; rw [htile]; exact if_pos hdrop

variable (hdrop : i.dropping = false)
  (hu : keeperWrite (wrBytes (beatAddr i.bound (ingFirst i.bound c + ingGot i.rows c) (ingGot i.beat c)) ((data ++ List.replicate 64 0).take 64)) s = u)
include hdrop hu

/-- A beat of a tile that is kept writes its bytes; the first of a row writes the flag byte too, and ends the step where that write is aborted. -/
theorem onBeat_kept :
    onBeat c flg data s =
      let f := if ingGot i.beat c = 0 then flagWrite i (ingFirst i.bound c + ingGot i.rows c) flg u else (false, u)
      if f.1 then ingEnd .flagPoison i.step (setIngress { countBeat i c with dropping := true } f.2) else ingHalves (countBeat i c) f.2 := by
  unfold onBeat; rw [htile]; dsimp only
  rw [if_neg (by rw [hdrop]; decide), hu]

theorem onBeat_later (hn : ingGot i.beat c ≠ 0) : onBeat c flg data s = ingHalves (countBeat i c) u := by
  rw [onBeat_kept htile hdrop hu, if_neg hn]; rfl

theorem onBeat_first (hn : ingGot i.beat c = 0) (hflag : (flagWrite i (ingFirst i.bound c + ingGot i.rows c) flg u).1 = false) :
    onBeat c flg data s = ingHalves (countBeat i c) (flagWrite i (ingFirst i.bound c + ingGot i.rows c) flg u).2 := by
  rw [onBeat_kept htile hdrop hu, if_pos hn]; exact if_neg (by rw [hflag]; decide)

theorem onBeat_flagPoison (hn : ingGot i.beat c = 0) (hflag : (flagWrite i (ingFirst i.bound c + ingGot i.rows c) flg u).1 = true) :
    onBeat c flg data s = ingEnd .flagPoison i.step
      (setIngress { countBeat i c with dropping := true } (flagWrite i (ingFirst i.bound c + ingGot i.rows c) flg u).2) := by
  rw [onBeat_kept htile hdrop hu, if_pos hn]; exact if_pos hflag

end

/-! ### The timeout of a tile (R65) -/

theorem exec_ingTimeout_down (h : keeperUp s = false) : exec .ingTimeout s = .next (settle s) := congrArg finish (if_neg (by rw [h]; decide))

theorem exec_ingTimeout_up (h : keeperUp s = true) : exec .ingTimeout s = .next (settle (ingTimeout s)) := congrArg finish (if_pos h)

/-- Settles O45: the line decides whether the beat is taken (`exec_ingressBeat_low`, `exec_ingressBeat_ready`), the oldest tile that expects a row of the
cluster where it goes (the `onBeat` lemmas). A low line's kept beat (log entry 59), counting for a dropped tile (log entries 49 and 113) and its unread flag
byte (log entry 50) are the model's choices. -/
theorem ingressBeatsLand : Obligations.IngressBeatsLand := by
  unfold Obligations.IngressBeatsLand
  intro s c flg data i tile n t ws u
  have taken {v : State} (htile : tile) (h : onBeat c flg data s = v) : exec (.ingressBeat c flg data) s = .next (settle v) := by
    rw [exec_ingressBeat_ready htile.1, h]
  refine ⟨exec_ingressBeat_low, ingReady_of_enabled, exec_ingTimeout_down, fun hline hnone => ?_, fun htile hdrop => ?_, fun htile hdrop hn => ?_,
    fun htile hdrop hn hflag => ?_, fun htile hdrop hn hflag => ?_, fun hkeeper hlate => ?_⟩
  · -- no tile expects it
    rw [exec_ingressBeat_ready hline, onBeat_unexpected hnone]
  · -- its tile is being dropped
    exact taken htile (onBeat_dropping htile.2 hdrop)
  · -- a later beat of a row
    exact taken htile (onBeat_later htile.2 hdrop rfl hn)
  · -- the first beat of a row
    exact taken htile (onBeat_first htile.2 hdrop rfl hn hflag)
  · -- the flag byte meets a poisoned word
    exact taken htile (onBeat_flagPoison htile.2 hdrop rfl hn hflag)
  · -- the tile is late
    rw [exec_ingTimeout_up hkeeper]; unfold ingTimeout; rw [hlate]

end Sys2Proof.Machine
end

section
/-! How the Keeper enqueues a step and goes on with its records (R65, R288, R290, R310, R383, R425). -/

namespace Sys2Proof.Machine

variable {s v y : State} {sp : BitVec 2} {x : Step} {k : State → State}

/-! ### Reads of the Keeper's own region (R310) -/

theorem ownRead_clean (h : ownPoison s = none) : ownRead k s = k s := by unfold ownRead; rw [h]

/-- A poisoned word there is met or not, as a free value says (log entry 96). -/
theorem ownRead_poisoned {a : Addr} (h : ownPoison s = some a) :
    ownRead k s = if bit (fresh s).toNat 0 then loseSlice 0x85 22 0 a (ueDetect a 0 noStep (tick s)) else k (tick s) := by
  unfold ownRead; rw [h]

/-! ### The step that STEP_ENQUEUE takes (R290) -/

section
variable (hold : oldestAccepted s = some x)
include hold

theorem stepEnqueue_waits (hmay : mayEnqueue s x = false) : stepEnqueue sp s = s := by
  unfold stepEnqueue; rw [hold]; exact if_neg (by rw [hmay]; exact Bool.false_ne_true)

variable (hmay : mayEnqueue s x = true) (hfree : flag s Reg.REL_STAT 8 = false)
include hmay hfree

theorem stepEnqueue_due :
    stepEnqueue sp s = if x.opcode = 0x80 then ownRead (enqueue sp x) s else enqueue sp x s := by
  unfold stepEnqueue; rw [hold]; exact if_pos (by rw [hmay, hfree]; rfl)

/-- A step whose list image, where it has one, holds no poisoned word is enqueued. -/
theorem stepEnqueue_clean (hclean : x.opcode = 0x80 → ownPoison s = none) : stepEnqueue sp s = enqueue sp x s := by
  rw [stepEnqueue_due hold hmay hfree]
  split
  · next hlist => exact ownRead_clean (hclean hlist)
  · rfl

end

/-! ### The outcomes of an enqueue (R65, R383, R425) -/

theorem enqueue_roomsFail (hfirst : prepareStep x (zeroCounters x (capStart s)) = (false, v)) : enqueue sp x s = roomsFail x s := by
  unfold enqueue; rw [hfirst]

section
variable (hfirst : prepareStep x (zeroCounters x (capStart s)) = (true, v))
include hfirst

theorem enqueue_mismatch (hmis : cfgMismatch v = true) : enqueue sp x s = cfgHold { s with spareHeld := sp } := by
  unfold enqueue; rw [hfirst]; exact if_pos hmis

variable (hmatch : cfgMismatch v = false) (hopen : fenced (stepBoundary sp v).2 = false)
include hmatch hopen

/-- Past its boundary, on a slice that is not fenced, a step's list is built with the live registers bound to it; it then starts, or is killed for refused
ingress values. -/
theorem enqueue_passes :
    enqueue sp x s =
      match buildStep x.seq (modStep x.seq (fun z => { z with bound := (stepBoundary sp v).2.live }) (stepBoundary sp v).2) with
      | (false, _) => roomsFail x s
      | (true, y) =>
        if (stepBoundary sp v).1 then
          raiseKill .badIngress (some x.seq)
            (modStep x.seq (fun z => { z with phase := .enqueued, kgen := BitVec.ofNat 4 (kgen y), epoch := curEpoch y, held := [] }) y)
        else startStep x.seq (match stepAt y x.seq with | some z => startTile z y | none => y) := by
  unfold enqueue; rw [hfirst]; dsimp only
  exact (if_neg (by rw [hmatch]; decide)).trans (if_neg (by rw [hopen]; decide))

theorem enqueue_unbuilt
    (hbuild : buildStep x.seq (modStep x.seq (fun z => { z with bound := (stepBoundary sp v).2.live }) (stepBoundary sp v).2) = (false, y)) :
    enqueue sp x s = roomsFail x s := by
  rw [enqueue_passes hfirst hmatch hopen, hbuild]

variable (hbuild : buildStep x.seq (modStep x.seq (fun z => { z with bound := (stepBoundary sp v).2.live }) (stepBoundary sp v).2) = (true, y))
include hbuild

theorem enqueue_starts (hok : (stepBoundary sp v).1 = false) :
    enqueue sp x s = startStep x.seq (match stepAt y x.seq with | some z => startTile z y | none => y) := by
  rw [enqueue_passes hfirst hmatch hopen, hbuild]; exact if_neg (by rw [hok]; decide)

theorem enqueue_badIngress (hbad : (stepBoundary sp v).1 = true) :
    enqueue sp x s = raiseKill .badIngress (some x.seq)
      (modStep x.seq (fun z => { z with phase := .enqueued, kgen := BitVec.ofNat 4 (kgen y), epoch := curEpoch y, held := [] }) y) := by
  rw [enqueue_passes hfirst hmatch hopen, hbuild]; exact if_pos hbad

end

/-! ### Records that go on (R288) -/

section
variable (hkeeper : keeperUp s = true)
  (hplan : s.steps.find? (fun z => z.live && ((planReady s z).isSome || (z.opcode != 0x20 && (pdNext s z).isSome))) = some x)
include hkeeper hplan

theorem pdResolve_half {h : Bool} (hready : planReady s x = some h) :
    pdResolve s = ownRead (fun t => pdRun x h (keeperRead [(({ x := x, h := 0, half := h } : KCtx).outList, 64)] t)) s := by
  unfold pdResolve
  rw [if_neg (by rw [hkeeper]; decide), hplan]; dsimp only
  rw [hready]

theorem pdResolve_target {r : RingRec} (hready : planReady s x = none) (hnext : pdNext s x = some r) :
    pdResolve s = ownRead (fun t => pdSubmit x r (keeperRead [(rPdBase r.raw, 64)] t)) s := by
  unfold pdResolve
  rw [if_neg (by rw [hkeeper]; decide), hplan]; dsimp only
  rw [hready, hnext]

end

/-- Settles O30: STEP_ENQUEUE enqueues the oldest accepted step that may be (`stepEnqueue_clean`), and each clause is one outcome of `enqueue`; the two
other rows read the Keeper's own region (`ownRead`), where meeting a poisoned word is the model's free value (log entry 96). -/
theorem stepsAreEnqueued : Obligations.StepsAreEnqueued := by
  unfold Obligations.StepsAreEnqueued
  intro s sp x due clean first
  have runs {w : State} (h : stepEnqueue sp s = w) : exec (.stepEnqueue sp) s = .next (settle w) := congrArg finish h
  have enqueues {w : State} (hdue : due) (hclean : clean) (h : enqueue sp x s = w) : exec (.stepEnqueue sp) s = .next (settle w) :=
    let ⟨hold, hmay, hfree⟩ := hdue
    runs ((stepEnqueue_clean hold hmay hfree hclean).trans h)
  refine ⟨fun v y hdue hclean hfirst hmatch hopen hbuild => ⟨fun hok => ?_, fun hbad => ?_⟩, fun v hdue hclean hfirst hmis => ?_,
    fun v hdue hclean hfirst => ?_, fun v y hdue hclean hfirst hmatch hopen hbuild => ?_, fun hdue hlist => ?_, fun hold hmay => ?_,
    fun hkeeper => ?_, fun hkeeper hplan => ⟨fun h hready => ?_, fun r hready hnext => ?_⟩, fun k => ⟨ownRead_clean, fun a => ownRead_poisoned⟩⟩
  · -- it starts
    exact enqueues hdue hclean (enqueue_starts hfirst hmatch hopen hbuild hok)
  · -- refused ingress values
    exact enqueues hdue hclean (enqueue_badIngress hfirst hmatch hopen hbuild hbad)
  · -- the boundary is held
    exact enqueues hdue hclean (enqueue_mismatch hfirst hmis)
  · -- no rooms for what it keeps
    exact enqueues hdue hclean (enqueue_roomsFail hfirst)
  · -- no rooms for its list
    exact enqueues hdue hclean (enqueue_unbuilt hfirst hmatch hopen hbuild)
  · -- a submitted list's image is read
    obtain ⟨hold, hmay, hfree⟩ := hdue
    exact runs ((stepEnqueue_due hold hmay hfree).trans (if_pos hlist))
  · -- something holds it
    exact runs (stepEnqueue_waits hold hmay)
  · -- RING_PLACE_RESUME
    exact congrArg finish (if_pos hkeeper)
  · -- a half's plan
    exact congrArg finish (pdResolve_half hkeeper hplan hready)
  · -- a target of a submitted list
    exact congrArg finish (pdResolve_target hkeeper hplan hready hnext)

end Sys2Proof.Machine
end

section
/-! How the engine rows run that wait for lines, room, bundles or barriers, and what a failed tile or lane check does to them (R98, R99, R157, R164). -/

namespace Sys2Proof.Machine

variable {s u w : State} {e t : Nat} {be c : Bool} {r : RingRec} {p : Record → Bool} {mk : State → RingRec → Job} {i : Instr} {run : State → State} {n : Nat}

/-! ### Rows whose further conditions hold -/

/-- Without capture nothing is reserved, and there is always room (R369). -/
theorem reserving_off (hoff : capMode s ≠ 1) : reserving n s = s := if_neg hoff

theorem staged16_off (hoff : capMode s ≠ 1) : staged16 n s = true := by simp [staged16, hoff]

theorem staged16_fits (hfit : 16 * n ≤ capFree s) : staged16 n s = true := by simp [staged16, hfit]

/-- A row of `jobRowIf` under its further conditions leaves what its job does, where nothing stops it in the state it starts in. -/
theorem exec_jobRowIf_runs (hrow : jobRowIf i s r = some (e, be, p, mk, w, c)) (hw : w = u) (hc : c = true) (hp : p r.raw = true)
    (hs : startable s e be = some r) (hruns : jobRuns u e be r (mk u r)) : exec i s = .next (settle (jobEnds u e r (mk u r))) := by
  subst hw
  obtain ⟨t, hexec, hstart⟩ := exec_jobRowIf hrow
  rw [hexec, hstart.starts hc hs hruns.1 hp, runJob_runs hp hruns]

/-- Settles O35: each row is one of `jobRowIf`, whose further conditions the clause's hypotheses give (`exec_jobRowIf_runs`); a row that reserves room starts in
the state `reserving` leaves, which outside capture is the state itself. -/
theorem engineRowsWithConditionsRun : Obligations.EngineRowsWithConditionsRun := by
  unfold Obligations.EngineRowsWithConditionsRun
  intro s be r held
  have lines {t : State} {q : Bool × Nat × Nat × List Nat} (h : llMissing t q.1 q.2.1 q.2.2.1 q.2.2.2 = []) :
      (llMissing t q.1 q.2.1 q.2.2.1 q.2.2.2).isEmpty = true := List.isEmpty_iff.mpr h
  have every {a b c : Bool} (ha : a = true) (hb : b = true) (hc : c = true) : (a && b && c) = true := by rw [ha, hb, hc]; rfl
  refine ⟨fun hp hruns => ?_, fun hp hruns => ?_, fun hp hheld hruns => ?_, fun hp hready hruns => ?_, fun hp hheld hruns => ?_,
    fun hp hoff hruns => ?_, fun u hp hs hon hfit hu hruns => ?_, fun hp hoff hheld hruns => ?_, fun u hp hs hheld hon hfit hu hlines hruns => ?_,
    fun hp hheld hruns => ?_, fun x hp hstep hbar hruns => ?_, fun x hp hstep hbar hheld hruns => ?_⟩
  · -- SCORE
    exact exec_jobRowIf_runs (i := .score be none) rfl rfl rfl (beq_iff_eq.mpr hp) hruns.1 hruns
  · -- SCORE_COUNT
    exact exec_jobRowIf_runs (i := .scoreCount be none) rfl rfl rfl hp hruns.1 hruns
  · -- SORT, source mode
    exact exec_jobRowIf_runs (i := .sort be none) rfl rfl (lines hheld) hp hruns.1 hruns
  · -- SORT, gateway mode
    exact exec_jobRowIf_runs (i := .sortGateway be none) rfl rfl hready hp hruns.1 hruns
  · -- PLAN
    exact exec_jobRowIf_runs (i := .plan be) rfl rfl (lines hheld) (beq_iff_eq.mpr hp) hruns.1 hruns
  · -- SEND outside capture
    exact exec_jobRowIf_runs (i := .send be) rfl (reserving_off hoff) (staged16_off hoff) hp hruns.1 hruns
  · -- SEND with room reserved
    exact exec_jobRowIf_runs (i := .send be) rfl ((if_pos hon).trans hu.symm) (staged16_fits hfit) hp hs hruns
  · -- FETCH as requester outside capture
    have hres : reserving (fetchRoom s r) s = s := reserving_off hoff
    refine exec_jobRowIf_runs (i := .fetchRequester be) rfl hres (every (lines hheld) ?_ (staged16_off hoff)) hp hruns.1 hruns
    rw [hres]; exact lines hheld
  · -- FETCH as requester with room reserved
    have hres : reserving (fetchRoom s r) s = u := (if_pos hon).trans hu.symm
    refine exec_jobRowIf_runs (i := .fetchRequester be) rfl hres (every (lines hheld) ?_ (staged16_fits hfit)) hp hs hruns
    rw [hres]; exact lines hlines
  · -- FETCH as server
    exact exec_jobRowIf_runs (i := .fetchServer be) rfl rfl (lines hheld) hp hruns.1 hruns
  · -- REDUCE_STATS by the beacon
    refine exec_jobRowIf_runs (i := .reduceStatsBeacon be) rfl rfl ?_ hp hruns.1 hruns
    rw [hstep]; exact hbar
  · -- DISPATCH
    refine exec_jobRowIf_runs (i := .dispatch be) rfl rfl (Bool.and_eq_true_iff.mpr ⟨?_, lines hheld⟩) hp hruns.1 hruns
    rw [hstep]; exact hbar

/-! ### A check of a unit observed to fail (R98, R99, R164) -/

/-- A failed check of a tile or lane group, as its engine's commands meet it: whether the unit is none or noted before, whether it is active, the unit
and the spare, and the states that a kill and the loss of the spare leave. -/
structure UnitCheck where
  eng : Nat
  known : Bool
  active : Bool
  unit : Nat
  spare : Nat
  killed : RingRec → State
  spared : State

/-- A failed check of tile t. -/
def tileCheck (t : Nat) (s : State) : UnitCheck where
  eng := 0
  known := 9 ≤ t || flag s Reg.SCORE_TILE_FAIL t
  active := flag s Reg.SCORE_TILE_MAP t
  unit := t
  spare := fld s Reg.SCORE_TILE_MAP 12 9
  killed r := raiseKill .unitFailure (some r.step) (tileFailed t (scoreStart s r (startRun 0 r s)))
  spared := setFld Reg.SCORE_TILE_MAP 12 9 0xF (tileFailed t s)

/-- A failed check of lane group t. -/
def laneCheck (t : Nat) (s : State) : UnitCheck where
  eng := 3
  known := 5 ≤ t || flag s Reg.SORT_LANE_FAIL t
  active := flag s Reg.SORT_LANE_MAP t
  unit := t
  spare := fld s Reg.SORT_LANE_MAP 7 5
  killed r := raiseKill .unitFailure (some r.step) (laneFailed t (startRun 3 r s))
  spared := setFld Reg.SORT_LANE_MAP 7 5 7 (laneFailed t s)

/-- Running a record of `p` under a failed check. -/
def UnitCheck.under (k : UnitCheck) (be : Bool) (p : Record → Bool) (run : State → State) (s : State) : State :=
  if k.known then run s
  else match startable s k.eng be with
    | none => s
    | some r => if !p r.raw then s else if k.active then k.killed r else if k.spare = k.unit then run k.spared else run s

theorem withTile_eq : withTile be (some t) p run s = (tileCheck t s).under be p run s := rfl

theorem withLane_eq : withLane be (some t) p run s = (laneCheck t s).under be p run s := rfl

theorem tileCheck_known (h : 9 ≤ t ∨ flag s Reg.SCORE_TILE_FAIL t = true) : (tileCheck t s).known = true := by simpa [tileCheck] using h

theorem tileCheck_new (ht : t < 9) (hf : flag s Reg.SCORE_TILE_FAIL t = false) : (tileCheck t s).known = false := by simp [tileCheck, ht, hf]

theorem laneCheck_known (h : 5 ≤ t ∨ flag s Reg.SORT_LANE_FAIL t = true) : (laneCheck t s).known = true := by simpa [laneCheck] using h

theorem laneCheck_new (ht : t < 5) (hf : flag s Reg.SORT_LANE_FAIL t = false) : (laneCheck t s).known = false := by simp [laneCheck, ht, hf]

namespace UnitCheck

variable {k : UnitCheck}

/-- A unit that is none, or noted before, changes nothing. -/
theorem under_known (h : k.known = true) : k.under be p run s = run s := if_pos h

variable (hnew : k.known = false) (hs : startable s k.eng be = some r) (hp : p r.raw = true)
include hnew hs hp

/-- A unit not noted before decides how the record runs. -/
theorem under_new : k.under be p run s = if k.active then k.killed r else if k.spare = k.unit then run k.spared else run s := by
  unfold under; rw [if_neg (by rw [hnew]; decide), hs]; exact if_neg (by rw [hp]; decide)

/-- An active unit's failure kills the step. -/
theorem under_active (ha : k.active = true) : k.under be p run s = k.killed r := by
  rw [under_new hnew hs hp, if_pos ha]

variable (ha : k.active = false)
include ha

/-- The spare's failure gives it up, and the record runs. -/
theorem under_spare (hspare : k.spare = k.unit) : k.under be p run s = run k.spared := by
  rw [under_new hnew hs hp, if_neg (by rw [ha]; decide), if_pos hspare]

/-- The failure of a unit neither active nor the spare changes nothing. -/
theorem under_idle (hspare : k.spare ≠ k.unit) : k.under be p run s = run s := by
  rw [under_new hnew hs hp, if_neg (by rw [ha]; decide), if_neg hspare]

end UnitCheck

/-- A SCORE record. -/
def isScore (r : Record) : Bool := rOp r == 0x01

theorem isScore_of (h : rOp r.raw = 0x01) : isScore r.raw = true := beq_iff_eq.mpr h

/-- SCORE runs its records under their tile check (R99). -/
theorem exec_score (be : Bool) (fail : Option Nat) (s : State) :
    exec (.score be fail) s = .next (settle (withTile be fail isScore (runJob 0 be isScore scoreJob) s)) := rfl

/-- Once its bundles are in, a gateway SORT meets its lane check as any other (R179). -/
theorem exec_sortGateway_ready (h : gwReady s be = true) (fail : Option Nat) :
    exec (.sortGateway be fail) s = .next (settle (withLane be fail isSortGw (runJob 3 be isSortGw sortGwJob) s)) := congrArg finish (if_pos h)

open UnitCheck

/-- Settles O44: the rows run under `withTile` or `withLane`, whose outcomes are those of `UnitCheck.under`; a record that misses lines asks for them
(`runLines_missing`). That the spare's failure leaves TILE_FAULT and LANE_FAULT is the model's choice (log entry 94). -/
theorem failuresAndMissingLines : Obligations.FailuresAndMissingLines := by
  unfold Obligations.FailuresAndMissingLines
  intro s be t r tileBad laneBad missing asks
  refine ⟨fun i hbad hs hi => ?_, fun i hbad hs hi => ?_, fun h => ?_, fun h => ?_, fun ht hf ha hs => ?_, fun ht hf ha hs => ?_,
    fun hs hp hmiss => ?_, fun hs hp hmiss => ?_, fun hs hp hmiss => ?_⟩
  · -- an active tile
    obtain ⟨ht, hf, ha⟩ := hbad
    obtain ⟨rfl, hp⟩ | ⟨rfl, hp⟩ := hi
    · rw [exec_score, withTile_eq, under_active (tileCheck_new ht hf) hs (isScore_of hp) ha]; rfl
    · exact congrArg finish (under_active (tileCheck_new ht hf) hs hp ha)
  · -- an active lane group
    obtain ⟨ht, hf, ha⟩ := hbad
    obtain ⟨rfl, hp⟩ | ⟨rfl, hp, hready⟩ := hi
    · exact congrArg finish (under_active (laneCheck_new ht hf) hs hp ha)
    · rw [exec_sortGateway_ready hready, withLane_eq, under_active (laneCheck_new ht hf) hs hp ha]; rfl
  · -- no tile, or one noted before
    have hsame {p : Record → Bool} {run : State → State} : withTile be (some t) p run s = run s := under_known (tileCheck_known h)
    exact ⟨(exec_score be (some t) s).trans (congrArg finish hsame), congrArg finish hsame⟩
  · -- no lane group, or one noted before
    have hsame {p : Record → Bool} {run : State → State} : withLane be (some t) p run s = run s := under_known (laneCheck_known h)
    exact ⟨congrArg finish hsame, congrArg (fun v => finish (if gwReady s be then v else s)) hsame⟩
  · -- a tile that is the spare, or idle
    have hnew := tileCheck_new ht hf
    refine ⟨fun hp => ⟨fun hspare => ?_, fun hidle => ?_⟩,
      fun hp => ⟨fun hspare => congrArg finish (under_spare hnew hs hp ha hspare), fun hidle => congrArg finish (under_idle hnew hs hp ha hidle)⟩⟩
    · rw [exec_score, withTile_eq, under_spare hnew hs (isScore_of hp) ha hspare]; rfl
    · rw [exec_score, withTile_eq, under_idle hnew hs (isScore_of hp) ha hidle]; rfl
  · -- a lane group that is the spare, or idle
    have hnew := laneCheck_new ht hf
    refine ⟨fun hp => ⟨fun hspare => congrArg finish (under_spare hnew hs hp ha hspare), fun hidle => congrArg finish (under_idle hnew hs hp ha hidle)⟩,
      fun hp hready => ⟨fun hspare => ?_, fun hidle => ?_⟩⟩
    · rw [exec_sortGateway_ready hready, withLane_eq, under_spare hnew hs hp ha hspare]; rfl
    · rw [exec_sortGateway_ready hready, exec_sortGateway_ready hready, withLane_eq, under_idle hnew hs hp ha hidle]; rfl
  · -- SORT with lines missing
    exact congrArg finish (runLines_missing hs hp hmiss)
  · -- PLAN with lines missing
    exact congrArg finish (runLines_missing hs (beq_iff_eq.mpr hp) hmiss)
  · -- FETCH as server with lines missing
    exact congrArg finish (runLines_missing hs hp hmiss)

end Sys2Proof.Machine
end

section
/-! The order of SELECT's candidates: selection scores as exact values, the stable sort, and the first occurrence of each expert (R127, R130, R132). -/

namespace Sys2Proof.Machine

variable {α κ : Type} [LinearOrder κ] {le : α → α → Bool} {f : α → κ} {x : α} {l : List α} {a b c : Cand} {cs : List Cand} {seen : List Nat} {v w : Val}

/-! ### Values in the real order -/

/-- A finite value as a rational number. -/
def finRat (neg : Bool) (m : Nat) (e : Int) : ℚ := (if neg then -(m : ℚ) else m) * 2 ^ e

/-- A value in the rational order, infinities at the ends and zeros equal; a NaN has no place there. -/
def Val.extRat : Val → WithBot (WithTop ℚ)
  | .nan => 0
  | .inf neg => if neg then ⊥ else ⊤
  | .fin neg m e => (finRat neg m e : WithTop ℚ)

/-- The integer of a finite value at a lower exponent is that value in units of the exponent's power of two. -/
theorem atExp_mul_zpow (neg : Bool) (m : Nat) {e lo : Int} (h : lo ≤ e) : (atExp neg m e lo : ℚ) * 2 ^ lo = finRat neg m e := by
  have hpow : (2 : ℚ) ^ (e - lo).toNat * 2 ^ lo = 2 ^ e := by
    rw [← zpow_natCast, ← zpow_add₀ two_ne_zero, Int.toNat_of_nonneg (sub_nonneg.mpr h), sub_add_cancel]
  cases neg <;> simp [atExp, finRat, ← hpow, mul_assoc]

theorem ltVal_fin (n₁ n₂ : Bool) (m₁ m₂ : Nat) (e₁ e₂ : Int) : ltVal (.fin n₁ m₁ e₁) (.fin n₂ m₂ e₂) = true ↔ finRat n₁ m₁ e₁ < finRat n₂ m₂ e₂ := by
  have hpos : (0 : ℚ) < 2 ^ min e₁ e₂ := zpow_pos two_pos _
  rw [← atExp_mul_zpow n₁ m₁ (min_le_left e₁ e₂), ← atExp_mul_zpow n₂ m₂ (min_le_right e₁ e₂), mul_lt_mul_iff_left₀ hpos, Int.cast_lt]
  exact decide_eq_true_iff

/-- Without a NaN, `ltVal` is the order of the values. -/
theorem ltVal_iff (hv : v.isNan = false) (hw : w.isNan = false) : ltVal v w = true ↔ v.extRat < w.extRat := by
  match v, w, hv, hw with
  | .inf n, .inf k, _, _ => cases n <;> cases k <;> simp [ltVal, Val.extRat]
  | .inf n, .fin .., _, _ => cases n <;> simp [ltVal, Val.extRat]
  | .fin .., .inf n, _, _ => cases n <;> simp [ltVal, Val.extRat, ← WithBot.coe_top]
  | .fin .., .fin .., _, _ => simp [ltVal_fin, Val.extRat]

theorem ltVal_eq_false_iff (hv : v.isNan = false) (hw : w.isNan = false) : ltVal v w = false ↔ w.extRat ≤ v.extRat := by
  rw [← not_lt, ← ltVal_iff hv hw, Bool.not_eq_true]

/-! ### The rank of a candidate -/

/-- What candidates are ordered by: the higher selection score first, then the lower expert index (R127). -/
def Cand.key (c : Cand) : (WithBot (WithTop ℚ))ᵒᵈ ×ₗ Nat := toLex (OrderDual.toDual (ofF32 c.s).extRat, c.x)

/-- The order of R127, read off its definition, is that of the keys. -/
theorem ranks_iff (ha : nanScore a = false) (hb : nanScore b = false) : ranks a b = true ↔ a.key ≤ b.key := by
  rw [Cand.key, Cand.key, Prod.Lex.toLex_le_toLex', OrderDual.toDual_le_toDual, OrderDual.toDual_inj]
  simp only [ranks, Bool.or_eq_true, Bool.and_eq_true, Bool.not_eq_true', decide_eq_true_iff, ltVal_iff hb ha, ltVal_eq_false_iff ha hb]
  constructor
  · rintro (hlt | ⟨hle, hx⟩)
    · exact ⟨hlt.le, fun heq => absurd heq hlt.ne'⟩
    · exact ⟨hle, fun _ => hx⟩
  · exact fun ⟨hle, hx⟩ => hle.lt_or_eq.imp_right fun heq => ⟨hle, hx heq.symm⟩

/-- A candidate before another, as the list's order is stated: the keys are in strict order. -/
theorem before_iff (ha : nanScore a = false) (hb : nanScore b = false) :
    (ltVal (ofF32 a.s) (ofF32 b.s) = false ∧ (ltVal (ofF32 b.s) (ofF32 a.s) = false → a.x < b.x)) ↔ a.key < b.key := by
  rw [ltVal_eq_false_iff ha hb, ltVal_eq_false_iff hb ha, Cand.key, Cand.key, Prod.Lex.toLex_lt_toLex', OrderDual.toDual_le_toDual, OrderDual.toDual_inj]
  exact and_congr_right fun hle => ⟨fun h heq => h heq.le, fun h hge => h (le_antisymm hge hle)⟩

/-- Of two experts' candidates the one that ranks before the other has a strictly lower key. -/
theorem Cand.key_lt_of_le (h : a.key ≤ b.key) (hx : a.x ≠ b.x) : a.key < b.key :=
  lt_of_le_of_ne h fun hkey => hx (congrArg (fun k => (ofLex k).2) hkey)

/-! ### The stable sort -/

theorem insertBy_perm : (insertBy le x l).Perm (x :: l) := by
  induction l with
  | nil => rfl
  | cons y t ih =>
    rw [insertBy]
    split
    · exact (ih.cons y).trans (.swap x y t)
    · rfl

theorem sortBy_concat : sortBy le (l ++ [x]) = insertBy le x (sortBy le l) := by simp [sortBy]

theorem sortBy_perm (l : List α) : (sortBy le l).Perm l := by
  induction l using List.reverseRecOn with
  | nil => rfl
  | append_singleton t x ih =>
    rw [sortBy_concat]
    exact insertBy_perm.trans ((ih.cons x).trans (List.perm_append_singleton x t).symm)

/-- Insertion keeps a list sorted by `f`, where `le` answers as the order of `f`. -/
theorem insertBy_sorted (hle : ∀ y ∈ l, le y x = true ↔ f y ≤ f x) (h : l.Pairwise (f · ≤ f ·)) :
    (insertBy le x l).Pairwise (f · ≤ f ·) := by
  induction l with
  | nil => exact List.pairwise_singleton _ _
  | cons y t ih =>
    obtain ⟨hy, ht⟩ := List.pairwise_cons.mp h
    have hyx := hle y List.mem_cons_self
    rw [insertBy]
    split
    next hbefore =>
      refine List.pairwise_cons.mpr ⟨fun z hz => ?_, ih (fun z hz => hle z (List.mem_cons_of_mem y hz)) ht⟩
      obtain rfl | hz := List.mem_cons.mp (insertBy_perm.mem_iff.mp hz)
      · exact hyx.mp hbefore
      · exact hy z hz
    next hafter =>
      have hxy : f x ≤ f y := le_of_not_ge fun hge => hafter (hyx.mpr hge)
      exact List.pairwise_cons.mpr ⟨List.forall_mem_cons.mpr ⟨hxy, fun z hz => hxy.trans (hy z hz)⟩, h⟩

/-- The sort orders a list by `f`, where `le` answers as the order of `f` on its members. -/
theorem sortBy_sorted (hle : ∀ y ∈ l, ∀ z ∈ l, le y z = true ↔ f y ≤ f z) : (sortBy le l).Pairwise (f · ≤ f ·) := by
  induction l using List.reverseRecOn with
  | nil => exact .nil
  | append_singleton t x ih =>
    rw [sortBy_concat]
    have hmem {y : α} (hy : y ∈ t) : y ∈ t ++ [x] := List.mem_append_left [x] hy
    exact insertBy_sorted (fun y hy => hle y (hmem ((sortBy_perm t).mem_iff.mp hy)) x List.mem_concat_self)
      (ih fun y hy z hz => hle y (hmem hy) z (hmem hz))

/-! ### The first occurrence of each expert -/

theorem firstOnly_sublist (cs : List Cand) (seen : List Nat) : (firstOnly cs seen).Sublist cs := by
  induction cs generalizing seen with
  | nil => exact .slnil
  | cons c t ih =>
    rw [firstOnly]
    split
    · exact (ih seen).cons c
    · exact (ih _).cons_cons c

theorem firstOnly_x_notMem_seen (hc : c ∈ firstOnly cs seen) : c.x ∉ seen := by
  induction cs generalizing seen with
  | nil => simp [firstOnly] at hc
  | cons d t ih =>
    rw [firstOnly] at hc
    split at hc
    · exact ih hc
    next hnew =>
      obtain rfl | hc := List.mem_cons.mp hc
      · simpa using hnew
      · exact fun hmem => ih hc (List.mem_cons_of_mem d.x hmem)

theorem firstOnly_x_nodup (cs : List Cand) (seen : List Nat) : ((firstOnly cs seen).map Cand.x).Nodup := by
  induction cs generalizing seen with
  | nil => exact .nil
  | cons c t ih =>
    rw [firstOnly]
    split
    · exact ih seen
    · refine List.nodup_cons.mpr ⟨fun hmem => ?_, ih _⟩
      obtain ⟨d, hd, hdx⟩ := List.mem_map.mp hmem
      exact firstOnly_x_notMem_seen hd (hdx ▸ List.mem_cons_self)

/-- Of a sorted list, each expert not seen before is kept with a candidate that no other of its candidates ranks before. -/
theorem firstOnly_keeps_best (hs : cs.Pairwise (Cand.key · ≤ Cand.key ·)) (hc : c ∈ cs) (hx : c.x ∉ seen) :
    ∃ d ∈ firstOnly cs seen, d.x = c.x ∧ d.key ≤ c.key := by
  induction cs generalizing seen with
  | nil => cases hc
  | cons d t ih =>
    obtain ⟨hd, ht⟩ := List.pairwise_cons.mp hs
    rw [firstOnly]
    split
    next hseen =>
      have hne : c ≠ d := fun h => hx (h ▸ List.contains_iff_mem.mp hseen)
      exact ih ht ((List.mem_cons.mp hc).resolve_left hne) hx
    next =>
      by_cases hxd : c.x = d.x
      · exact ⟨d, List.mem_cons_self, hxd.symm, (List.mem_cons.mp hc).elim (fun h => h ▸ le_rfl) (hd c)⟩
      · have hct := (List.mem_cons.mp hc).resolve_left fun h => hxd (congrArg Cand.x h)
        obtain ⟨b, hb, hbest⟩ := ih ht hct (List.not_mem_cons_of_ne_of_not_mem hxd hx)
        exact ⟨b, List.mem_cons_of_mem d hb, hbest⟩

/-! ### SELECT's list -/

theorem rank_sorted (hset : ∀ c ∈ cs, nanScore c = false) : (rank cs).Pairwise (Cand.key · ≤ Cand.key ·) :=
  sortBy_sorted fun a ha b hb => ranks_iff (hset a ha) (hset b hb)

/-- The distinct experts of a set without a NaN, each with its best candidate, are in strict order. -/
theorem firstOnly_rank_sorted (hset : ∀ c ∈ cs, nanScore c = false) : (firstOnly (rank cs) []).Pairwise (Cand.key · < Cand.key ·) := by
  have hle := (rank_sorted hset).sublist (firstOnly_sublist (rank cs) [])
  have hne := List.pairwise_map.mp (firstOnly_x_nodup (rank cs) [])
  exact hle.imp₂ (fun _ _ => Cand.key_lt_of_le) hne

theorem mem_of_mem_candList {e : Elig} (hc : c ∈ candList e) : c ∈ e.set :=
  (sortBy_perm e.set).mem_iff.mp ((firstOnly_sublist (rank e.set) []).subset (List.mem_of_mem_take hc))

/-- The distinct experts in order: those listed, then those left out. -/
theorem candList_append_drop (e : Elig) : candList e ++ (firstOnly (rank e.set) []).drop 16 = firstOnly (rank e.set) [] := List.take_append_drop 16 _

/-- A member whose expert is not listed found the list full, and every one taken before it (R130, R132). -/
theorem candList_full {e : Elig} (hset : ∀ c ∈ e.set, nanScore c = false) (hc : c ∈ e.set) (hx : c.x ∉ (candList e).map Cand.x) :
    (candList e).length = 16 ∧ ∀ a ∈ candList e, a.key < c.key := by
  obtain ⟨d, hd, hdx, hdc⟩ := firstOnly_keeps_best (rank_sorted hset) ((sortBy_perm e.set).mem_iff.mpr hc) List.not_mem_nil
  rw [← candList_append_drop e] at hd
  have hrest := (List.mem_append.mp hd).resolve_left fun htaken => hx (hdx ▸ List.mem_map_of_mem htaken)
  constructor
  · have hlong := List.length_pos_of_mem hrest
    rw [List.length_drop] at hlong
    exact List.length_take_of_le (by omega)
  · have hsorted := firstOnly_rank_sorted hset
    rw [← candList_append_drop e] at hsorted
    obtain ⟨-, -, hbefore⟩ := List.pairwise_append.mp hsorted
    exact fun a ha => (hbefore a ha d hrest).trans_le hdc

/-- Settles O55: the stable sort orders the set by `Cand.key`, and the first occurrence of each expert is its best candidate. -/
theorem selectRanksCandidates : Obligations.SelectRanksCandidates := by
  unfold Obligations.SelectRanksCandidates
  intro e hset l before
  have hnan {c : Cand} (hc : c ∈ l) : nanScore c = false := hset c (mem_of_mem_candList hc)
  have hshort : l.Sublist (firstOnly (rank e.set) []) := List.take_sublist 16 _
  refine ⟨List.length_take_le 16 _, (firstOnly_x_nodup (rank e.set) []).sublist (hshort.map Cand.x), fun c => mem_of_mem_candList, ?_, fun c hc hx => ?_⟩
  · exact ((firstOnly_rank_sorted hset).sublist hshort).imp_of_mem fun ha hb => (before_iff (hnan ha) (hnan hb)).mpr
  · obtain ⟨hfull, hbest⟩ := candList_full hset hc hx
    exact ⟨hfull, fun a ha => (before_iff (hnan ha) (hset c hc)).mpr (hbest a ha)⟩

end Sys2Proof.Machine
end

section
/-! What a packet discarded by one of the six checks leaves (R167, R189). -/

namespace Sys2Proof.Machine

variable {s t u : State} {rsp : Bool} {p : Packet} {k : State → State} {i : Instr} {c b o : Nat}

/-! ### What a discard does -/

/-- A COUNT packet with SUB 0 that the check of the kill generation discards: its records are counted as discarded (R167). -/
def staleCount (p : Packet) (b : Nat) : Prop := b = 6 ∧ pTyp p = 3 ∧ pTs p 18 3 0 = 0

/-- What a packet that fails a check leaves: the check's counter and its bit of FAB_STAT, and for a stale COUNT the count of its records (R167, R189). -/
def discarded (p : Packet) (c b : Nat) (u : State) : State :=
  let t := discard c Reg.XCHG_FAB_STAT b u
  if b = 6 ∧ (pTyp p == 3 && pTs p 18 3 0 == 0) = true then raiseBit Reg.SORT_CNT_STAT 0 (bump Reg.SORT_CNT_DISCARD (pTs p 16 15 0) t) else t

theorem discarded_stale (h : staleCount p b) :
    discarded p c b u = raiseBit Reg.SORT_CNT_STAT 0 (bump Reg.SORT_CNT_DISCARD (pTs p 16 15 0) (discard c Reg.XCHG_FAB_STAT b u)) :=
  if_pos (by simpa [staleCount] using h)

theorem discarded_other (h : ¬staleCount p b) : discarded p c b u = discard c Reg.XCHG_FAB_STAT b u :=
  if_neg (by simpa [staleCount] using h)

/-- A discard writes live registers, and keeps their map canonical. -/
theorem discarded_live (p : Packet) (c b : Nat) (u : State) :
    LiveOnly u (discarded p c b u) ∧ (cellWf regReset u.live = true → cellWf regReset (discarded p c b u).live = true) := by
  by_cases h : staleCount p b
  · rw [discarded_stale h]; exact ⟨rfl, fun hu => cellSet_wf (cellSet_wf (cellSet_wf (cellSet_wf hu)))⟩
  · rw [discarded_other h]; exact ⟨rfl, fun hu => cellSet_wf (cellSet_wf hu)⟩

/-- A register that no count of records writes reads as after the discard. -/
theorem reg_discarded (hstat : o ≠ Reg.SORT_CNT_STAT) (hcount : o ≠ Reg.SORT_CNT_DISCARD) :
    reg (discarded p c b u) o = reg (discard c Reg.XCHG_FAB_STAT b u) o := by
  by_cases h : staleCount p b
  · rw [discarded_stale h, raise_ne hstat, bump_ne hcount]
  · rw [discarded_other h]

/-- A discard leaves every register but its counter and its status. -/
theorem reg_discard_ne (hctr : o ≠ c) (hstat : o ≠ Reg.XCHG_FAB_STAT) : reg (discard c Reg.XCHG_FAB_STAT b u) o = reg u o := by
  unfold discard; rw [raise_ne hstat, bump_ne hctr]

/-! ### The six checks -/

/-- The three counters of the six checks. -/
def checkCounters : List Nat := [Reg.XCHG_FAB_CRC_CNT, Reg.XCHG_FAB_DROP_CNT, Reg.XCHG_FAB_STALE_CNT]

/-- A failed check names one of three counters, and a bit of the status word (R189). -/
theorem pktVerdict_names (h : pktVerdict rsp p s = some (c, b)) : c ∈ checkCounters ∧ b < 32 := by
  unfold pktVerdict at h
  repeat' split at h
  all_goals cases h
  all_goals decide

theorem checkCounters_apart (h : c ∈ checkCounters) : c ≠ Reg.XCHG_FAB_STAT ∧ c ≠ Reg.SORT_CNT_STAT ∧ c ≠ Reg.SORT_CNT_DISCARD := by
  simp only [checkCounters, List.mem_cons, List.not_mem_nil, or_false] at h
  obtain rfl | rfl | rfl := h <;> decide

/-- A packet that comes to the head of its queue and fails a check is discarded by it. -/
theorem exec_pktRowOf_discards (hrow : pktRowOf i = some (rsp, p, true, k)) (htakes : takesPackets s = true) (hopen : fenced s = false)
    (hcredit : noCredit rsp s = false) (hwaits : waits rsp s = false) (hsrc : srcFenced p s = false) (hfails : pktVerdict rsp p s = some (c, b)) :
    exec i s = .next (settle (discarded p c b (ejected rsp p s))) := by
  rw [exec_pktRowOf_ejects hrow htakes hopen, atHead_eq, hcredit, hwaits, hsrc, hfails]; rfl

/-! ### The ejection port -/

/-- With none of the slice's own packets waiting for an output, an output's turn leaves all as it is (R194). -/
theorem outputTurn_empty {port : Nat} (h : s.fabQ = []) : outputTurn rsp port p false s = s := by
  have hahead : lcAhead rsp port 2 s = s := by unfold lcAhead; rw [h]; rfl
  unfold outputTurn; simp [h, hahead]

/-- A packet that is no multicast, ejected where no own packet waits for an output, is counted and no more. -/
theorem ejected_unicast (hrow : pMcast p ≠ 1) (hcol : pMcast p ≠ 2) (h : s.fabQ = []) : ejected rsp p s = bump64 Reg.XCHG_RX_PKT_LO 1 s := by
  have hcopied : copied p s = s := if_neg (by simp [hrow, hcol])
  unfold ejected won; rw [hcopied, outputTurn_empty h]

/-- A canonical state after turns at the ports, with any canonical registers, is its own end. -/
theorem settle_passes (hs : s.wf = true) (hp : Passes s u) (ht : LiveOnly u t) (hlive : cellWf regReset t.live = true) : settle t = t := by
  apply settle_of_wf
  rw [ht, hp.only]
  simp only [State.wf, Bool.and_eq_true] at hs ⊢
  obtain ⟨⟨⟨⟨⟨⟨-, hstaged⟩, hcnt⟩, hpub⟩, hmbox⟩, hmem⟩, hnvm⟩ := hs
  exact ⟨⟨⟨⟨⟨⟨hlive, hstaged⟩, hcnt⟩, hpub⟩, hmbox⟩, hmem⟩, hnvm⟩

/-- Settles O40: the packet, ejected, is discarded by the check it fails (`exec_pktRowOf_discards`), and the lemmas about `discarded` say what that writes.
That a multicast packet is copied on before its own checks is the model's choice (log entry 39). -/
theorem discardedPacketsHaveNoEffect : Obligations.DiscardedPacketsHaveNoEffect := by
  unfold Obligations.DiscardedPacketsHaveNoEffect
  intro i rsp p k s c b hs hrow htakes hopen hcredit hwaits hsrc hfails u
  have hpass : Passes s u := Passes.ejected rsp p s
  have hu : cellWf regReset u.live = true := hpass.wf (wf_live hs)
  obtain ⟨hctr, hbit⟩ := pktVerdict_names hfails
  obtain ⟨hcStat, hcSort, hcDiscard⟩ := checkCounters_apart hctr
  obtain ⟨hlive, hcanon⟩ := discarded_live p c b u
  have hend := settle_passes hs hpass hlive (hcanon hu)
  refine ⟨discarded p c b u, ?_, ?_, ?_, fun o ho => ?_, fun hother => ?_, ejected_unicast, ?_⟩
  · rw [exec_pktRowOf_discards hrow htakes hopen hcredit hwaits hsrc hfails, hend]
  · -- the check's counter
    rw [reg_discarded hcSort hcDiscard]
    unfold discard
    rw [raise_ne hcStat, bump_same hu]
  · -- its status bit
    have hflag : flag (discard c Reg.XCHG_FAB_STAT b u) Reg.XCHG_FAB_STAT b = true := flag_raiseBit (cellSet_wf hu) _ hbit
    unfold flag at hflag ⊢
    rw [reg_discarded (by decide) (by decide), hflag]
  · -- every other register
    simp only [List.mem_cons, List.not_mem_nil, or_false, not_or] at ho
    obtain ⟨hc, hstat, hsort, hcount⟩ := ho
    rw [reg_discarded hsort hcount, reg_discard_ne hc hstat]
  · -- no record counted
    rw [discarded_other hother, reg_discard_ne hcSort.symm (by decide), reg_discard_ne hcDiscard.symm (by decide)]
    exact ⟨hpass.reg _ (by decide), hpass.reg _ (by decide)⟩
  · rw [hlive, hpass.only]

end Sys2Proof.Machine
end

section
/-! What the events of the exchange do on a die that forwards and is not fenced (R159, R196, R203 to R206, R228, R344, R360, R371, R440). -/

namespace Sys2Proof.Machine

variable {s : State} {c i : Nat}

/-- On a die that forwards and is not fenced, what is asked first by an event of the exchange does not stop it. -/
theorem not_stopped (hup : forwarding s = true) (hopen : fenced s = false) : ¬(!(forwarding s) || fenced s) = true := by rw [hup, hopen]; decide

section
variable (hup : forwarding s = true) (hopen : fenced s = false)
include hup hopen

theorem exec_halfArmed (half : Bool) : exec (.halfArmed half) s = .next (settle (armAll (fun r => rHalf r.raw == half) s)) :=
  congrArg finish (if_pos (by rw [hup, hopen]; rfl))

theorem exec_workRecordTaken : exec (.workRecordTaken c) s = .next (settle (checkSend { s with
    work := modFirst (fun w => w.cluster == c && !w.taken && !w.held) (fun w => { w with taken := true }) s.work })) :=
  congrArg finish (if_neg (not_stopped hup hopen))

/-! ### Rows that come back (R203, R206) -/

/-- One row fewer is to come back of a work record, which goes with its last row, but in a replay. -/
def rowReturned (w : Work) (s : State) : State :=
  { s with
    work := (modFirst (fun x => x == w) (fun x => { x with rowsLeft := x.rowsLeft - 1 }) s.work).filter (fun x => x.rowsLeft != 0 || capMode s == 2) }

/-- The chunks of a row that comes back, numbered. -/
def returnedChunks (w : Work) (row : List Byte) (s : State) : List (Nat × List Byte) :=
  withIdx 0 (chunksOf 4096 (workXb s w).cpr (row.take (workXb s w).rrb))

/-- The header of the RESULT with chunk i of a row that travelled. -/
def resultHd (w : Work) (x : Step) (u : State) (tag i : Nat) : Hd :=
  { typ := 9, dst := tag % 2 ^ 20, be := x.be, epoch := x.epoch, layer := w.layer, half := w.half, model := w.model, kgen := kgen u,
    ts := tsAt 16 tag + tsAt 24 w.expert + tsAt 26 i }

section
variable {tag : Nat} {row : List Byte} {w : Work} (hwork : rowWork s c tag = some w)
include hwork

theorem clusterRow_gathered (hgather : w.gather = true) :
    clusterRow c tag row s = (returnedChunks w row s).foldl (fun t e => appendArrival w.step w.half tag e.1 e.2 t) (rowReturned w s) := by
  unfold clusterRow; rw [if_neg (not_stopped hup hopen), hwork]; exact if_pos hgather

theorem clusterRow_travelled {x : Step} (htravels : w.gather = false) (hstep : stepAt (rowReturned w s) w.step = some x) :
    clusterRow c tag row s =
      checkRecv (modHalf w.step w.half (fun h => { h with resultsSent := h.resultsSent + 1 })
        ((returnedChunks w row s).foldl (fun t e => inject (mkPacket t (resultHd w x (rowReturned w s) tag e.1) e.2) t) (rowReturned w s))) := by
  unfold clusterRow; rw [if_neg (not_stopped hup hopen), hwork]
  refine (if_neg (by rw [htravels]; decide)).trans ?_
  unfold rowReturned at hstep; rw [hstep]; rfl

end

/-! ### Balancing (R360) -/

theorem steal_inReplay (hreplay : capMode s = 2) : steal s = postHeld (workFuel s) s := by
  unfold steal; rw [if_neg (not_stopped hup hopen), if_pos hreplay]

theorem steal_moves {d : Nat} {w : Work} (hlive : capMode s ≠ 2) (hidle : idleCluster s = some c) (hdonor : donorCluster s = some d)
    (htile : (tiles s d).getLast? = some w) : steal s = moveTile c w s := by
  unfold steal; rw [if_neg (not_stopped hup hopen), if_neg hlive, hidle, hdonor]; dsimp only
  rw [htile]

/-! ### Shared rows (R228) -/

theorem onShDone_of_step {x : Step} (h : shStep c s = some x) :
    onShDone c s = combPoll (signal (bFld x.bound Reg.COMB_SH_SIG 9 0) (modStep x.seq (fun z => { z with shDone := c :: z.shDone }) s)) := by
  unfold onShDone; rw [if_neg (not_stopped hup hopen), h]

theorem onShDone_no_step (h : shStep c s = none) :
    onShDone c s = if flag s Reg.COMB_SH_SIG 10 then combPoll (signal (fld s Reg.COMB_SH_SIG 9 0) s) else s := by
  unfold onShDone; rw [if_neg (not_stopped hup hopen), h]

/-! ### What is sent, or sent again (R159, R196) -/

theorem ackBatch_sends {a : AckPend} (h : s.acks[i]? = some a) : ackBatch i s = sendAck a { s with acks := dropFirst (fun x => x == a) s.acks } := by
  unfold ackBatch; rw [if_neg (not_stopped hup hopen), h]

theorem onRetryResend_sends {q : LLReq} (h : s.llReqs[i]? = some q) (hown : q.own = true) (hretry : q.retry = true) :
    onRetryResend i s = inject (llRequest s (keyDir s q.epoch q.key) q.key true false q.epoch)
      { s with llReqs := (s.llReqs.take i) ++ { q with retry := false } :: s.llReqs.drop (i + 1) } := by
  unfold onRetryResend; rw [h]; dsimp only
  rw [if_neg (by rw [hup, hopen, hown, hretry]; decide)]

/-! ### The buckets (R344) -/

theorem exec_bucketAdmit (mem : Bool) :
    exec (.bucketAdmit mem) s = .next (settle (if mem then admitMem s else admitNet true (admitNet false s))) :=
  congrArg finish (if_neg (not_stopped hup hopen))

end

/-- Settles O43: past the check that the die forwards and is not fenced, each event is its own operation. Which step an SH_DONE belongs to (`shStep`) is
the model's choice (log entry 68). -/
theorem exchangeEventsAct : Obligations.ExchangeEventsAct := by
  unfold Obligations.ExchangeEventsAct
  intro s cluster hup hopen hd
  have ends {v w : State} (h : v = w) : finish v = .next (settle w) := congrArg finish h
  refine ⟨exec_halfArmed hup hopen, exec_workRecordTaken hup hopen, fun tag row w u hwork hu => ?_,
    fun c d w hlive hidle hdonor htile => ends (steal_moves hup hopen hlive hidle hdonor htile), fun hreplay => ends (steal_inReplay hup hopen hreplay),
    fun x hstep => ends (onShDone_of_step hup hopen hstep), fun hnone hen => ?_, fun hnone hoff => ?_,
    fun i a ha => ends (ackBatch_sends hup hopen ha), fun i q hq hown hretry => ends (onRetryResend_sends hup hopen hq hown hretry),
    exec_bucketAdmit hup hopen true, exec_bucketAdmit hup hopen false⟩
  · -- a row comes back
    subst hu
    exact ⟨fun hgather => ends (clusterRow_gathered hup hopen hwork hgather),
      fun x htravels hstep => ends (clusterRow_travelled hup hopen hwork htravels hstep)⟩
  · -- the applied counter is enabled
    exact ends ((onShDone_no_step hup hopen hnone).trans (if_pos hen))
  · -- and is not
    exact ends ((onShDone_no_step hup hopen hnone).trans (if_neg (by rw [hoff]; decide)))

end Sys2Proof.Machine
end

section
/-! What a kill the Keeper begins does, how killed steps run again, and how the model is switched (R293 to R296, R352, R353, R377, R378, R382). -/

namespace Sys2Proof.Machine

variable {s : State} {c : KillCause} {q : Option W32} {read : Option (Addr × Ecc)} {f : SwitchFor} {h : BitVec 1024}

/-! ### Kills (R293, R294, R296) -/

/-- A cause finds no started step to kill. -/
theorem raiseKill_no_live (hnone : s.steps.filter Step.live = []) : raiseKill c q s = s := by
  unfold raiseKill; rw [hnone]; rfl

section
variable (hlive : s.steps.filter Step.live ≠ [])
include hlive

/-- A cause is held while a step is joined to COMMIT_READY. -/
theorem raiseKill_joined (hjoined : (s.steps.filter Step.live).any (fun x => x.phase == .joined) = true) :
    raiseKill c q s = { s with heldKill := s.heldKill ++ [(c, q)] } :=
  (if_neg (by simpa using hlive)).trans (if_pos hjoined)

/-- A cause kills the started steps under the next kill generation, sends their aborts, and joins KILL_DONE. -/
theorem raiseKill_kills (hjoined : (s.steps.filter Step.live).any (fun x => x.phase == .joined) = false) :
    raiseKill c q s = joinKillDone
      ((s.steps.filter Step.live).foldl (fun t x => match endsOf c q x.seq with | none => t | some k => sendAborts x.seq k t)
        (sendKill ((kgen s + 1) % 16) (applyKill ((kgen s + 1) % 16) (c == .killStep || c == .killDrop) (endsOf c q) s))) :=
  (if_neg (by simpa using hlive)).trans (if_neg (by rw [hjoined]; decide))

end

/-- STEP_KILL raises its cause at the oldest started step. -/
theorem exec_stepKill (hkeeper : keeperUp s = true) :
    exec (.stepKill c) s = .next (settle (raiseKill c ((s.steps.find? Step.live).map Step.seq) s)) :=
  congrArg finish (if_pos hkeeper)

/-! ### Reruns (R295, R296) -/

/-- The code a STEP_ABORT that has arrived gives a step. -/
def abortCode (s : State) (x : Step) : Option Nat := (s.aborts.find? (fun a => a.1 == x.seq)).map Prod.snd

/-- The code a killed step ends with, where it does not run again: its own, or that of a STEP_ABORT. -/
def finalCode (s : State) (x : Step) : Option Nat := match x.endCode with | some k => some k | none => abortCode s x

/-- Every killed step that has a final code ends; aborts of steps that are numbered already are done with. -/
def endedKilled (s : State) : State :=
  let ended := (s.steps.filter (fun x => x.phase == .killed || (x.phase == .accepted && (abortCode s x).isSome))).foldl
    (fun t x => match finalCode s x with | some k => endKilled x k t | none => t) s
  { ended with aborts := ended.aborts.filter (fun a => !(seqBefore a.1 ended.nextSeq)) }

/-- The killed steps that are left to run again. -/
def leftKilled (t : State) : List Step := t.steps.filter (fun x => x.phase == .killed)

theorem rerun_released (hkeeper : keeperUp s = true) (hdone : s.killDone = true) (hrecovering : recovering s = false) (hactive : s.recov.active = false)
    (hdrain : flag s Reg.XCHG_FAB_DRAIN 0 = false) (htree : fld s Reg.REL_TREE 3 0 ≠ 0xF) :
    rerun s =
      if (leftKilled (endedKilled s)).isEmpty then recovIdle (endedKilled s)
      else if capHold (endedKilled s) || pinsOut (endedKilled s) then endedKilled s
      else if fenced (newUnits (endedKilled s)) then newUnits (endedKilled s)
      else ownRead (reEnqueue (leftKilled (endedKilled s))) (newUnits (endedKilled s)) := by
  unfold rerun
  refine (if_neg ?_).trans rfl
  rw [hkeeper, hdone, hrecovering, hactive, hdrain, decide_eq_false htree]; decide

/-! ### Model switches (R352, R353, R377, R378, R382) -/

/-- The model a switch installs. -/
def SwitchFor.model : SwitchFor → Nat
  | .packet w => w.model
  | .step x => x.model

/-- The state once a switch has begun: a SWITCH_MODEL has left its queue, a step goes on waiting. -/
def SwitchFor.begun : SwitchFor → State → State
  | .packet _, s => { s with switchq := s.switchq.drop 1 }
  | .step _, s => s

/-- A switch that waits for what it reads in die memory. -/
def SwitchFor.run : SwitchFor → SwitchRun
  | .packet w => { model := w.model, pkt := some w, step := w.behind }
  | .step x => { model := x.model, pkt := none, step := x.seq }

theorem modelSwitch_not_due (hswitch : switching s = false) : modelSwitch read s = s := if_pos (by rw [hswitch]; rfl)

section
variable {v : State} (hswitch : switching s = true) (hdue : switchDue s = some f) (hhdr : modelHdr (f.begun s) f.model = some h)
  (hv : switchMeets h read (switchOut (f.begun s)) = v)
include hswitch hdue hhdr hv

/-- A switch writes back the outgoing model and meets the check of what it reads; it goes on at once, or asks for what lies in die memory. -/
theorem modelSwitch_due :
    modelSwitch read s = if (dieReads v (switchRanges h)).isEmpty then switchDone f f.model [] v
      else memRequests switchEng false (dieReads v (switchRanges h)) { v with switchRun := some f.run } := by
  subst hv
  unfold modelSwitch; rw [if_neg (by rw [hswitch]; decide), hdue]
  cases f <;> (dsimp only [SwitchFor.model, SwitchFor.begun] at hhdr ⊢; rw [hhdr]; rfl)

theorem modelSwitch_asks (hreads : dieReads v (switchRanges h) ≠ []) :
    modelSwitch read s = memRequests switchEng false (dieReads v (switchRanges h)) { v with switchRun := some f.run } :=
  (modelSwitch_due hswitch hdue hhdr hv).trans (if_neg (by simpa using hreads))

variable {h' : BitVec 1024} (hreads : dieReads v (switchRanges h) = []) (hhdr' : modelHdr v f.model = some h')
include hreads hhdr'

/-- A switch that need not wait ends by whether a word it reads fails. -/
theorem modelSwitch_ends :
    modelSwitch read s = match switchBad v [] h' with
      | none => retryHold (switchEnd f (switchGood f f.model h' v))
      | some b => switchFail f b.1 b.2 v := by
  rw [modelSwitch_due hswitch hdue hhdr hv, hreads]
  unfold switchDone; rw [hhdr']; rfl

end

/-- Settles O33: STEP_KILL is a kill begun here (`exec_stepKill` and the `raiseKill` lemmas), RERUN what `rerun_released` says, MODEL_SWITCH what the
`modelSwitch` lemmas say. That RERUN meets a poisoned word of the Keeper's own region or not (log entry 96), that PART_HOLD and CFG_HOLD do not hold it (log
entry 82), and that the check of one staging word is the switch's operand (log entry 112) are the model's choices. -/
theorem killRerunSwitch : Obligations.KillRerunSwitch := by
  unfold Obligations.KillRerunSwitch
  intro s c read hkeeper q dead
  have kills {v : State} (h : raiseKill c q s = v) : exec (.stepKill c) s = .next (settle v) := by rw [exec_stepKill hkeeper, h]
  have ends {v w : State} (h : v = w) : finish v = .next (settle w) := congrArg finish h
  refine ⟨fun hnone => kills (raiseKill_no_live hnone), fun hlive hjoined => kills (raiseKill_joined hlive hjoined),
    fun hlive hjoined => kills (raiseKill_kills hlive hjoined),
    fun hdone hrecovering hactive hdrain htree => ends (rerun_released hkeeper hdone hrecovering hactive hdrain htree),
    fun f m h u hswitch hdue hhdr hserves => ?_, fun hswitch => ends (modelSwitch_not_due hswitch)⟩
  obtain ⟨rfl, rfl⟩ : m = f.model ∧ u = f.begun s := by
    obtain ⟨w, rfl, hm, hu⟩ | ⟨x, rfl, hm, hu⟩ := hserves
    · exact ⟨hm, hu⟩
    · exact ⟨hm, hu⟩
  refine ⟨fun hreads => ?_, fun h' hreads hhdr' => ⟨fun hgood => ?_, fun b a hbad => ?_⟩⟩
  · -- it waits for die memory
    refine ends ((modelSwitch_asks hswitch hdue hhdr rfl hreads).trans ?_)
    cases f <;> rfl
  · -- it installs the model
    refine ends ((modelSwitch_ends hswitch hdue hhdr rfl hreads hhdr').trans ?_)
    rw [hgood]
  · -- a word it reads is poisoned
    refine ends ((modelSwitch_ends hswitch hdue hhdr rfl hreads hhdr').trans ?_)
    rw [hbad]

end Sys2Proof.Machine
end

section
/-! What link events and packets in transit can touch: the slice's links and ports, and nothing it stores (R189, R191, R261 to R264, R272, R274, R275, R409). -/

namespace Sys2Proof.Machine

variable {s t u : State} {l : Nat} {f : Frame} {form early : Bool} {k : State → State} {i : Instr}

/-! ### The edge of the slice -/

/-- A state differs from another only at the slice's edge: registers, links, election, power and alarm, outputs, free values, packets on their way out or in. -/
def EdgeOnly (s t : State) : Prop :=
  t = { s with live := t.live, links := t.links, elect := t.elect, power := t.power, powered := t.powered, alarm := t.alarm, out := t.out,
               free := t.free, fabQ := t.fabQ, injQ := t.injQ, ejectQ := t.ejectQ, inQ := t.inQ }

/-- What a difference at the edge leaves of a canonical state, once the maps are canonical again: memory, counters, staged values, and every other field. -/
theorem EdgeOnly.settled (hs : s.wf = true) (h : EdgeOnly s u) :
    (∀ a, rd8 (settle u) a = rd8 s a) ∧ (∀ n, cnt (settle u) n = cnt s n) ∧ (∀ o, stg (settle u) o = stg s o) ∧ EdgeOnly s (settle u) := by
  refine ⟨fun a => ?_, fun n => ?_, fun o => ?_, ?_⟩
  · rw [settle_rd8, h]; rfl
  · rw [settle_cnt, h]; rfl
  · rw [settle_stg, h]; rfl
  · have hu : settle u = { settle s with
        live := cellCanon regReset u.live, links := u.links, elect := u.elect, power := u.power, powered := u.powered, alarm := u.alarm, out := u.out,
        free := u.free, fabQ := u.fabQ, injQ := u.injQ, ejectQ := u.ejectQ, inQ := u.inQ } := by rw [h]; rfl
    rw [settle_of_wf s hs] at hu
    unfold EdgeOnly; rw [hu]

/-! ### What the link layer touches (R262 to R264) -/

/-- A state differs from another only in registers, links, election, power and alarm, outputs and free values. -/
def LinkOnly (s t : State) : Prop :=
  t = { s with live := t.live, links := t.links, elect := t.elect, power := t.power, powered := t.powered, alarm := t.alarm, out := t.out, free := t.free }

theorem LinkOnly.refl (s : State) : LinkOnly s s := rfl

theorem LinkOnly.trans (h : LinkOnly s t) (k : LinkOnly t u) : LinkOnly s u := by
  unfold LinkOnly at *; rw [k, h]

theorem LinkOnly.edge (h : LinkOnly s t) : EdgeOnly s t := by
  unfold LinkOnly EdgeOnly at *; rw [h]

theorem LinkOnly.cap_eq (h : LinkOnly s t) : t.cap = s.cap := by rw [h]

theorem LinkOnly.queues_eq (h : LinkOnly s t) : (t.fabQ = s.fabQ ∧ t.injQ = s.injQ) ∧ t.ejectQ = s.ejectQ ∧ t.inQ = s.inQ := by
  rw [h]; exact ⟨⟨rfl, rfl⟩, rfl, rfl⟩

theorem LinkOnly.ite {c : Prop} [Decidable c] (h : LinkOnly s t) (k : LinkOnly s u) : LinkOnly s (if c then t else u) := by
  split
  · exact h
  · exact k

theorem LinkOnly.foldl {α : Type} {g : State → α → State} (hg : ∀ u a, LinkOnly u (g u a)) (as : List α) (s : State) : LinkOnly s (as.foldl g s) := by
  induction as generalizing s with
  | nil => exact .refl s
  | cons a as ih => exact (hg s a).trans (ih _)

theorem linkOnly_setReg (o v : Nat) (s : State) : LinkOnly s (setReg o v s) := rfl

theorem linkOnly_bump (o n : Nat) (s : State) : LinkOnly s (bump o n s) := rfl

theorem linkOnly_setLink (l : Nat) (x : Link) (s : State) : LinkOnly s (setLink l x s) := rfl

theorem linkOnly_pumpClass (l c : Nat) (s : State) : LinkOnly s (pumpClass l c s) := by
  unfold pumpClass; dsimp only
  split
  · exact .refl s
  · split
    · exact .refl s
    · split
      · exact linkOnly_setReg _ _ s
      · rfl

theorem linkOnly_sendFrame (l c head : Nat) (pay : Option W64) (s : State) : LinkOnly s (sendFrame l c head pay s) := by
  unfold sendFrame; dsimp only
  split
  · exact .refl s
  · exact (linkOnly_setLink l _ s).trans (linkOnly_pumpClass l c _)

theorem linkOnly_sendEvery (but c head : Nat) (pay : Option W64) (s : State) : LinkOnly s (sendEvery but c head pay s) :=
  .foldl (fun u l => linkOnly_sendFrame l c head pay u) _ s

/-! ### Frames received (R259 to R264) -/

/-- Records are put in order only where some arose: an operation that leaves the record unit as it is stays as it is (R366). -/
theorem sameCycle_eq (h : (k s).cap = s.cap) : sameCycle k s = k s := by
  unfold sameCycle; dsimp only
  split
  · rfl
  · have hdrop : (k s).cap.staged.drop s.cap.staged.length = [] := by rw [h]; exact List.drop_length
    have htake : (k s).cap.staged.take s.cap.staged.length = (k s).cap.staged := by rw [h]; exact List.take_length
    rw [hdrop, htake]
    exact congrArg (fun l => { k s with cap := { (k s).cap with staged := l } }) (List.append_nil _)

theorem linkOnly_ackFrame (l c : Nat) (s : State) : LinkOnly s (ackFrame l c s) := rfl

theorem linkOnly_frameTaken (l : Nat) (f : Frame) (s : State) : LinkOnly s (frameTaken l f s) := rfl

theorem linkOnly_recvFrame (hk : ∀ u, LinkOnly u (k u)) (s : State) : LinkOnly s (recvFrame l f early k s) := by
  by_cases hhears : hears s (fCls f)
  · rw [recv_heard hhears]
    split
    · rfl -- cut short
    split
    · rfl -- a bad CRC
    split
    · exact linkOnly_ackFrame _ _ s -- repeated
    split
    · rfl -- before readiness
    · rw [sameCycle_eq (hk _).cap_eq]
      exact (linkOnly_frameTaken l f s).trans (hk _)
  · rw [recv_deaf hhears]; exact .refl s

/-- Every row of `frameRowOf` receives a frame of its form, and does nothing with another. -/
theorem exec_frameRowOf (h : frameRowOf i = some (l, f, form, early, k)) :
    exec i s = .next (settle (if form = true then recvFrame l f early k s else s)) := by
  unfold frameRowOf at h
  split at h <;> cases h
  case h_15 => -- an unlisted frame
    refine congrArg finish ?_
    cases listedFrame f <;> rfl
  all_goals rfl

/-- A row whose frame touches the link layer alone ends in what does. -/
theorem linkOnly_frameRow (h : frameRowOf i = some (l, f, form, early, k)) (hk : ∀ u, LinkOnly u (k u)) (s : State) :
    ∃ u, exec i s = .next (settle u) ∧ LinkOnly s u := by
  refine ⟨_, exec_frameRowOf h, ?_⟩
  split
  · exact linkOnly_recvFrame hk s
  · exact .refl s

/-! ### What frames of the election, of discovery and heartbeats do (R272, R274, R275, R442) -/

theorem linkOnly_answerRoot (l : Nat) (s : State) : LinkOnly s (answerRoot l s) := by
  unfold answerRoot; dsimp only
  split
  · exact .refl s
  · exact (linkOnly_setLink l _ s).trans (linkOnly_sendFrame _ _ _ _ _)

theorem linkOnly_onHeartbeat (l : Nat) (f : Frame) (s : State) : LinkOnly s (onHeartbeat l f s) := by
  unfold onHeartbeat; dsimp only
  have hheard (x : Link) : LinkOnly s (dropBit Reg.XCHG_BCN_HB_LOST l (setLink l x s)) := rfl
  split
  · exact (hheard _).trans (linkOnly_answerRoot l _)
  · exact hheard _

theorem linkOnly_onDiscover (l : Nat) (f : Frame) (s : State) : LinkOnly s (onDiscover l f s) := by
  unfold onDiscover; dsimp only
  have hheard (x : Link) : LinkOnly s (setLink l x s) := linkOnly_setLink l x s
  split
  · exact (hheard _).trans (linkOnly_setLink l _ _)
  · split
    · exact (hheard _).trans ((linkOnly_setLink l _ _).trans (linkOnly_sendFrame _ _ _ _ _))
    · exact hheard _

/-- The own identity come back to a claimant: taken as its own CLAIM, or as a duplicate that withdraws it, by a free value (log entry 30). -/
def ownClaim (id : W64) (s : State) : State :=
  if electState s = 1 && id == identity s then (if bit (fresh s).toNat 0 then raiseBit Reg.XCHG_BCN_STAT 8 (setElect 2 (tick s)) else tick s) else s

/-- A CLAIM lower than every one before is kept and passed on, and a claimant that it undercuts withdraws (R275). -/
def lowerClaim (l : Nat) (id : W64) (s : State) : State :=
  let lower := match s.elect.lowest with | none => true | some x => decide (id.toNat < x.toNat)
  if !lower then s else
  let s := { s with elect := { s.elect with lowest := some id } }
  let s := if electState s = 1 && decide (id.toNat < (identity s).toNat) then setElect 2 s else s
  sendEvery l 3 (headOf 3 0x02 true false 0 0 0) (some id) s

theorem onClaim_eq (l : Nat) (f : Frame) (s : State) :
    onClaim l f s = if electState s = 3 then answerRoot l s else if s.elect.rootSeen then s else lowerClaim l (fPay f) (ownClaim (fPay f) s) := rfl

theorem linkOnly_ownClaim (id : W64) (s : State) : LinkOnly s (ownClaim id s) := .ite (.ite rfl rfl) (.refl s)

theorem linkOnly_lowerClaim (l : Nat) (id : W64) (s : State) : LinkOnly s (lowerClaim l id s) := by
  have hkept : LinkOnly s { s with elect := { s.elect with lowest := some id } } := rfl
  exact .ite (.refl s) (.trans (.ite (hkept.trans (linkOnly_setReg _ _ _)) hkept) (linkOnly_sendEvery _ _ _ _ _))

theorem linkOnly_onClaim (l : Nat) (f : Frame) (s : State) : LinkOnly s (onClaim l f s) := by
  rw [onClaim_eq]
  split
  · exact linkOnly_answerRoot l s
  split
  · exact .refl s
  · exact (linkOnly_ownClaim _ s).trans (linkOnly_lowerClaim l _ _)

/-! ### What the other events of the links and clocks do (R263, R264, R409) -/

theorem linkOnly_onFrameAck (l c : Nat) (s : State) : LinkOnly s (onFrameAck l c s) := by
  unfold onFrameAck; dsimp only
  split
  · exact .refl s
  split
  · exact .refl s
  · exact ((linkOnly_setLink l _ s).trans (linkOnly_setReg _ _ _)).trans (linkOnly_pumpClass l c _)

theorem linkOnly_onDark (l : Nat) (dark : Bool) (s : State) : LinkOnly s (onDark l dark s) :=
  .ite (.refl s) (.ite (linkOnly_setLink l _ s) (.trans (linkOnly_setLink l _ s) (.foldl (fun u c => linkOnly_pumpClass l c u) _ _)))

theorem linkOnly_onClockWindow (bad : Nat) (s : State) : LinkOnly s (onClockWindow bad s) := by
  unfold onClockWindow; dsimp only
  split
  · rfl -- no clock lost
  · rfl

/-! ### What packets touch that pass through or fail a check (R189, R191) -/

/-- A state differs from another only in registers, outputs, free values and the slice's own packets that wait to leave. -/
def PortOnly (s t : State) : Prop := t = { s with live := t.live, out := t.out, free := t.free, fabQ := t.fabQ, injQ := t.injQ }

theorem PortOnly.refl (s : State) : PortOnly s s := rfl

theorem PortOnly.trans (h : PortOnly s t) (k : PortOnly t u) : PortOnly s u := by
  unfold PortOnly at *; rw [k, h]

theorem PortOnly.ite {c : Prop} [Decidable c] (h : PortOnly s t) (k : PortOnly s u) : PortOnly s (if c then t else u) := by
  split
  · exact h
  · exact k

theorem PortOnly.edge (h : PortOnly s t) : EdgeOnly s t := by
  unfold PortOnly EdgeOnly at *; rw [h]

theorem PortOnly.waiting_eq (h : PortOnly s t) : t.ejectQ = s.ejectQ ∧ t.inQ = s.inQ := by
  rw [h]; exact ⟨rfl, rfl⟩

theorem LiveOnly.port (h : LiveOnly s t) : PortOnly s t := by
  unfold PortOnly; rw [h]

theorem Passes.port (h : Passes s t) : PortOnly s t := by
  unfold PortOnly; rw [h.only]

theorem Passes.passOn (port : Nat) (q : Packet) (c : Bool) (s : State) : Passes s (Machine.passOn port q c s) :=
  (Passes.outputTurn _ port q c s).trans (.emit _ _)

theorem portOnly_transit (p : Packet) (c : Bool) (s : State) : PortOnly s (transit p c s) := by
  have hfence : PortOnly s (bump Reg.REL_FENCE_DROP_CNT 1 s) := rfl
  have htick : PortOnly s (tick s) := rfl
  refine .ite (.refl s) (.ite hfence (.ite (Passes.drop 3 s).port ?_))
  dsimp only
  split
  · exact htick.trans (Passes.passCopy _ _ c _).port -- a multicast copy
  split
  · exact (Passes.passOn _ _ c s).port -- one hop towards its destination
  · exact ((Passes.tdcIf c s).trans (.drop 7 _)).port -- no route

theorem EdgeOnly.trans (h : EdgeOnly s t) (k : EdgeOnly t u) : EdgeOnly s u := by
  unfold EdgeOnly at *; rw [k, h]

theorem EdgeOnly.ite {c : Prop} [Decidable c] (h : EdgeOnly s t) (k : EdgeOnly s u) : EdgeOnly s (if c then t else u) := by
  split
  · exact h
  · exact k

/-- A packet that no engine takes writes registers at most once it is at the head of its queue. -/
theorem liveOnly_atHead_id (rsp : Bool) (p : Packet) (s : State) : LiveOnly (ejected rsp p s) (atHead rsp p id (ejected rsp p s)) := by
  rw [atHead_eq]
  split
  · exact liveOnly_bump _ _ _ -- from a fenced die
  split
  · exact (discarded_live p _ _ _).1 -- a check fails
  split
  · exact (liveOnly_raiseIf _ _ _ _).trans rfl -- from a die that is no member
  · exact liveOnly_raiseIf _ _ _ _

/-- A packet that no engine takes is ejected at the edge: it waits at its input or in its queue, or writes registers at the head of it. -/
theorem edgeOnly_eject_id (rsp : Bool) (p : Packet) (s : State) : EdgeOnly s (eject rsp p id s) := by
  have hcopied := (Passes.copied p s).port.edge
  have hejected := (Passes.ejected rsp p s).port.edge
  exact .ite rfl (.ite hcopied (.ite (hcopied.trans rfl) (.ite (hejected.trans rfl) (hejected.trans (liveOnly_atHead_id rsp p s).port.edge))))

/-- The rows of frames and of other events of the links, the clocks and the supply that touch nothing the slice stores. -/
def linkRow (i : Instr) : Prop :=
  (∃ l f, i = .claim l f) ∨ (∃ l f, i = .discover l f) ∨ (∃ l f, i = .discoverReply l f) ∨ (∃ l f, i = .heartbeat l f)
    ∨ (∃ l f, i = .unlistedBeaconFrame l f) ∨ (∃ l c, i = .beaconFrameAck l c) ∨ (∃ l d, i = .darkSidebandChange l d) ∨ (∃ b, i = .clockWindow b)
    ∨ i = .pwrGoodFall

theorem linkRow_only (h : linkRow i) (s : State) : ∃ u, exec i s = .next (settle u) ∧ LinkOnly s u := by
  obtain ⟨l, f, rfl⟩ | ⟨l, f, rfl⟩ | ⟨l, f, rfl⟩ | ⟨l, f, rfl⟩ | ⟨l, f, rfl⟩ | ⟨l, c, rfl⟩ | ⟨l, d, rfl⟩ | ⟨b, rfl⟩ | rfl := h
  · exact linkOnly_frameRow rfl (linkOnly_onClaim l f) s
  · exact linkOnly_frameRow rfl (linkOnly_onDiscover l f) s
  · exact linkOnly_frameRow rfl (fun u => linkOnly_setLink l _ u) s
  · exact linkOnly_frameRow rfl (linkOnly_onHeartbeat l f) s
  · exact linkOnly_frameRow rfl (linkOnly_bump _ 1) s
  · exact ⟨_, rfl, linkOnly_onFrameAck l c s⟩
  · exact ⟨_, rfl, linkOnly_onDark l d s⟩
  · exact ⟨_, rfl, .ite (linkOnly_onClockWindow b.toNat s) (.refl s)⟩
  · exact ⟨{ s with powered := false, alarm := false }, rfl, rfl⟩

/-- Settles O54: a packet in transit ends in what `PortOnly` allows, one that fails the first checks in what `EdgeOnly` allows, every other row in what
`LinkOnly` allows, and `EdgeOnly.settled` says what that leaves of a canonical state. -/
theorem frameOfLinkAndTransitEvents : Obligations.FrameOfLinkAndTransitEvents := by
  unfold Obligations.FrameOfLinkAndTransitEvents
  intro i s hs hrow
  obtain ⟨p, c, rfl⟩ | ⟨rsp, p, rfl⟩ | hlink := hrow
  · have hport := portOnly_transit p c s
    obtain ⟨hmem, hcnt, hstg, honly⟩ := hport.edge.settled hs
    exact ⟨_, rfl, hmem, hcnt, hstg, fun hno _ => absurd rfl (hno p c), fun _ => hport.waiting_eq, honly⟩
  · have hedge : EdgeOnly s (if badPacket rsp p then eject rsp p id s else s) := .ite (edgeOnly_eject_id rsp p s) rfl
    obtain ⟨hmem, hcnt, hstg, honly⟩ := hedge.settled hs
    exact ⟨_, rfl, hmem, hcnt, hstg, fun _ hno => absurd rfl (hno rsp p), fun hno => absurd rfl (hno rsp p), honly⟩
  · obtain ⟨u, hexec, hu⟩ := linkRow_only hlink s
    obtain ⟨hmem, hcnt, hstg, honly⟩ := hu.edge.settled hs
    obtain ⟨hout, hin⟩ := hu.queues_eq
    exact ⟨_, hexec, hmem, hcnt, hstg, fun _ _ => hout, fun _ => hin, honly⟩

end Sys2Proof.Machine
end

section
/-! How a packet for another die passes through (R191, R194, R198, R341, R362, R386, R387). -/

namespace Sys2Proof.Machine

variable {s : State} {p q : Packet} {contended : Bool} {port : Nat}

/-! ### An output's turn (R194, R341, R362) -/

/-- A packet that came in finds its output wanted by another one too, which makes its turn a choice (R362). -/
def meets (port : Nat) (q : Packet) (contended : Bool) (s : State) : Prop :=
  (contended || s.fabQ.any (fun x => x.1 == bit (pTyp q) 3 && route s x.2 == some port)) = true

/-- A packet that came in leaves, a BE one behind own LC packets that wait there (R194, R341). -/
def leavesBy (port : Nat) (q : Packet) (s : State) : State :=
  emit (.packet (bit (pTyp q) 3) port q) (if pBe q then lcAhead (bit (pTyp q) 3) port 2 s else s)

theorem passOn_met (h : meets port q contended s) : passOn port q contended s = leavesBy port q (tdc 1 s) := by
  unfold meets at h
  unfold passOn outputTurn; dsimp only; rw [if_pos h]; rfl

theorem passOn_unmet (h : ¬meets port q contended s) : passOn port q contended s = leavesBy port q s := by
  unfold meets at h
  unfold passOn outputTurn; dsimp only; rw [if_neg h]; rfl

/-! ### A packet in transit (R189, R191, R386) -/

/-- The packet with HOPS one higher (R191). -/
def oneHop (p : Packet) : Packet := { p with w0 := BitVec.ofNat 64 (setBits p.w0.toNat 61 56 (pHops p + 1)) }

/-- A packet for this die, or at a die that takes none, does not pass through. -/
theorem transit_not_far (h : ¬(takesPackets s = true ∧ pDst p ≠ ownDa s)) : transit p contended s = s := by
  unfold transit
  exact if_pos (by simpa [or_iff_not_imp_left] using h)

section
variable (hfar : takesPackets s = true ∧ pDst p ≠ ownDa s)
include hfar

/-- A packet for another die meets the fence discard and the hop limit, then leaves as a multicast copy, by its route, or not at all. -/
theorem transit_far : transit p contended s =
    if srcFenced p s then bump Reg.REL_FENCE_DROP_CNT 1 s
    else if pHops p = 63 then discard Reg.XCHG_FAB_DROP_CNT Reg.XCHG_FAB_STAT 3 s
    else match copyPort s p with
      | some port => passCopy port (oneHop p) contended (tick s)
      | none => match route s p with
        | some port => passOn port (oneHop p) contended s
        | none => discard Reg.XCHG_FAB_DROP_CNT Reg.XCHG_FAB_STAT 7 (if contended then tdc 1 s else s) := by
  unfold transit
  exact if_neg (by simp [hfar])

theorem transit_fenced (hsrc : srcFenced p s = true) : transit p contended s = bump Reg.REL_FENCE_DROP_CNT 1 s := by
  rw [transit_far hfar, if_pos hsrc]

variable (hsrc : srcFenced p s = false)
include hsrc

theorem transit_hopLimit (hhops : pHops p = 63) : transit p contended s = discard Reg.XCHG_FAB_DROP_CNT Reg.XCHG_FAB_STAT 3 s := by
  rw [transit_far hfar, hsrc, if_neg Bool.false_ne_true, if_pos hhops]

variable (hhops : pHops p ≠ 63)
include hhops

theorem transit_routed (hcopy : copyPort s p = none) (hroute : route s p = some port) :
    transit p contended s = passOn port (oneHop p) contended s := by
  rw [transit_far hfar, hsrc, if_neg Bool.false_ne_true, if_neg hhops, hcopy]; dsimp only; rw [hroute]

theorem transit_unrouted (hcopy : copyPort s p = none) (hroute : route s p = none) :
    transit p contended s = discard Reg.XCHG_FAB_DROP_CNT Reg.XCHG_FAB_STAT 7 (if contended then tdc 1 s else s) := by
  rw [transit_far hfar, hsrc, if_neg Bool.false_ne_true, if_neg hhops, hcopy]; dsimp only; rw [hroute]

theorem transit_copy (hcopy : copyPort s p = some port) : transit p contended s = passCopy port (oneHop p) contended (tick s) := by
  rw [transit_far hfar, hsrc, if_neg Bool.false_ne_true, if_neg hhops, hcopy]

end

/-! ### A multicast copy (R198, R387) -/

theorem passCopy_hole (h : holeBeyond s port = true) :
    passCopy port q contended s = discard Reg.XCHG_FAB_DROP_CNT Reg.XCHG_FAB_STAT 7 (if contended then tdc 1 s else s) := if_pos h

theorem passCopy_open (h : holeBeyond s port = false) : passCopy port q contended s = passOn port q contended s :=
  if_neg (by rw [h]; decide)

/-- Settles O41: a packet for another die meets the fence discard, the hop limit and its port in turn (the `transit` lemmas), and its output's turn is that of
`passOn_met` and `passOn_unmet`. Which packets from another package are multicast copies (`copyPort`) is the model's choice (log entry 39). -/
theorem transitForwards : Obligations.TransitForwards := by
  unfold Obligations.TransitForwards
  intro p contended s q far met out
  have ends {u : State} (h : transit p contended s = u) : exec (.transitForward p contended) s = .next (settle u) := congrArg finish h
  refine ⟨fun hnot => ends (transit_not_far hnot), fun hfar hsrc => ends (transit_fenced hfar hsrc),
    fun hfar hsrc hhops => ends (transit_hopLimit hfar hsrc hhops), fun port hfar hsrc hhops hcopy hroute => ?_,
    fun hfar hsrc hhops hcopy hroute => ends (transit_unrouted hfar hsrc hhops hcopy hroute),
    fun port hfar hsrc hhops hcopy hhole => ends ((transit_copy hfar hsrc hhops hcopy).trans (passCopy_hole hhole)),
    fun port hfar hsrc hhops hcopy hopen => ?_⟩
  · -- by its route
    have hpasses := transit_routed (contended := contended) hfar hsrc hhops hcopy hroute
    exact ⟨fun hmet => ends (hpasses.trans (passOn_met hmet)), fun hmet => ends (hpasses.trans (passOn_unmet hmet))⟩
  · -- a copy, into no hole
    have hpasses := (transit_copy (contended := contended) hfar hsrc hhops hcopy).trans (passCopy_open hopen)
    exact ⟨fun hmet => ends (hpasses.trans (passOn_met hmet)), fun hmet => ends (hpasses.trans (passOn_unmet hmet))⟩

end Sys2Proof.Machine
end

section
/-! What the timeouts of the exchange and of a combine find missing, and the kill they raise (R197, R211, R212, R229, R362, R371). -/

namespace Sys2Proof.Machine

variable {s : State} {q : W32} {stat b eng : Nat} {half : Bool} {u : Run} {h : Half} {x : Step}

/-! ### The kill of a timeout (R362, R371) -/

theorem timeoutKill_kills (hkeeper : keeperUp s = true) (hlive : capMode s ≠ 2) :
    timeoutKill q stat b s = raiseKill .timeout (some q) (tdc 4 (raiseBit stat b s)) :=
  if_neg (by simp [hkeeper, hlive])

theorem timeoutKill_off (hoff : capMode s = 2 ∨ keeperUp s = false) : timeoutKill q stat b s = s :=
  if_pos (by simpa using hoff)

/-! ### What each timeout looks for -/

theorem ackLate_missing (hrun : runOn s eng = some u) (hacks : u.acks ≠ []) : ackLate eng s = timeoutKill u.cmd.step Reg.XCHG_STAT 0 s := by
  unfold ackLate; rw [hrun]
  exact if_neg (by simpa using hacks)

theorem ackLate_none (hall : ∀ u, runOn s eng = some u → u.acks = []) : ackLate eng s = s := by
  unfold ackLate
  cases hrun : runOn s eng with
  | none => rfl
  | some u => exact if_pos (by rw [hall u hrun]; rfl)

/-- The half whose results RESULT_TIMEOUT finds missing. -/
def lateHalf (half : Bool) (s : State) : Option Half :=
  s.halves.find? (fun h => h.half == half && h.sendSignalled && decide (h.arrivals < h.expChunks))

theorem resultLate_missing (hlate : lateHalf half s = some h) : resultLate half s = timeoutKill h.step Reg.XCHG_STAT 1 s := by
  unfold lateHalf at hlate; unfold resultLate; rw [hlate]

theorem resultLate_none (hlate : lateHalf half s = none) : resultLate half s = s := by
  unfold lateHalf at hlate; unfold resultLate; rw [hlate]

/-- The server for which FETCH_RD_LATE finds a group not asked for. -/
def lateServer (s : State) : Option Run :=
  s.running.find? (fun u => u.eng == 6 && u.stage == 2 && bit (rParam u.cmd.raw) 13 && u.serves.any (fun g => !g.sent))

theorem rdLate_missing (hlate : lateServer s = some u) : rdLate s = timeoutKill u.cmd.step Reg.XCHG_FETCH_STAT 2 s := by
  unfold lateServer at hlate; unfold rdLate; rw [hlate]

theorem rdLate_none (hlate : lateServer s = none) : rdLate s = s := by
  unfold lateServer at hlate; unfold rdLate; rw [hlate]

/-- The live step for which FETCH_STREAM_SHORT finds a stream incomplete. -/
def shortStep (s : State) : Option Step := s.steps.find? (fun x => x.live && x.streams.any (fun t => !t.complete))

theorem streamShort_missing (hshort : shortStep s = some x) : streamShort s = timeoutKill x.seq Reg.XCHG_FETCH_STAT 1 s := by
  unfold shortStep at hshort; unfold streamShort; rw [hshort]

theorem streamShort_none (hshort : shortStep s = none) : streamShort s = s := by
  unfold shortStep at hshort; unfold streamShort; rw [hshort]

/-- The combine that waits for its shared rows. -/
def sharedWaiter (s : State) : Option Run := s.running.find? (fun u => u.eng == 7 && u.shWait)

/-- The counter of a combine's shared rows has reached its target. -/
def sharedThere (u : Run) (s : State) : Bool := reached s (cBlock s u.cmd.raw).shWait (cBlock s u.cmd.raw).shTarget

theorem sharedLate_missing (hwaits : sharedWaiter s = some u) (hlate : sharedThere u s = false) :
    sharedLate s = timeoutKill u.cmd.step Reg.COMB_STAT 4 s := by
  unfold sharedWaiter at hwaits; unfold sharedLate; rw [hwaits]
  exact if_neg (by rw [Bool.not_eq_true]; exact hlate)

theorem sharedLate_none (hall : ∀ u, sharedWaiter s = some u → sharedThere u s = true) : sharedLate s = s := by
  unfold sharedLate
  cases hwaits : s.running.find? (fun u => u.eng == 7 && u.shWait) with
  | none => rfl
  | some u => exact if_pos (hall u hwaits)

/-- Settles O42: what a timeout finds missing it gives to `timeoutKill` (the `_missing` lemmas), which is off in replay and with the Keeper down; with nothing
missing each does nothing (the `_none` lemmas). -/
theorem timeoutsKill : Obligations.TimeoutsKill := by
  unfold Obligations.TimeoutsKill
  refine ⟨fun i s q stat b hrow => ?_, fun s => ⟨fun eng hall => ?_, fun half hall => ?_, fun hall => ?_, fun hall => ?_, fun hall => ?_⟩⟩
  · have hexec : exec i s = .next (settle (timeoutKill q stat b s)) := by
      obtain ⟨eng, u, rfl, hrun, hacks, rfl, rfl, rfl⟩ | ⟨half, h, rfl, hlate, rfl, rfl, rfl⟩ | ⟨u, rfl, hlate, rfl, rfl, rfl⟩
        | ⟨x, rfl, hshort, rfl, rfl, rfl⟩ | ⟨u, rfl, hwaits, hlate, rfl, rfl, rfl⟩ := hrow
      · exact congrArg finish (ackLate_missing hrun hacks)
      · exact congrArg finish (resultLate_missing hlate)
      · exact congrArg finish (rdLate_missing hlate)
      · exact congrArg finish (streamShort_missing hshort)
      · exact congrArg finish (sharedLate_missing hwaits hlate)
    exact ⟨fun hkeeper hlive => by rw [hexec, timeoutKill_kills hkeeper hlive], fun hoff => by rw [hexec, timeoutKill_off hoff]⟩
  · exact congrArg finish (ackLate_none hall)
  · refine congrArg finish (resultLate_none (List.find?_eq_none.mpr fun h hh hlate => ?_))
    simp only [Bool.and_eq_true, beq_iff_eq, decide_eq_true_eq] at hlate
    obtain ⟨⟨hhalf, hsent⟩, hshort⟩ := hlate
    exact absurd (hall h hh hhalf hsent) (by omega)
  · refine congrArg finish (rdLate_none (List.find?_eq_none.mpr fun u hu hlate => ?_))
    simp only [Bool.and_eq_true, beq_iff_eq, List.any_eq_true, Bool.not_eq_true'] at hlate
    obtain ⟨⟨⟨heng, hstage⟩, hserver⟩, g, hg, hunsent⟩ := hlate
    exact absurd (hall u hu heng hstage hserver g hg) (by rw [hunsent]; decide)
  · refine congrArg finish (streamShort_none (List.find?_eq_none.mpr fun x hx hshort => ?_))
    simp only [Bool.and_eq_true, List.any_eq_true, Bool.not_eq_true'] at hshort
    obtain ⟨hlive, t, ht, hopen⟩ := hshort
    exact absurd (hall x hx hlive t ht) (by rw [hopen]; decide)
  · exact congrArg finish (sharedLate_none hall)

end Sys2Proof.Machine
end

section
/-! What the events of a flip do, each under its own conditions and not otherwise (R213, R214, R216, R296). -/

namespace Sys2Proof.Machine

variable {s u v : State} {c : Prop} {b : Bool}

/-- A meaning that acts under a condition, asked as a Boolean, ends in its action where the condition holds and leaves the state where it does not. -/
theorem finish_guarded (h : b = true ↔ c) :
    (c → finish (if b = true then u else v) = .next (settle u)) ∧ (¬c → finish (if b = true then u else v) = .next (settle v)) :=
  ⟨fun hc => congrArg finish (if_pos (h.mpr hc)), fun hc => congrArg finish (if_neg (mt h.mp hc))⟩

/-- The Keeper asks for a flip once the election is done and work waits for one (R214). -/
theorem flipWanted_iff : (keeperUp s && flag s Reg.XCHG_BCN_ELECT 2 && epochWork s) = true
    ↔ keeperUp s = true ∧ flag s Reg.XCHG_BCN_ELECT 2 = true ∧ epochWork s = true := by
  simp only [Bool.and_eq_true, and_assoc]

/-- A slice that forwards and is not fenced joins FLIP_READY at the end of stage 1 (R213). -/
theorem stagesEnd_iff : (forwarding s && !fenced s && stage1Done s) = true ↔ forwarding s = true ∧ fenced s = false ∧ stage1Done s = true := by
  simp only [Bool.and_eq_true, Bool.not_eq_true', and_assoc]

/-- It joins FLIP_RETIRE once, with two versions held and the old one settled (R213). -/
theorem retires_iff : (forwarding s && !fenced s && dual s && !s.flip.retireJoined && oldSettled s) = true
    ↔ forwarding s = true ∧ fenced s = false ∧ dual s = true ∧ s.flip.retireJoined = false ∧ oldSettled s = true := by
  simp only [Bool.and_eq_true, Bool.not_eq_true', and_assoc]

/-- A Benremin partition drains (R216). -/
theorem drains_iff : (keeperUp s && flag s Reg.XCHG_FAB_DRAIN 0) = true ↔ keeperUp s = true ∧ flag s Reg.XCHG_FAB_DRAIN 0 = true := by
  simp only [Bool.and_eq_true]

/-- A drain ends with a version prepared, no live step, nothing left to acknowledge and KILL_DONE released (R216, R296). -/
theorem drained_iff :
    (keeperUp s && flag s Reg.XCHG_FAB_DRAIN 0 && prep s && !(s.steps.any Step.live) && s.abortAcks.isEmpty && s.ownAcks.isEmpty && s.killDone) = true
      ↔ (keeperUp s = true ∧ flag s Reg.XCHG_FAB_DRAIN 0 = true) ∧ prep s = true ∧ s.steps.any Step.live = false ∧ s.abortAcks = [] ∧ s.ownAcks = []
        ∧ s.killDone = true := by
  simp only [Bool.and_eq_true, Bool.not_eq_true', List.isEmpty_iff, and_assoc]

/-- Settles O51: each event is guarded by its own conditions (`finish_guarded`). -/
theorem flipEventsAct : Obligations.FlipEventsAct := by
  unfold Obligations.FlipEventsAct
  intro s timer staged retires draining drained
  obtain ⟨hasks, hquiet⟩ := finish_guarded (flipWanted_iff (s := s))
  obtain ⟨hready, hstages⟩ := finish_guarded (stagesEnd_iff (s := s))
  obtain ⟨hretires, hheld⟩ := finish_guarded (retires_iff (s := s))
  obtain ⟨hkills, hflows⟩ := finish_guarded (drains_iff (s := s))
  obtain ⟨hchanges, hdrains⟩ := finish_guarded (drained_iff (s := s))
  exact ⟨hasks, hquiet, hready, hstages, hretires, hheld, hkills, hflows, hchanges, hdrains⟩

end Sys2Proof.Machine
end

section
/-! LOAD_MODEL, UNLOAD_MODEL, SWITCH_MODEL and PART_CONFIG once accepted (R214, R340, R351, R352, R356, R383). -/

namespace Sys2Proof.Machine

variable {s : State} {p : HostPkt}

/-! ### What the opcodes select (R300) -/

theorem hostDo_load (h : hOp p = 0x10) (s : State) : hostDo p s = doLoad p s := by unfold hostDo; rw [h]; rfl
theorem hostDo_unload (h : hOp p = 0x11) (s : State) : hostDo p s = doUnload p s := by unfold hostDo; rw [h]; rfl
theorem hostDo_switch (h : hOp p = 0x12) (s : State) : hostDo p s = doSwitch p s := by unfold hostDo; rw [h]; rfl
theorem hostDo_part (h : hOp p = 0x40) (s : State) : hostDo p s = doPart p s := by unfold hostDo; rw [h]; rfl

/-! ### PART_CONFIG (R340, R356) -/

theorem doPart_leave (h : bits (hPar p 2 1) 1 0 = 1) (s : State) : doPart p s = answer (mkReply p 0 []) (leavePart s) := if_pos h

/-- SET gives the own partition new values or joins another, stages the pools of the block where POOL_EN is set, and commits the reference. -/
theorem doPart_set (h : bits (hPar p 2 1) 1 0 ≠ 1) (s : State) : doPart p s = answer (mkReply p 0 [])
    (let b := rdN s (bits (hPar p 8 8) 47 0) 512
     let ms := mapMembers (rdN s (bits (hPar p 16 8) 47 0) 16384)
     let v := if assigned s && bits (hPar p 0 2) 9 0 == partId s then setPart p b ms s else joinPart p b ms s
     commitSelf (if bit (hPar p 3 1) 2 then stagePools b v else v)) := if_neg h

/-- Settles O22: an accepted packet does what its opcode says (`hostRow_acts`), and PART_CONFIG then attempts a held boundary again (`hostRow_acts_retry`). -/
theorem hostModelsAndPartitions : Obligations.HostModelsAndPartitions := by
  unfold Obligations.HostModelsAndPartitions
  intro p s hpass u m h
  have acts {op : Nat} (hreach : hostReaches op p s) (h9 : op ≠ 0x90) (h4 : op ≠ 0x40) : hostRow op (fun _ => true) p s = hostDo p u :=
    hostRow_acts hreach rfl hpass h9 h4
  have retries {sel : HostPkt → Bool} (hreach : hostReaches 0x40 p s) (hsel : sel p = true) : hostRow 0x40 sel p s = retryHold (doPart p u) := by
    rw [hostRow_acts_retry hreach hsel hpass (.inr rfl), hostDo_part hreach.1]
  refine ⟨fun hreach => ?_, fun hreach => ?_, fun hreach => ?_, fun hreach hleave => ?_, fun hreach hset => ?_⟩
  · exact congrArg finish ((acts hreach (by decide) (by decide)).trans (hostDo_load hreach.1 u))
  · exact congrArg finish ((acts hreach (by decide) (by decide)).trans (hostDo_unload hreach.1 u))
  · exact congrArg finish ((acts hreach (by decide) (by decide)).trans (hostDo_switch hreach.1 u))
  · exact congrArg finish ((retries hreach (by simpa using hleave)).trans (congrArg retryHold (doPart_leave hleave u)))
  · exact congrArg finish ((retries hreach (by simpa using hset)).trans (congrArg retryHold (doPart_set hset u)))

end Sys2Proof.Machine
end

section
/-! Packets and frames of no listed type, and die memory that does not answer (R189, R259, R261 to R263, R275, R382, R435). -/

namespace Sys2Proof.Machine

variable {s : State} {rsp : Bool} {p : Packet} {c b : Nat} {l : Nat} {f : Frame} {slot eng : Nat} {addr : Addr} {u : Run}

/-! ### Packets (R189) -/

/-- A packet of no listed type, or of the other network (R187). -/
def misplaced (rsp : Bool) (p : Packet) : Prop := pTyp p ∉ [1, 2, 3, 4, 5, 6, 9, 10, 11, 12] ∨ bit (pTyp p) 3 ≠ rsp

theorem badPacket_iff : badPacket rsp p = true ↔ pCrcOk p = false ∨ misplaced rsp p := by
  simp [badPacket, misplaced, or_assoc]

theorem pktVerdict_crc (hcrc : pCrcOk p = false) (s : State) : pktVerdict rsp p s = some (Reg.XCHG_FAB_CRC_CNT, 0) :=
  if_pos (by rw [hcrc]; rfl)

theorem pktVerdict_misplaced (hcrc : pCrcOk p = true) (htyp : misplaced rsp p) (s : State) :
    pktVerdict rsp p s = some (Reg.XCHG_FAB_DROP_CNT, 2) := by
  unfold pktVerdict
  rw [if_neg (by rw [hcrc]; decide), if_pos (by simpa [misplaced] using htyp)]

/-- A unicast packet that fails one of the first two checks, where nothing waits before it or to leave, is counted, and discarded by the check. -/
theorem exec_badTypePacket (htakes : takesPackets s = true) (hopen : fenced s = false) (hcredit : noCredit rsp s = false) (hwaits : waits rsp s = false)
    (hquiet : s.fabQ = []) (hsrc : srcFenced p s = false) (hcast : pMcast p = 0) (hbad : pCrcOk p = false ∨ misplaced rsp p)
    (hfails : pktVerdict rsp p s = some (c, b)) (hb : b ≠ 6) :
    exec (.badTypePacket rsp p) s = .next (settle (discard c Reg.XCHG_FAB_STAT b (bump64 Reg.XCHG_RX_PKT_LO 1 s))) := by
  have hrow : pktRowOf (.badTypePacket rsp p) = some (rsp, p, true, id) := by rw [← badPacket_iff.mpr hbad]; rfl
  rw [exec_pktRowOf_discards hrow htakes hopen hcredit hwaits hsrc hfails, discarded_other fun h => hb h.1,
    ejected_unicast (by omega) (by omega) hquiet]

/-! ### Frames (R261 to R263) -/

/-- A whole frame of no listed type, new on its link, is acknowledged and counted, before readiness too. -/
theorem exec_unlistedBeaconFrame (hform : listedFrame f = false) (hhears : hears s (fCls f)) (hwhole : f.whole = true) (hcrc : f.crc = crc16 (fBytes f))
    (hnew : repeated s l f = false) : exec (.unlistedBeaconFrame l f) s = .next (settle (bump Reg.XCHG_BCN_STALE_CNT 1 (frameTaken l f s))) := by
  have hrow : frameRowOf (.unlistedBeaconFrame l f) = some (l, f, !(listedFrame f), true, bump Reg.XCHG_BCN_STALE_CNT 1) := rfl
  have hcounts : sameCycle (bump Reg.XCHG_BCN_STALE_CNT 1) (frameTaken l f s) = bump Reg.XCHG_BCN_STALE_CNT 1 (frameTaken l f s) := sameCycle_eq rfl
  rw [exec_frameRowOf hrow, hform, if_pos (by rfl), recv_heard hhears, if_neg (by rw [hwhole]; decide), if_neg (by rw [hcrc]; simp),
    if_neg (by rw [hnew]; decide), if_neg (by simp), hcounts]

/-! ### Die memory (R382, R435) -/

theorem exec_memReadTimeout (hclk : clocked s = true) : exec (.memReadTimeout slot) s = .next (settle (onReadTimeout slot s)) :=
  congrArg finish (if_pos hclk)

theorem onReadTimeout_none (h : s.memTags.find? (fun t => t.slot == slot && t.busy) = none) : onReadTimeout slot s = s := by
  unfold onReadTimeout; rw [h]

theorem exec_memWriteTimeout (hclk : clocked s = true) : exec (.memWriteTimeout eng addr) s = .next (settle (onWriteTimeout eng addr s)) :=
  congrArg finish (if_pos hclk)

theorem onWriteTimeout_idle (h : runOn s eng = none) : onWriteTimeout eng addr s = s := by
  unfold onWriteTimeout; rw [h]

theorem onWriteTimeout_kills (hrun : runOn s eng = some u) (hstaging : inStaging addr = false) (hbelow : addr < Config.apertureBase) :
    onWriteTimeout eng addr s = raiseKill .poisonedRead (some u.cmd.step) s := by
  unfold onWriteTimeout; rw [hrun]
  exact if_neg (by simp [hstaging, hbelow])

/-- Settles O59: packets by `exec_badTypePacket`, frames by `exec_unlistedBeaconFrame`, the timeouts by what `onReadTimeout` and `onWriteTimeout` find
outstanding. That nothing outstanding changes nothing (log entry 1), that a read's slot is known by its tag, and that a write to staging or an aperture has no
timeout (log entry 81) are the model's choices. -/
theorem unlistedTrafficAndDieTimeoutsComplete : Obligations.UnlistedTrafficAndDieTimeoutsComplete := by
  unfold Obligations.UnlistedTrafficAndDieTimeoutsComplete
  intro s
  refine ⟨fun rsp p htakes hopen hcredit hwaits hquiet hsrc hcast => ⟨fun hcrc => ?_, fun hcrc htyp => ?_⟩,
    fun l f hform hhears hwhole hcrc hnew => exec_unlistedBeaconFrame hform hhears hwhole hcrc hnew, fun slot hclk hnone => ?_,
    fun eng addr hclk => ⟨fun hidle => ?_, fun u hrun hstaging hbelow => ?_⟩⟩
  · exact exec_badTypePacket htakes hopen hcredit hwaits hquiet hsrc hcast (.inl hcrc) (pktVerdict_crc hcrc s) (by decide)
  · exact exec_badTypePacket htakes hopen hcredit hwaits hquiet hsrc hcast (.inr htyp) (pktVerdict_misplaced hcrc htyp s) (by decide)
  · rw [exec_memReadTimeout hclk, onReadTimeout_none hnone]
  · rw [exec_memWriteTimeout hclk, onWriteTimeout_idle hidle]
  · rw [exec_memWriteTimeout hclk, onWriteTimeout_kills hrun hstaging hbelow]

end Sys2Proof.Machine
end

section
/-! What starting a COMBINE or COMBINE_ACK does: its checks, its wait for shared rows, and the start of its job (R229, R235, R238, R441). -/

namespace Sys2Proof.Machine

variable {s : State} {be : Bool} {op : Nat} {i : Instr} {r : RingRec} {x : Step}

/-! ### A job reads die memory first, or is done at once (R344, R382) -/

theorem readThen_die {w : Run} {j : Job} (hdie : dieBytes s j.reads ≠ 0) :
    readThen w j s = memRequests w.eng (rBe w.cmd.raw) (dieReads s j.reads) s := if_neg hdie

theorem readThen_staging {w : Run} {j : Job} (hdie : dieBytes s j.reads = 0) : readThen w j s = doJob w j s := if_pos hdie

/-! ### Before its checks -/

/-- The combine has its engine, and COMB_STAT shows whether it runs wide (R31, R226). -/
def combStarted (r : RingRec) (s : State) : State := setFld Reg.COMB_STAT 6 6 (b2n (combOf s r.step r.raw).wide) (startRun 7 r s)

theorem runOn_combStarted (h : startable s 7 be = some r) : runOn (combStarted r s) 7 = some (newRun s 7 r) :=
  runOn_startRun (startable_idle h)

theorem exec_combineRow (hrow : (i = .combine be ∧ op = 0x38) ∨ (i = .combineAck be ∧ op = 0x39)) (s : State) :
    exec i s = .next (settle (startComb be op s)) := by
  obtain ⟨rfl, rfl⟩ | ⟨rfl, rfl⟩ := hrow <;> rfl

theorem startComb_idle (h : startable s 7 be = none) (hnone : ∀ u ∈ s.running, u.eng = 7 → rOp u.cmd.raw ≠ op) : startComb be op s = s := by
  have hrun : s.running.any (fun u => u.eng == 7 && rOp u.cmd.raw == op) = false := by simpa using hnone
  unfold startComb
  rw [h]; dsimp only; rw [hrun]; rfl

theorem startComb_other (h : startable s 7 be = some r) (hop : rOp r.raw ≠ op) : startComb be op s = s := by
  unfold startComb
  rw [h]; exact if_pos hop

/-! ### Its checks, in order -/

section
variable (hstart : startable s 7 be = some r) (hop : rOp r.raw = op) (hstep : stepAt s r.step = some x)
  (hjoin : op = 0x39 → barFree s (commitId s x) = true)
include hstart hop hstep hjoin

/-- A record that may start takes its engine, and then the first check that stops it says how it goes on. -/
theorem startComb_starts : startComb be op s =
    let c := combOf s r.step r.raw
    let u := combStarted r s
    if widthLimit (bFld x.bound Reg.COMB_CFG 1 0) < c.w then raiseKill .widthBad (some r.step) (raiseBit Reg.COMB_STAT 5 u)
    else if areaBad u r.step c.xb = true then raiseKill .areaSmall (some r.step) (raiseBit Reg.XCHG_STAT 5 u)
    else if c.b.nsh ≠ 0 ∧ (!reached u c.b.shWait c.b.shTarget) = true then modRun 7 (fun v => { v with shWait := true }) u
    else runWork 7 (combJob u r) u := by
  have hfree : ¬ (decide (op = 0x39) && !barFree s (commitId s x)) = true := by simpa using hjoin
  unfold startComb
  rw [hstart]; dsimp only
  rw [if_neg (not_not.mpr hop), hstep]; dsimp only
  rw [if_neg hfree]; rfl

/-- A row wider than the bound limit kills the step (R238). -/
theorem startComb_wide (hwide : widthLimit (bFld x.bound Reg.COMB_CFG 1 0) < (combOf s r.step r.raw).w) :
    startComb be op s = raiseKill .widthBad (some r.step) (raiseBit Reg.COMB_STAT 5 (combStarted r s)) :=
  (startComb_starts hstart hop hstep hjoin).trans (if_pos hwide)

variable (hwidth : (combOf s r.step r.raw).w ≤ widthLimit (bFld x.bound Reg.COMB_CFG 1 0))
include hwidth

/-- An area too small for the plan's sum kills the step (R441). -/
theorem startComb_areaSmall (harea : areaBad (combStarted r s) r.step (combOf s r.step r.raw).xb = true) :
    startComb be op s = raiseKill .areaSmall (some r.step) (raiseBit Reg.XCHG_STAT 5 (combStarted r s)) := by
  rw [startComb_starts hstart hop hstep hjoin]; dsimp only
  rw [if_neg hwidth.not_gt, if_pos harea]

variable (harea : areaBad (combStarted r s) r.step (combOf s r.step r.raw).xb = false)
include harea

/-- It waits while shared rows are missing (R229). -/
theorem startComb_awaits (hshared : (combOf s r.step r.raw).b.nsh ≠ 0)
    (hmissing : reached (combStarted r s) (combOf s r.step r.raw).b.shWait (combOf s r.step r.raw).b.shTarget = false) :
    startComb be op s = modRun 7 (fun v => { v with shWait := true }) (combStarted r s) := by
  rw [startComb_starts hstart hop hstep hjoin]; dsimp only
  rw [if_neg hwidth.not_gt, if_neg (Bool.eq_false_iff.mp harea), if_pos ⟨hshared, by rw [hmissing]; rfl⟩]

/-- A combine that no check stops goes on with its job. -/
theorem startComb_goes (hthere : (combOf s r.step r.raw).b.nsh = 0
      ∨ reached (combStarted r s) (combOf s r.step r.raw).b.shWait (combOf s r.step r.raw).b.shTarget = true) :
    startComb be op s = readThen (newRun s 7 r) (combJob (combStarted r s) r) (combStarted r s) := by
  have hshared : ¬ ((combOf s r.step r.raw).b.nsh ≠ 0
      ∧ (!reached (combStarted r s) (combOf s r.step r.raw).b.shWait (combOf s r.step r.raw).b.shTarget) = true) := by
    rintro ⟨hn, hmissing⟩
    rw [hthere.resolve_left hn] at hmissing; cases hmissing
  rw [startComb_starts hstart hop hstep hjoin]; dsimp only
  rw [if_neg hwidth.not_gt, if_neg (Bool.eq_false_iff.mp harea), if_neg hshared]
  unfold runWork
  rw [runOn_combStarted hstart]

end

/-- Settles O36: the row leaves its state alone (`startComb_idle`, `startComb_other`), is stopped by a check (`startComb_wide`, `startComb_areaSmall`,
`startComb_awaits`) or goes on with its job (`startComb_goes`), which asks for its operands in die memory or ends as the lemmas about `doJob` say.
One read for each unbroken run of die memory (log entry 81) and the free values of an early read (log entry 60) are the model's choices. -/
theorem combineRowsRun : Obligations.CombineRowsRun := by
  unfold Obligations.CombineRowsRun
  intro s be op i r x hrow
  have leaves {v : State} (h : startComb be op s = v) : exec i s = .next (settle v) := by rw [exec_combineRow hrow, h]
  refine ⟨fun h hnone => leaves (startComb_idle h hnone), fun h hop => leaves (startComb_other h hop), fun hstart hop hstep hjoin => ?_⟩
  intro c u j d reads goes
  have works (h : goes) : startComb be op s = readThen (newRun s 7 r) j u := by
    obtain ⟨hwidth, harea, hthere⟩ := h
    exact startComb_goes hstart hop hstep hjoin hwidth harea hthere
  have asks (h : goes) (hdie : dieBytes u j.reads ≠ 0) := leaves ((works h).trans (readThen_die hdie))
  have does {v : State} (h : goes) (hdie : dieBytes u j.reads = 0) (hv : doJob (newRun s 7 r) j u = v) :=
    leaves ((works h).trans ((readThen_staging hdie).trans hv))
  exact ⟨fun hwide => leaves (startComb_wide hstart hop hstep hjoin hwide),
    fun hwidth harea => leaves (startComb_areaSmall hstart hop hstep hjoin hwidth harea),
    fun hwidth harea hshared hmissing => leaves (startComb_awaits hstart hop hstep hjoin hwidth harea hshared hmissing),
    asks,
    fun a h hdie hread => does h hdie (doJob_poisoned hread),
    fun k h hdie hread hkill => does h hdie (doJob_kills hread hkill),
    fun a h hdie hread hkill hpart => does h hdie (doJob_aborts_doneAs hread hkill hpart),
    fun h hdie hread hkill hpart =>
      ⟨fun hm => does h hdie (doJob_unmetered hread hkill hpart hm),
        fun hm htk hq => does h hdie (doJob_charged hread hkill hpart hm htk hq),
        fun hm hq => does h hdie (doJob_waits hread hkill hpart hm hq)⟩⟩

end Sys2Proof.Machine
end

section
/-! Beacon frames received: unheard, cut short, failing the CRC, repeated, stale or handled (R259, R261 to R264, R366, R400). -/

namespace Sys2Proof.Machine

variable {s : State} {l : Nat} {f : Frame} {form early : Bool} {k : State → State} {i : Instr}

/-! ### One lemma for each end of a reception -/

/-- A frame that is not the row's, or that the slice does not hear, changes nothing (R261, R264). -/
theorem exec_frameRow_unheard (hrow : frameRowOf i = some (l, f, form, early, k)) (h : form = false ∨ ¬hears s (fCls f)) :
    exec i s = .next (settle s) := by
  rw [exec_frameRowOf hrow]
  obtain rfl | hdeaf := h
  · rfl
  · rw [recv_deaf hdeaf, ite_self]

theorem exec_frameRow_received (hrow : frameRowOf i = some (l, f, true, early, k)) : exec i s = .next (settle (recvFrame l f early k s)) :=
  exec_frameRowOf hrow

section
variable (hhears : hears s (fCls f))
include hhears

theorem recv_truncated (hwhole : f.whole = false) :
    recvFrame l f early k s = raiseBit Reg.XCHG_BCN_STAT 1 (bump Reg.XCHG_BCN_TRUNC_CNT 1 s) := by
  rw [recv_heard hhears, if_pos (by rw [hwhole]; rfl)]

variable (hwhole : f.whole = true)
include hwhole

theorem recv_badCrc (hcrc : f.crc ≠ crc16 (fBytes f)) :
    recvFrame l f early k s = raiseBit Reg.XCHG_BCN_STAT 0 (bump Reg.XCHG_BCN_CRC_CNT 1 s) := by
  rw [recv_heard hhears, if_neg (by rw [hwhole]; decide), if_pos (bne_iff_ne.mpr hcrc)]

variable (hcrc : f.crc = crc16 (fBytes f))
include hcrc

/-- A whole frame with its CRC is repeated, or stale, or handled. -/
theorem recv_good :
    recvFrame l f early k s = if repeated s l f = true then ackFrame l (fCls f) s
      else if (!(ready s) && !early) = true then staleFrame (frameTaken l f s) else sameCycle k (frameTaken l f s) := by
  rw [recv_heard hhears, if_neg (by rw [hwhole]; decide), if_neg (by rw [hcrc]; simp), ready_taken]

theorem recv_repeated (hrep : repeated s l f = true) : recvFrame l f early k s = ackFrame l (fCls f) s := by
  rw [recv_good hhears hwhole hcrc, if_pos hrep]

variable (hnew : repeated s l f = false)
include hnew

theorem recv_stale (hready : ready s = false) (hearly : early = false) : recvFrame l f early k s = staleFrame (frameTaken l f s) := by
  rw [recv_good hhears hwhole hcrc, if_neg (Bool.eq_false_iff.mp hnew), if_pos (by rw [hready, hearly]; rfl)]

theorem recv_handled (h : ready s = true ∨ early = true) : recvFrame l f early k s = sameCycle k (frameTaken l f s) := by
  have hfresh : ¬(!(ready s) && !early) = true := by
    obtain h | h := h <;> simp [h]
  rw [recv_good hhears hwhole hcrc, if_neg (Bool.eq_false_iff.mp hnew), if_neg hfresh]

end

/-! ### A frame that fails the CRC (R259) -/

/-- Counting a bad frame leaves a canonical state canonical. -/
theorem settle_badCrc (hs : s.wf = true) :
    settle (raiseBit Reg.XCHG_BCN_STAT 0 (bump Reg.XCHG_BCN_CRC_CNT 1 s)) = raiseBit Reg.XCHG_BCN_STAT 0 (bump Reg.XCHG_BCN_CRC_CNT 1 s) :=
  settle_live_of_wf hs (setReg_live_wf _ (setReg_live_wf s (wf_live hs) _ _) _ _)

/-- Settles O48: the CRC takes a byte bit by bit (`crc16_snoc`), and every frame row discards a frame that fails it (`recv_badCrc`). -/
theorem beaconCrc : Obligations.BeaconCrc := by
  unfold Obligations.BeaconCrc
  intro shift
  refine ⟨⟨by decide +kernel, fun l b => crc16_snoc l b, by decide +kernel, fun f => rfl⟩, ?_⟩
  intro i l f early k s hs hrow hhears hwhole hcrc
  have hlive := wf_live hs
  refine ⟨raiseBit Reg.XCHG_BCN_STAT 0 (bump Reg.XCHG_BCN_CRC_CNT 1 s), ?_, ?_, ?_, fun o ho => ?_, rfl⟩
  · rw [exec_frameRow_received hrow, recv_badCrc hhears hwhole hcrc, settle_badCrc hs]
  · rw [raise_ne (by decide), bump_same hlive]
  · exact flag_raiseBit (setReg_live_wf s hlive _ _) _ (by decide)
  · obtain ⟨hcount, hstat⟩ : o ≠ Reg.XCHG_BCN_CRC_CNT ∧ o ≠ Reg.XCHG_BCN_STAT := by simpa using ho
    rw [raise_ne hstat, bump_ne hcount]

/-- Settles O49: every frame row ends in one of the receptions said above, whatever its frame does. -/
theorem framesReceived : Obligations.FramesReceived := by
  unfold Obligations.FramesReceived
  intro i l f form early k s hrow
  refine ⟨exec_frameRow_unheard hrow, ?_⟩
  rintro rfl hhears
  have ends {u : State} (h : recvFrame l f early k s = u) : exec i s = .next (settle u) := by rw [exec_frameRow_received hrow, h]
  exact ⟨fun hcut => ends (recv_truncated hhears hcut), fun hwhole hcrc =>
    ⟨fun hrep => ends (recv_repeated hhears hwhole hcrc hrep),
      fun hnew hready hearly => ends (recv_stale hhears hwhole hcrc hnew hready hearly),
      fun hnew h => ends (recv_handled hhears hwhole hcrc hnew h)⟩⟩

end Sys2Proof.Machine
end

section
/-! Beacon timers and link events: heartbeats, the election's settling, a tree's root missing, acknowledgements, resends, DARK, warm clusters
(R262 to R265, R272, R275, R388, R390, R403). -/

namespace Sys2Proof.Machine

variable {s : State} {l c r : Nat} {dark : Bool} {t : TxFrame}

/-! ### Heartbeats (R272) -/

/-- The argument of the slice's own HEARTBEATs: its DA, the tree in use, and whether the election is complete. -/
def beatArg (s : State) : Nat := ownDa s + fld s Reg.XCHG_BCN_ELECT 1 0 * 2 ^ 20 + fld s Reg.XCHG_BCN_ELECT 2 2 * 2 ^ 22

theorem onPeriod_silent (htx : bcnTx s = false) : onPeriod s = s := if_pos (by rw [htx]; rfl)

theorem onPeriod_beats (htx : bcnTx s = true) : onPeriod s = treeCut ((List.range 16).foldl (fun s l => countMiss l s)
    ((beatLinks s).foldl (fun u l => sendFrame l 3 (headOf 3 0x01 false false 0 0 (beatArg s)) none u) s)) :=
  if_neg (by rw [htx]; decide)

/-! ### The election (R275, R388) -/

theorem onSettle_roots (hseat : seatTree s = some r) (hup : forwarding s = true) (hclaims : electState s = 1) (hnone : s.elect.rootSeen = false) :
    onSettle s = becomeRoot r s := by
  unfold onSettle; rw [hseat]
  exact if_pos (by rw [hup, hclaims, hnone]; rfl)

theorem onSettle_passes (h : seatTree s = none ∨ forwarding s = false ∨ electState s ≠ 1 ∨ s.elect.rootSeen = true) : onSettle s = s := by
  unfold onSettle
  cases hseat : seatTree s with
  | none => rfl
  | some r =>
    refine if_neg ?_
    obtain h | h | h | h := h
    · rw [hseat] at h; cases h
    all_goals simp [h]

theorem exec_treeRootTimeout (hup : forwarding s = true) (hwaits : s.elect.waitRoot = true) :
    exec .treeRootTimeout s = .next (settle (nextTree (raiseBit Reg.REL_TREE (fld s Reg.XCHG_BCN_ELECT 1 0) s))) :=
  congrArg finish (if_pos (by rw [hup, hwaits]; rfl))

/-! ### The link layer (R262 to R265) -/

/-- The frame of a class that is sent and not yet acknowledged (R263). -/
def sentOf (c : Nat) (t : TxFrame) : Bool := t.cls == c && t.sent

theorem onFrameAck_frees (hpower : s.powered = true) (hclk : s.power.clkStopped = false) (hsent : (linkAt s l).tx.any (sentOf c) = true) :
    onFrameAck l c s = pumpClass l c (setFld Reg.XCHG_BCN_LINK l l 1
      (setLink l { linkAt s l with up := true, tx := dropFirst (sentOf c) (linkAt s l).tx } s)) :=
  (if_neg (by rw [hpower, hclk]; decide)).trans (if_neg (by rw [show (linkAt s l).tx.any (fun t => t.cls == c && t.sent) = true from hsent]; decide))

section
variable (htx : bcnTx s = true) (hlink : linkFailed s l = false) (hsent : (linkAt s l).tx.find? (sentOf c) = some t)
include htx hlink hsent

/-- A resend is held for a DARK neighbour, or fails the link, or sends the frame again. -/
theorem onResend_sent :
    onResend l c s = if ((linkAt s l).dark && c != 0 && c != 2) = true then raiseBit Reg.XCHG_BCN_STAT 9 s
      else if fld s Reg.XCHG_BCN_CFG 14 11 ≤ t.resends then linkFail l s
      else emit (.frame l (frameBeats s t.frame)) (bump Reg.XCHG_BCN_RETRY_CNT 1
        (setLink l { linkAt s l with tx := modFirst (sentOf c) (fun t => { t with resends := t.resends + 1 }) (linkAt s l).tx } s)) := by
  unfold onResend
  rw [if_neg (by rw [htx, hlink]; decide)]; dsimp only
  rw [show (linkAt s l).tx.find? (fun t => t.cls == c && t.sent) = some t from hsent]; rfl

theorem onResend_held (hdark : (linkAt s l).dark = true) (h0 : c ≠ 0) (h2 : c ≠ 2) : onResend l c s = raiseBit Reg.XCHG_BCN_STAT 9 s :=
  (onResend_sent htx hlink hsent).trans (if_pos (by simp [hdark, h0, h2]))

variable (hopen : (linkAt s l).dark = false ∨ c = 0 ∨ c = 2)
include hopen

theorem onResend_open :
    onResend l c s = if fld s Reg.XCHG_BCN_CFG 14 11 ≤ t.resends then linkFail l s
      else emit (.frame l (frameBeats s t.frame)) (bump Reg.XCHG_BCN_RETRY_CNT 1
        (setLink l { linkAt s l with tx := modFirst (sentOf c) (fun t => { t with resends := t.resends + 1 }) (linkAt s l).tx } s)) := by
  refine (onResend_sent htx hlink hsent).trans (if_neg ?_)
  obtain h | rfl | rfl := hopen
  · simp [h]
  · simp
  · simp

end

theorem onDark_notes (hpower : s.powered = true) :
    onDark l dark s =
      (let u := setLink l { linkAt s l with dark := dark, monitored := if dark then (linkAt s l).monitored else false, heard := false, missed := 0 } s
       if dark || !(bcnTx u) then u else (List.range 4).foldl (fun s c => pumpClass l c s) u) :=
  if_neg (by rw [hpower]; decide)

/-! ### Recovery (R390) -/

theorem exec_warmDone (hup : keeperUp s = true) (hawaits : s.recov.warm.contains c = true) :
    exec (.warmDone c) s = .next (settle (joinRecover { s with recov := { s.recov with warm := s.recov.warm.filter (· != c) } })) :=
  congrArg finish (if_pos (by rw [hup, hawaits]; rfl))

/-- Settles O50: each row by the lemma that says what its timer or event does under the clause's conditions. -/
theorem beaconTimersAct : Obligations.BeaconTimersAct := by
  unfold Obligations.BeaconTimersAct
  intro s l c arg sent
  have ends {v w : State} (h : v = w) : finish v = .next (settle w) := congrArg finish h
  refine ⟨fun htx => ends (onPeriod_beats htx), fun htx => ends (onPeriod_silent htx),
    fun r hseat hup hclaims hnone => ends (onSettle_roots hseat hup hclaims hnone), fun h => ends (onSettle_passes h),
    exec_treeRootTimeout, fun hpower hclk hsent => ends (onFrameAck_frees hpower hclk hsent), ?_, ?_, ?_, exec_warmDone⟩
  · intro t htx hlink hsent hopen
    have hresend := onResend_open htx hlink hsent hopen
    exact ⟨fun hmax => ends (hresend.trans (if_pos hmax)), fun hless => ends (hresend.trans (if_neg hless.not_ge))⟩
  · exact fun t htx hlink hsent hdark h0 h2 => ends (onResend_held htx hlink hsent hdark h0 h2)
  · rintro u dark hpower rfl
    exact ends (onDark_notes hpower)

end Sys2Proof.Machine
end

section
/-! Detections: the scrubber, sounding, the clock check and the Keeper's fatal conditions (R278, R279, R379, R385, R395, R396, R402, R409). -/

namespace Sys2Proof.Machine

variable {s : State} {code unit detail b w bad : Nat} {addr : Addr} {x : Ecc} {l : List Nat}

/-! ### The loss of the slice (R273, R385) -/

theorem linkOnly_sendAll (but c head : Nat) (pay : Option W64) (s : State) : LinkOnly s (sendAll but c head pay s) :=
  .foldl (fun u l => linkOnly_sendFrame l c head pay u) _ s

/-- A cause of the slice's loss does no more before readiness, after a clock loss, and in a slice that is lost already (R400, R402, R409; log entry 107). -/
def lossless (s : State) : Prop := ready s = false ∨ s.power.clkStopped = true ∨ (fenced s = true ∧ s.alarm = true)

theorem ownLoss_lossless (h : lossless s) : ownLoss code unit detail addr s = s := by
  refine if_pos ?_
  obtain h | h | ⟨hfenced, halarm⟩ := h
  · simp [h]
  · simp [h]
  · simp [hfenced, halarm]

theorem ownLoss_loses (h : ¬lossless s) : ownLoss code unit detail addr s = loseSlice code unit detail addr s :=
  if_neg (by simpa [lossless, or_assoc] using h)

theorem LinkOnly.steps_eq {t : State} (h : LinkOnly s t) : t.steps = s.steps := by rw [h]

/-- A slice that is lost has asserted its alarm; its engines, rings, fabric queues and hold area are empty, and its steps are as the fault record
left them (R385). -/
theorem loseSlice_empties (code unit detail : Nat) (addr : Addr) (s : State) :
    let t := settle (loseSlice code unit detail addr s)
    t.alarm = true ∧ t.running = [] ∧ t.ringq = [] ∧ t.fabQ = [] ∧ t.fab.req = [] ∧ t.fab.rsp = [] ∧ t.hold = []
      ∧ t.steps = (faultRec code unit (ownDa s) detail addr noStep s).steps :=
  ⟨rfl, rfl, rfl, rfl, rfl, rfl, rfl, (linkOnly_sendAll _ _ _ _ _).steps_eq⟩

/-! ### The Keeper's fatal conditions (R278, R279; log entry 107) -/

theorem flag_raiseBit_ne {o p : Nat} (h : o ≠ p) (c b : Nat) (s : State) : flag (raiseBit p b s) o c = flag s o c := by
  unfold flag; rw [raise_ne h]

/-- The Keeper's status bits say nothing of readiness, clocks, fence and alarm. -/
theorem lossless_keepStat : lossless (raiseBit Reg.KEEP_STAT b s) ↔ lossless s := by
  unfold lossless ready fenced
  rw [flag_raiseBit_ne (by decide), flag_raiseBit_ne (by decide)]; rfl

theorem lossless_forwarding (hup : forwarding s = true) : lossless s ↔ fenced s = true ∧ s.alarm = true := by
  obtain ⟨⟨⟨-, hready⟩, -⟩, hclk⟩ : ((s.powered = true ∧ ready s = true) ∧ pwrState s < 2) ∧ s.power.clkStopped = false := by
    simpa [forwarding] using hup
  simp [lossless, hready, hclk]

theorem keeperFatal_loses (hup : forwarding s = true) (hopen : fenced s = false ∨ s.alarm = false) :
    keeperFatal code b s = loseSlice code 1 0 0 (raiseBit Reg.KEEP_STAT b s) := by
  have hloses : ¬lossless (raiseBit Reg.KEEP_STAT b s) := by
    rw [lossless_keepStat, lossless_forwarding hup]
    rintro ⟨hfenced, halarm⟩
    simp [hfenced, halarm] at hopen
  exact (if_pos hup).trans (ownLoss_loses hloses)

theorem keeperFatal_lost (hup : forwarding s = true) (hfenced : fenced s = true) (halarm : s.alarm = true) :
    keeperFatal code b s = raiseBit Reg.KEEP_STAT b s :=
  (if_pos hup).trans (ownLoss_lossless (lossless_keepStat.mpr ((lossless_forwarding hup).mpr ⟨hfenced, halarm⟩)))

theorem keeperFatal_bringup (hdown : forwarding s = false) (hphase : inPhase s 2 = true) :
    keeperFatal code b s = bringupFail (raiseBit Reg.KEEP_STAT b s) :=
  (if_neg (Bool.eq_false_iff.mp hdown)).trans (if_pos hphase)

theorem keeperFatal_reset (hdown : forwarding s = false) (hphase : inPhase s 2 = false) : keeperFatal code b s = s :=
  (if_neg (Bool.eq_false_iff.mp hdown)).trans (if_neg (Bool.eq_false_iff.mp hphase))

/-! ### The clock check (R409) -/

theorem exec_clockWindow {m : BitVec 4} (hpower : s.powered = true) (hphase : 1 ≤ fld s Reg.REL_PWR_STAT 4 3) (hawake : pwrState s ≠ 2)
    (hclk : s.power.clkStopped = false) : exec (.clockWindow m) s = .next (settle (onClockWindow m.toNat s)) :=
  congrArg finish (if_pos (by simp [hpower, hphase, hawake, hclk]))

/-- The state in which a window's result is kept. -/
def windowKept (bad : Nat) (s : State) : State := { s with power := { s.power with clkBad := bad } }

theorem onClockWindow_kept (h : Nat.land bad s.power.clkBad = 0) : onClockWindow bad s = windowKept bad s := if_pos h

theorem onClockWindow_lost (h : Nat.land bad s.power.clkBad ≠ 0) :
    onClockWindow bad s =
      (let u := raiseBit Reg.REL_RESET_CAUSE 3 (setFld Reg.REL_CLK_STAT 3 0 (Nat.lor (fld s Reg.REL_CLK_STAT 3 0) (Nat.land bad s.power.clkBad))
         (windowKept bad s))
       { u with alarm := true, power := { u.power with clkStopped := true } }) := if_neg h

/-! ### The scrubber (R379) -/

theorem exec_scrubVisit_on (hclk : clocked s = true) (hon : flag s Reg.REL_SCRUB 0 = true) :
    exec (.scrubVisit x) s = .next (settle (onScrub x s)) := congrArg finish (if_pos (by rw [hclk, hon]; rfl))

theorem exec_scrubVisit_off (h : clocked s = false ∨ flag s Reg.REL_SCRUB 0 = false) : exec (.scrubVisit x) s = .next (settle s) := by
  refine congrArg finish (if_neg ?_)
  obtain h | h := h <;> simp [h]

/-- The word of staging that the next visit checks. -/
def scrubWord (s : State) : Nat := Config.stagingBase / 8 + s.scrubPos

/-- The scrubber moves on, and counts a pass after the last word. -/
def scrubMoved (s : State) : State :=
  if s.scrubPos + 1 < Config.stagingSize / 8 then { s with scrubPos := s.scrubPos + 1 } else bump Reg.REL_SCRUB_PASS 1 { s with scrubPos := 0 }

/-- A visit finds a word uncorrectable that is poisoned already, or whose check says so (R378). -/
theorem wordBad_iff : wordBad s true x w = true ↔ s.poison.contains w = true ∨ x = .uncorrectable := by
  cases x <;> simp [wordBad]

theorem onScrub_bad (h : s.poison.contains (scrubWord s) = true ∨ x = .uncorrectable) :
    onScrub x s = scrubMoved (ueDetect (scrubWord s * 8) 2 noStep s) :=
  congrArg scrubMoved (if_pos (wordBad_iff.mpr h))

theorem onScrub_passes (h : s.poison.contains (scrubWord s) = false) (hx : x ≠ .uncorrectable) :
    onScrub x s = scrubMoved (match wordFixed x with | some b => ceDetect (scrubWord s * 8) b s | none => s) :=
  congrArg scrubMoved (if_neg fun hbad => (wordBad_iff.mp hbad).elim (Bool.eq_false_iff.mp h) hx)

theorem onScrub_clean (h : s.poison.contains (scrubWord s) = false) : onScrub .clean s = scrubMoved s := onScrub_passes h nofun

theorem onScrub_corrected (h : s.poison.contains (scrubWord s) = false) :
    onScrub (.corrected b) s = scrubMoved (ceDetect (scrubWord s * 8) b s) := onScrub_passes h nofun

/-! ### Sounding (R395, R396) -/

theorem exec_soundSample_on {a b c d e : Byte} (hpower : s.powered = true) (hon : flag s Reg.REL_SND_CTL 0 = true) :
    exec (.soundSample a b c d e) s = .next (settle (onSound [a.toNat, b.toNat, c.toNat, d.toNat, e.toNat] s)) :=
  congrArg finish (if_pos (by rw [hpower, hon]; rfl))

theorem exec_soundSample_off {a b c d e : Byte} (h : ¬(s.powered = true ∧ flag s Reg.REL_SND_CTL 0 = true)) :
    exec (.soundSample a b c d e) s = .next (settle s) := congrArg finish (if_neg (by simpa using h))

/-- The state in which a sample's margins are noted. -/
def sounded (l : List Nat) (s : State) : State := (withIdx 0 l).foldl (fun s e => sndMargin e.1 e.2 s) s

/-- SND_STAT shows an event and the domain of the lowest margin. -/
def soundEvent (b : Nat) (l : List Nat) (s : State) : State := setFld Reg.REL_SND_STAT 6 4 (sndLowest 0 l).2 (raiseBit Reg.REL_SND_STAT b (sounded l s))

/-- VOFS once a sample's margins are noted, before any step that they ask for (log entry 37). -/
def soundVofs (l : List Nat) (s : State) : Nat := fld (sounded l s) Reg.REL_SND_VOFS 3 0

/-- A sounding record's detail: domain, margin and VOFS. -/
def soundDetail (l : List Nat) (s : State) : Nat := (sndLowest 0 l).2 + (sndLowest 0 l).1 * 2 ^ 8 + soundVofs l s * 2 ^ 16

theorem onSound_fatal (h : (sndLowest 0 l).1 ≤ fld (sounded l s) Reg.REL_SND_THR 23 16) :
    onSound l s = ownLoss 0x86 23 (soundDetail l s) 0 (soundEvent 2 l s) := if_pos h

section
variable (hlives : fld (sounded l s) Reg.REL_SND_THR 23 16 < (sndLowest 0 l).1)
include hlives

/-- A sample that is not fatal finds VOFS at its limit, asks for a step of VOFS, or does nothing more. -/
theorem onSound_lives :
    onSound l s =
      if ((sndLowest 0 l).1 ≤ fld (sounded l s) Reg.REL_SND_THR 15 8 && soundVofs l s == fld (sounded l s) Reg.REL_SND_CTL 12 9) = true
      then faultRec 0x19 23 (ownDa (sounded l s)) (soundDetail l s) 0 noStep (soundEvent 1 l s)
      else if ((sndLowest 0 l).1 ≤ fld (sounded l s) Reg.REL_SND_THR 7 0 && decide (soundVofs l s < fld (sounded l s) Reg.REL_SND_CTL 12 9)) = true
      then (let y := faultRec 0x18 23 (ownDa (sounded l s)) (soundDetail l s) 0 noStep (soundEvent 0 l s)
            { y with power := { y.power with vofsUp := true } })
      else sounded l s := if_neg hlives.not_ge

theorem onSound_limit (hlow : (sndLowest 0 l).1 ≤ fld (sounded l s) Reg.REL_SND_THR 15 8)
    (hmax : soundVofs l s = fld (sounded l s) Reg.REL_SND_CTL 12 9) :
    onSound l s = faultRec 0x19 23 (ownDa (sounded l s)) (soundDetail l s) 0 noStep (soundEvent 1 l s) :=
  (onSound_lives hlives).trans (if_pos (by simp [hlow, hmax]))

theorem onSound_steps (hlow : (sndLowest 0 l).1 ≤ fld (sounded l s) Reg.REL_SND_THR 7 0)
    (hmax : soundVofs l s < fld (sounded l s) Reg.REL_SND_CTL 12 9) :
    onSound l s = (let y := faultRec 0x18 23 (ownDa (sounded l s)) (soundDetail l s) 0 noStep (soundEvent 0 l s)
      { y with power := { y.power with vofsUp := true } }) :=
  (onSound_lives hlives).trans ((if_neg (by simp [hmax.ne])).trans (if_pos (by simp [hlow, hmax])))

theorem onSound_passes
    (hlimit : ¬((sndLowest 0 l).1 ≤ fld (sounded l s) Reg.REL_SND_THR 15 8 ∧ soundVofs l s = fld (sounded l s) Reg.REL_SND_CTL 12 9))
    (hstep : ¬((sndLowest 0 l).1 ≤ fld (sounded l s) Reg.REL_SND_THR 7 0 ∧ soundVofs l s < fld (sounded l s) Reg.REL_SND_CTL 12 9)) :
    onSound l s = sounded l s :=
  (onSound_lives hlives).trans ((if_neg (by simpa using hlimit)).trans (if_neg (by simpa using hstep)))

end

/-- Settles O52: each row acts by the lemma for its condition. What the Keeper's fatal conditions do in each state is the model's choice (log entry 107). -/
theorem detectionsAct : Obligations.DetectionsAct := by
  unfold Obligations.DetectionsAct
  intro s sounds checks lost
  have ends {v w : State} (h : v = w) : finish v = .next (settle w) := congrArg finish h
  have loses (code b : Nat) (hup : forwarding s = true) (hopen : fenced s = false ∨ s.alarm = false) :
      ∃ t u, finish (keeperFatal code b s) = .next t ∧ u = faultRec code 1 (ownDa s) 0 0 noStep (raiseBit Reg.KEEP_STAT b s) ∧ lost t u :=
    ⟨_, _, ends (keeperFatal_loses hup hopen), rfl, loseSlice_empties code 1 0 0 (raiseBit Reg.KEEP_STAT b s)⟩
  refine ⟨fun f => exec_scrubVisit_on, fun f => exec_scrubVisit_off, fun a b c d e h => exec_soundSample_on h.1 h.2,
    fun a b c d e => exec_soundSample_off, ?_, ?_, fun hup hopen => ⟨loses 0x80 0 hup hopen, loses 0x81 1 hup hopen⟩,
    fun hup hopen => ⟨ends (keeperFatal_loses hup hopen), ends (keeperFatal_loses hup hopen)⟩,
    fun hup hfenced halarm => ⟨ends (keeperFatal_lost hup hfenced halarm), ends (keeperFatal_lost hup hfenced halarm)⟩,
    fun hdown hphase => ⟨ends (keeperFatal_bringup hdown hphase), ends (keeperFatal_bringup hdown hphase)⟩,
    fun hdown hphase => ⟨ends (keeperFatal_reset hdown hphase), ends (keeperFatal_reset hdown hphase)⟩⟩
  · rintro bad ⟨hpower, hphase, hawake, hclk⟩ hgood
    exact (exec_clockWindow hpower hphase hawake hclk).trans (ends (onClockWindow_kept hgood))
  · rintro bad u ⟨hpower, hphase, hawake, hclk⟩ hbad rfl
    exact (exec_clockWindow hpower hphase hawake hclk).trans (ends (onClockWindow_lost hbad))

/-- Settles O57: the Keeper's fatal conditions by `keeperFatal_loses`, the clock check, the scrubber and sounding by one lemma for each outcome. What a
slice that is lost already does (log entry 107), and that the detail holds VOFS before its step (log entry 37), are the model's choices. -/
theorem detectionsComplete : Obligations.DetectionsComplete := by
  unfold Obligations.DetectionsComplete
  intro s lose moved w
  have ends {v w : State} (h : v = w) : finish v = .next (settle w) := congrArg finish h
  refine ⟨fun hup hopen => ends (keeperFatal_loses hup hopen), fun hup hopen => ends (keeperFatal_loses hup hopen), ?_, ?_, ?_⟩
  · intro bad hpower hphase hawake hclk
    have window {v : State} (h : onClockWindow bad.toNat s = v) : exec (.clockWindow bad) s = .next (settle v) :=
      (exec_clockWindow hpower hphase hawake hclk).trans (ends h)
    exact ⟨fun hgood => window (onClockWindow_kept hgood), fun hbad => window (onClockWindow_lost hbad)⟩
  · intro hclk hon
    have visits {x : Ecc} {v : State} (h : onScrub x s = v) : exec (.scrubVisit x) s = .next (settle v) :=
      (exec_scrubVisit_on hclk hon).trans (ends h)
    exact ⟨fun hclean => visits (onScrub_clean hclean), fun b hclean => visits (onScrub_corrected hclean), fun f hbad => visits (onScrub_bad hbad)⟩
  · intro a b c d e hpower hon l x m dom vofs vmax detail event now _
    have sounds {v : State} (h : onSound l s = v) : now v := (exec_soundSample_on hpower hon).trans (ends h)
    exact ⟨fun hfatal hloses => sounds ((onSound_fatal hfatal).trans (ownLoss_loses hloses)),
      fun hfatal hlost => sounds ((onSound_fatal hfatal).trans (ownLoss_lossless hlost)),
      fun hlives hlow hmax => sounds (onSound_limit hlives hlow hmax),
      fun hlives hlow hmax => sounds (onSound_steps hlives hlow hmax),
      fun hlives hlimit hstep => sounds (onSound_passes hlives hlimit hstep)⟩

end Sys2Proof.Machine
end

section
/-! What a row that brings a packet to the Keeper does with it: taken, checked and turned away, or left (R297, R303 to R306, R400, R407). -/

namespace Sys2Proof.Machine

open State

variable {s t : State} {p : HostPkt} {i : Instr} {op o : Nat} {b : Bool} {sel : HostPkt → Bool} {k : Nat × Nat × Nat} {r : Reply}

/-! ### The rows (R300) -/

/-- Every row of `hostRowOf` brings its packet by its opcode, and `sel` tells whether the packet's form is the row's. -/
theorem exec_hostRowOf (h : hostRowOf i = some (p, op, b)) : ∃ sel, sel p = b ∧ exec i s = .next (settle (hostRow op sel p s)) := by
  unfold hostRowOf at h
  split at h <;> cases h <;> exact ⟨_, rfl, rfl⟩

/-- A packet that reaches the Keeper by a row of its form is taken. -/
theorem exec_hostRowOf_taken (hrow : hostRowOf i = some (p, op, true)) (hreach : hostReaches op p s) : exec i s = .next (settle (takePkt p s)) := by
  obtain ⟨sel, hsel, hexec⟩ := exec_hostRowOf (s := s) hrow
  rw [hexec, hostRow_taken hreach hsel]

/-- A closed mailbox answers a packet of the row's opcode and form. -/
theorem hostRow_closed (hop : hOp p = op) (hsel : sel p = true) (hup : ctlUp s = true) (hclosed : bellClosed s = true) :
    hostRow op sel p s = closedBell p s := by
  unfold hostRow
  rw [if_neg (by simp [hup, hop, hsel]), if_pos hclosed]

/-- A packet of another row, one the control port does not bring, and one an open Keeper cannot take are left (log entry 80). -/
theorem hostRow_leaves (h : sel p = false ∨ hOp p ≠ op ∨ ctlUp s = false ∨ (bellClosed s = false ∧ (s.mboxPkt ≠ none ∨ mayTake p s = false))) :
    hostRow op sel p s = s := by
  unfold hostRow
  by_cases hrow : (!(ctlUp s) || hOp p != op || !(sel p)) = true
  · exact if_pos hrow
  · rw [if_neg hrow]
    simp only [Bool.or_eq_true, Bool.not_eq_true', bne_iff_ne, not_or, Bool.not_eq_false, not_not] at hrow
    obtain ⟨⟨hup, hop⟩, hsel⟩ := hrow
    obtain h | h | h | ⟨hopen, hfull⟩ := h
    · rw [hsel] at h; nomatch h
    · exact absurd hop h
    · rw [hup] at h; nomatch h
    · rw [if_neg (by rw [hopen]; decide), if_neg]
      rw [Bool.and_eq_true, Option.isNone_iff_eq_none]
      rintro ⟨hnone, hmay⟩
      exact hfull.elim (fun h => h hnone) (fun h => by rw [hmay] at h; nomatch h)

/-! ### Canonical states -/

/-- A canonical state stays so where live registers and memory do and no other map changes. -/
theorem wf_of_only (h : s.wf = true) (honly : t = { s with live := t.live, mem := t.mem, log := t.log, replies := t.replies, replyq := t.replyq })
    (hlive : cellWf regReset t.live = true) (hmem : cellWf memDefault t.mem = true) : t.wf = true := by
  rw [honly]
  simp only [State.wf, Bool.and_eq_true] at h ⊢
  obtain ⟨⟨⟨⟨⟨⟨-, hstaged⟩, hcnt⟩, hpub⟩, hmbox⟩, -⟩, hnvm⟩ := h
  exact ⟨⟨⟨⟨⟨⟨hlive, hstaged⟩, hcnt⟩, hpub⟩, hmbox⟩, hmem⟩, hnvm⟩

theorem bump_wf (h : s.wf = true) (o n : Nat) : (bump o n s).wf = true := wf_of_only h rfl (setReg_live_wf s (wf_live h) o _) (wf_mem (s := s) h)

/-! ### Replies and rejections (R297, R305) -/

theorem answer_queue (r : Reply) (s : State) : (answer r s).replies ++ (answer r s).replyq = s.replies ++ s.replyq ++ [r] := by
  rw [answer_eq]
  split
  next h => simp [h.2]
  next => simp

theorem answer_only (r : Reply) (s : State) : answer r s = { s with replies := (answer r s).replies, replyq := (answer r s).replyq } := by
  unfold answer; split <;> rfl

/-- What `reject` leaves where no poisoned word was met. -/
def rejected (r : Reply) (s : State) : State := logEnter 0x02 0 (replyWords r) (bump Reg.KEEP_REJ_CNT 1 (answer r s))

theorem reject_rejOf (p : HostPkt) (k : Nat × Nat × Nat) (s : State) :
    reject p (rejOf k) s = rejected (mkReply p k.1 [0xFFFFFFFF, k.2.1, k.2.2]) s := rfl

/-- A rejection's log packet leaves what its reply and its count give. -/
theorem rejected_logOnly (r : Reply) (s : State) : LogOnly (bump Reg.KEEP_REJ_CNT 1 (answer r s)) (rejected r s) := logOnly_enter _ _ _ _

theorem rejected_only (r : Reply) (s : State) : rejected r s = { s with
    live := (rejected r s).live, log := (rejected r s).log, replies := (answer r s).replies, replyq := (answer r s).replyq } := by
  have hcount : bump Reg.KEEP_REJ_CNT 1 (answer r s) = { s with
      live := (bump Reg.KEEP_REJ_CNT 1 (answer r s)).live, replies := (answer r s).replies, replyq := (answer r s).replyq } := by
    unfold bump; rw [answer_only]; rfl
  rw [(rejected_logOnly r s).1, hcount]

theorem reg_answer (r : Reply) (s : State) (o : Nat) : reg (answer r s) o = reg s o := by rw [answer_only]; rfl

theorem reg_rejected_count (h : cellWf regReset s.live = true) : reg (rejected r s) Reg.KEEP_REJ_CNT = min (reg s Reg.KEEP_REJ_CNT + 1) 0xFFFFFFFF := by
  rw [(rejected_logOnly r s).2.1 _ (by decide), bump_same (by rw [answer_only]; exact h), reg_answer]

theorem reg_rejected_ne (ho : o ≠ Reg.KEEP_REJ_CNT) (hlog : o ∉ logRegs) : reg (rejected r s) o = reg s o := by
  rw [(rejected_logOnly r s).2.1 _ hlog, bump_ne ho, reg_answer]

theorem rejected_live_wf (h : cellWf regReset s.live = true) : cellWf regReset (rejected r s).live = true :=
  (rejected_logOnly r s).2.2 (setReg_live_wf _ (by rw [answer_only]; exact h) _ _)

theorem rejected_wf (h : s.wf = true) : (rejected r s).wf = true :=
  wf_of_only h (by rw [rejected_only]) (rejected_live_wf (wf_live h)) (by rw [rejected_only]; exact wf_mem (s := s) h)

/-! ### The state a packet is checked in (R303, R366) -/

/-- The checks of scope and partition read PART_ID alone. -/
theorem partChecks_congr (h : reg t Reg.PART_ID = reg s Reg.PART_ID) : partChecks t p = partChecks s p := by
  unfold partChecks assigned partId flag fld; rw [h]

theorem reg_aperMiss_ne (hstat : o ≠ Reg.COMB_POOL_STAT) (hcount : o ≠ Reg.COMB_APER_MISS_CNT) (a : Addr) (n : Nat) (s : State) :
    reg (aperMiss a n s) o = reg s o := by
  unfold aperMiss; split
  · rw [raise_ne hstat, bump_ne hcount]
  · rfl

theorem reg_missFold_ne (hstat : o ≠ Reg.COMB_POOL_STAT) (hcount : o ≠ Reg.COMB_APER_MISS_CNT) (l : List (Addr × Nat)) (s : State) :
    reg (l.foldl (fun s r => aperMiss r.1 r.2 s) s) o = reg s o := by
  induction l generalizing s with
  | nil => rfl
  | cons r l ih => rw [List.foldl_cons, ih, reg_aperMiss_ne hstat hcount]

/-- Without capture or replay a packet makes no record. -/
theorem capHost_off (h1 : capMode s ≠ 1) (h2 : capMode s ≠ 2) (p : HostPkt) : capHost p s = s := by
  unfold capHost capEvent capWrite
  rw [if_neg (fun h => h2 h.2.1)]; dsimp only
  rw [if_neg (by simpa using h2), if_pos (by simpa using h1)]

theorem firstBad_append {l : List Cause} (h : firstBad l = some k) (m : List Cause) : firstBad (l ++ m) = some k := by
  unfold firstBad at *
  obtain ⟨c, hc, hk⟩ := Option.map_eq_some_iff.mp h
  rw [List.find?_append, hc, Option.some_or, Option.map_some, hk]

/-- A packet that fails a check before its opcode's own has none of its ranges read. -/
theorem takeRanges_head (h : firstBad (hdrChecks p ++ partChecks s p) = some k) : takeRanges p s = [] := by
  unfold takeRanges; dsimp only
  rw [firstBad_append h]; rfl

/-- Outside capture and replay a packet that fails a check of its header, scope or partition is counted, and nothing else comes before its rejection. -/
theorem hostSeen_head (h1 : capMode s ≠ 1) (h2 : capMode s ≠ 2) (h : firstBad (hdrChecks p ++ partChecks (hostSeen p s) p) = some k) :
    hostSeen p s = bump Reg.KEEP_MB_ACC_CNT 1 s := by
  have hmode : capMode (bump Reg.KEEP_MB_ACC_CNT 1 s) = capMode s := by unfold capMode fld; rw [bump_ne (by decide)]
  have hcap : capHost p (bump Reg.KEEP_MB_ACC_CNT 1 s) = bump Reg.KEEP_MB_ACC_CNT 1 s := capHost_off (hmode ▸ h1) (hmode ▸ h2) p
  have hseen : hostSeen p s = (takeRanges p (bump Reg.KEEP_MB_ACC_CNT 1 s)).foldl (fun s r => aperMiss r.1 r.2 s) (bump Reg.KEEP_MB_ACC_CNT 1 s) := by
    unfold hostSeen; rw [hcap]
  rw [hseen, partChecks_congr (reg_missFold_ne (by decide) (by decide) _ _)] at h
  rw [hseen, takeRanges_head h]; rfl

/-- Settles O26: the packet is taken, and rejected by its header (`takePkt_head`) in a state that has only counted it (`hostSeen_head`); the lemmas about
`rejected` say what the rejection writes. -/
theorem rejectedPacketChangesNothingElse : Obligations.RejectedPacketChangesNothingElse := by
  unfold Obligations.RejectedPacketChangesNothingElse
  intro i p op s k hs hrow hreach hcap hrep hbad
  have hexec := exec_hostRowOf_taken hrow hreach
  rw [takePkt_head hbad, hostSeen_head hcap hrep hbad, reject_rejOf] at hexec
  have hcounted : (bump Reg.KEEP_MB_ACC_CNT 1 s).wf = true := bump_wf hs _ _
  generalize mkReply p k.1 [0xFFFFFFFF, k.2.1, k.2.2] = r at hexec ⊢
  rw [settle_of_wf _ (rejected_wf hcounted)] at hexec
  refine ⟨_, hexec, ?_, ?_, ?_, fun o ho => ?_, ?_⟩
  · -- the reply
    rw [rejected_only]
    exact answer_queue r _
  · rw [reg_rejected_count (wf_live hcounted), bump_ne (by decide)]
  · rw [reg_rejected_ne (by decide) (by decide), bump_same (wf_live hs)]
  · -- every other register
    simp only [List.mem_cons, List.not_mem_nil, or_false, not_or] at ho
    obtain ⟨hrej, hacc, hstat, hpkt, hword⟩ := ho
    rw [reg_rejected_ne hrej (by simp [logRegs, hstat, hpkt, hword]), bump_ne hacc]
  · -- the rest of the state
    rw [rejected_only]; rfl

/-- Settles O27: a row of the packet's form takes it (`exec_hostRowOf_taken`), to be rejected by its opcode's rules (`takePkt_judged`) or held under check
(`takePkt_waits`); a closed mailbox answers it (`hostRow_closed`), and any other row leaves it (`hostRow_leaves`), which is the model's choice (log entry 80). -/
theorem hostPacketTurnedAway : Obligations.HostPacketTurnedAway := by
  unfold Obligations.HostPacketTurnedAway
  intro i p op b s hrow
  have runs (hb : b = true) (hreach : hostReaches op p s) : exec i s = .next (settle (takePkt p s)) := exec_hostRowOf_taken (hb ▸ hrow) hreach
  obtain ⟨sel, hsel, hexec⟩ := exec_hostRowOf (s := s) hrow
  refine ⟨fun j hb hreach hhead hreads hj => ?_, fun hb hreach hhead hreads => ?_, fun hb hop hup hclosed => ?_, fun hleft => ?_⟩
  · rw [runs hb hreach, takePkt_judged hhead hreads hj]
  · rw [runs hb hreach, takePkt_waits hhead hreads]
  · rw [hexec, hostRow_closed hop (hsel.trans hb) hup hclosed]
  · rw [hexec, hostRow_leaves (hsel ▸ hleft)]

end Sys2Proof.Machine
end

section
/-! What an accepted packet of the Keeper's own opcodes does (R289, R299 to R301, R307, R318, R323, R332, R407, R413, R415, R432). -/

namespace Sys2Proof.Machine

variable {s : State} {p : HostPkt}

/-! ### What the opcodes select (R300) -/

theorem hostDo_nop (h : hOp p = 0x00) (s : State) : hostDo p s = answer (mkReply p 0 []) s := by unfold hostDo; rw [h]; rfl
theorem hostDo_info (h : hOp p = 0x01) (s : State) : hostDo p s = doInfo p s := by unfold hostDo; rw [h]; rfl
theorem hostDo_run (h : hOp p = 0x20) (s : State) : hostDo p s = doRun p s := by unfold hostDo; rw [h]; rfl
theorem hostDo_kill (h : hOp p = 0x21) (s : State) : hostDo p s = doKill p s := by unfold hostDo; rw [h]; rfl
theorem hostDo_query (h : hOp p = 0x22) (s : State) : hostDo p s = doQuery p s := by unfold hostDo; rw [h]; rfl
theorem hostDo_readLl (h : hOp p = 0x30) (s : State) : hostDo p s = doReadLl p s := by unfold hostDo; rw [h]; rfl
theorem hostDo_store (h : hOp p = 0x50) (s : State) : hostDo p s = doStore p s := by unfold hostDo; rw [h]; rfl
theorem hostDo_test (h : hOp p = 0x51) (s : State) : hostDo p s = doTest p s := by unfold hostDo; rw [h]; rfl
theorem hostDo_flush (h : hOp p = 0x70) (s : State) : hostDo p s = doFlush p s := by unfold hostDo; rw [h]; rfl
theorem hostDo_submit (h : hOp p = 0x80) (s : State) : hostDo p s = doSubmit p s := by unfold hostDo; rw [h]; rfl
theorem hostDo_allocCnt (h : hOp p = 0x81) (s : State) : hostDo p s = doAllocCnt p s := by unfold hostDo; rw [h]; rfl
theorem hostDo_freeCnt (h : hOp p = 0x82) (s : State) : hostDo p s = doFreeCnt p s := by unfold hostDo; rw [h]; rfl
theorem hostDo_allocCpool (h : hOp p = 0x83) (s : State) : hostDo p s = doAllocCpool p s := by unfold hostDo; rw [h]; rfl
theorem hostDo_freeCpool (h : hOp p = 0x84) (s : State) : hostDo p s = doFreeCpool p s := by unfold hostDo; rw [h]; rfl
theorem hostDo_cfg (h : hOp p = 0x90) (s : State) : hostDo p s = doCfg p s := by unfold hostDo; rw [h]; rfl

/-- The row of an accepted packet ends in what its opcode does, save for the two opcodes that write the reference (R303). -/
theorem finish_hostRow {op : Nat} {sel : HostPkt → Bool} {v : State} (hpass : hostPasses p s) (hreach : hostReaches op p s) (hsel : sel p = true)
    (hop : op ≠ 0x90 ∧ op ≠ 0x40) (h : hostDo p (hostSeen p s) = v) : finish (hostRow op sel p s) = .next (settle v) :=
  congrArg finish ((hostRow_acts hreach hsel hpass hop.1 hop.2).trans h)

/-! ### Queries and CFG_COMMIT (R301, R432) -/

theorem doQuery_known {i : Nat × Nat × Nat} (h : stepInfo s (hPar p 0 4) = some i) :
    doQuery p s = answer (mkReply p 0 [i.1, i.2.1, i.2.2]) s := by
  unfold doQuery; rw [h]; rfl

/-- What CFG_COMMIT answers once the reference is written. -/
def cfgReplied (p : HostPkt) (s : State) : State := answer (mkReply p 0 [reg s Reg.CORE_CFG_REF, reg s Reg.CORE_CFG_CRC]) s

theorem doCfg_given (h : bit (hPar p 4 1) 0 = false) (s : State) : doCfg p s = cfgReplied p (setReg Reg.CORE_CFG_REF (hPar p 0 4) s) := by
  unfold doCfg; rw [h]; rfl

/-- With SELF the reference is the CRC of the staged image, which completing the running CRC leaves. -/
theorem doCfg_self (h : bit (hPar p 4 1) 0 = true) (s : State) :
    doCfg p s = cfgReplied p (setReg Reg.CORE_CFG_REF (cfgCrc s) { setReg Reg.CORE_CFG_CRC (cfgCrc s) s with cfgBusy := false }) := by
  unfold doCfg; rw [h]; rfl

/-- Settles O19: an accepted packet does what its opcode says (`finish_hostRow`), and CFG_COMMIT then attempts a held boundary again (`hostRow_acts_retry`). -/
theorem hostQueriesAnswer : Obligations.HostQueriesAnswer := by
  unfold Obligations.HostQueriesAnswer
  intro p s hpass
  have retries {sel : HostPkt → Bool} (hreach : hostReaches 0x90 p s) (hsel : sel p = true) :
      hostRow 0x90 sel p s = retryHold (doCfg p (hostSeen p s)) := by
    rw [hostRow_acts_retry hreach hsel hpass (.inl rfl), hostDo_cfg hreach.1]
  refine ⟨fun hreach => ?_, fun hreach => ?_, fun i hreach hknown => ?_, fun hreach => ?_, fun hreach hgiven => ?_, fun hreach hself => ?_⟩
  · exact finish_hostRow hpass hreach rfl (by decide) (hostDo_nop hreach.1 _)
  · exact finish_hostRow hpass hreach rfl (by decide) (hostDo_info hreach.1 _)
  · exact finish_hostRow hpass hreach rfl (by decide) ((hostDo_query hreach.1 _).trans (doQuery_known hknown))
  · exact finish_hostRow hpass hreach rfl (by decide) (hostDo_flush hreach.1 _)
  · exact congrArg finish ((retries hreach (by rw [hgiven]; rfl)).trans (congrArg retryHold (doCfg_given hgiven _)))
  · exact congrArg finish ((retries hreach hself).trans (congrArg retryHold (doCfg_self hself _)))

/-! ### Credit pools and READ_LL (R301, R318, R323) -/

/-- The pool of an ALLOC_CPOOL with its buffers, their addresses at DEST. -/
def cpoolMade (p : HostPkt) (l : List Addr) (t : State) : State :=
  let v := keeperWrite (wrBytes (bits (hPar p 8 8) 47 0) (l.flatMap (leBytes 8))) t
  let c : CPool := { id := bits (hPar p 0 1) 5 0, credits := bits (hPar p 2 2) 11 0, size := bits (hPar p 2 2) 11 0, cls := hPar p 1 1, bufs := l }
  { v with cpools := insertBy (fun a b => decide (a.id ≤ b.id)) c v.cpools }

section
variable {k : Nat} {l : List Addr} {u : State}

theorem doAllocCpool_room (h : allocBufs (hPar p 1 1) (bits (hPar p 2 2) 11 0) (some (bits (hPar p 0 1) 5 0)) s = (0, l, u)) :
    doAllocCpool p s = answer (mkReply p 0 []) (cpoolMade p l u) := by
  unfold doAllocCpool; dsimp only; rw [h]; rfl

theorem doAllocCpool_full (h : allocBufs (hPar p 1 1) (bits (hPar p 2 2) 11 0) (some (bits (hPar p 0 1) 5 0)) s = (k + 1, l, u)) :
    doAllocCpool p s = reject p { code := 7, off := 34 } u := by
  unfold doAllocCpool; dsimp only; rw [h]; rfl

end

theorem doFreeCpool_held {c : CPool} (h : cpoolAt s (bits (hPar p 0 1) 5 0) = some c) : doFreeCpool p s = answer (mkReply p 0 [])
    (let u := { s with cpools := s.cpools.filter (fun x => x.id != bits (hPar p 0 1) 5 0) }
     if pubInWindow u (bits (hPar p 0 1) 5 0) then u else freeBufs c.bufs (unmap (bits (hPar p 0 1) 5 0) u)) := by
  unfold doFreeCpool; dsimp only; rw [h]; rfl

theorem doReadLl_line {e : BitVec 256} (h : rllLine s p = some e) :
    doReadLl p s = answer (mkReply p 0 []) (keeperWrite (wrBytes (bits (hPar p 8 8) 47 0) (leBytes 32 e.toNat)) s) := by
  unfold doReadLl; rw [h]; rfl

/-- Settles O20: an accepted packet does what its opcode says (`finish_hostRow`); ALLOC_CPOOL with what `allocBufs` finds. -/
theorem hostAllocationsAct : Obligations.HostAllocationsAct := by
  unfold Obligations.HostAllocationsAct
  intro p s hpass
  refine ⟨fun hreach => ?_, fun hreach => ?_, fun l u hreach hroom => ?_, fun k l u hreach hfull => ?_, fun c hreach hheld => ?_, fun e hreach hline => ?_⟩
  · exact finish_hostRow hpass hreach rfl (by decide) (hostDo_allocCnt hreach.1 _)
  · exact finish_hostRow hpass hreach rfl (by decide) (hostDo_freeCnt hreach.1 _)
  · exact finish_hostRow hpass hreach rfl (by decide) ((hostDo_allocCpool hreach.1 _).trans (doAllocCpool_room hroom))
  · exact finish_hostRow hpass hreach rfl (by decide) ((hostDo_allocCpool hreach.1 _).trans (doAllocCpool_full hfull))
  · exact finish_hostRow hpass hreach rfl (by decide) ((hostDo_freeCpool hreach.1 _).trans (doFreeCpool_held hheld))
  · exact finish_hostRow hpass hreach rfl (by decide) ((hostDo_readLl hreach.1 _).trans (doReadLl_line hline))

/-! ### Steps (R289, R301) -/

theorem doKill_rerun (h : bit (hPar p 0 1) 0 = false) (s : State) : doKill p s = raiseKill .killStep none
    (answer (mkReply p 0 [(s.steps.filter (fun x => x.live && x.phase != .joined)).length]) s) := by
  unfold doKill; rw [h]; rfl

theorem doKill_drop (h : bit (hPar p 0 1) 0 = true) (s : State) : doKill p s = raiseKill .killDrop none
    (answer (mkReply p 0 [(s.steps.filter (fun x => x.live && x.phase != .joined)).length]) s) := by
  unfold doKill; rw [h]; rfl

/-- Settles O21: an accepted packet does what its opcode says (`finish_hostRow`): RUN_STEP and SUBMIT_LIST accept their step by definition. Which of its own
counters the Keeper takes for a RUN_STEP is the model's choice (log entries 32 and 20). -/
theorem hostStepsAccepted : Obligations.HostStepsAccepted := by
  unfold Obligations.HostStepsAccepted
  intro p s hpass u accept n
  refine ⟨fun hreach => ?_, fun hreach => ?_, fun hreach hrerun => ?_, fun hreach hdrop => ?_⟩
  · exact finish_hostRow hpass hreach rfl (by decide) (hostDo_run hreach.1 u)
  · exact finish_hostRow hpass hreach rfl (by decide) (hostDo_submit hreach.1 u)
  · exact finish_hostRow hpass hreach (by rw [hrerun]; rfl) (by decide) ((hostDo_kill hreach.1 u).trans (doKill_rerun hrerun u))
  · exact finish_hostRow hpass hreach hdrop (by decide) ((hostDo_kill hreach.1 u).trans (doKill_drop hdrop u))

/-! ### The long operations (R307, R413, R415) -/

theorem exec_selfTestDone {tiles : BitVec 9} {lanes : BitVec 5} {words : W32} (hkeeper : keeperUp s = true) :
    exec (.selfTestDone tiles lanes words) s = .next (settle (testDone tiles lanes words s)) := congrArg finish (if_pos hkeeper)

theorem exec_storeNvmDone {failed : BitVec 3} (hkeeper : keeperUp s = true) :
    exec (.storeNvmDone failed) s = .next (settle (storeDone failed s)) := congrArg finish (if_pos hkeeper)

theorem testDone_none {tiles : BitVec 9} {lanes : BitVec 5} {words : W32} (h : s.longOp = .none) : testDone tiles lanes words s = s := by
  unfold testDone; rw [h]

theorem storeDone_none {failed : BitVec 3} (h : s.longOp = .none) : storeDone failed s = s := by
  unfold storeDone; rw [h]

/-- Settles O23: an accepted packet starts the operation (`finish_hostRow`); each end does what `testDone` or `storeDone` does with the operation that runs, and
with none running nothing. -/
theorem longOperations : Obligations.LongOperations := by
  unfold Obligations.LongOperations
  intro p s
  refine ⟨fun hpass hreach => ?_, fun hpass hreach => ?_, fun tiles lanes words units r hkeeper hop => ?_, fun failed regions copies r hkeeper hop => ?_,
    fun hnone => ⟨fun f => ?_, fun tiles lanes words => ?_⟩⟩
  · exact finish_hostRow hpass hreach rfl (by decide) (hostDo_store hreach.1 _)
  · exact finish_hostRow hpass hreach rfl (by decide) (hostDo_test hreach.1 _)
  · rw [exec_selfTestDone hkeeper]; unfold testDone; rewrite [hop]; rfl
  · rw [exec_storeNvmDone hkeeper]; unfold storeDone; rewrite [hop]; rfl
  · exact congrArg finish ((congrArg (fun v => if keeperUp s then v else s) (storeDone_none hnone)).trans (ite_self s))
  · exact congrArg finish ((congrArg (fun v => if keeperUp s then v else s) (testDone_none hnone)).trans (ite_self s))

end Sys2Proof.Machine
end

section
/-! The mailbox: its registers, the take, the read timeout, replies, and the doorbell of a slice that is not ready or is in DARK (R297, R303, R306, R307,
R382, R407). -/

namespace Sys2Proof.Machine

variable {s : State} {p : HostPkt} {d : W32} {n : Nat} {k : Taking}

/-! ### The closed mailbox (R306, R407, R408) -/

/-- A packet that a closed mailbox answers as any other: no RESUME, or one that fails a check of its header. -/
def noResume (p : HostPkt) : Prop := hOp p ≠ 0x53 ∨ firstBad (hdrChecks p) ≠ none

theorem resume_iff : (hOp p == 0x53 && (firstBad (hdrChecks p)).isNone) = true ↔ hOp p = 0x53 ∧ firstBad (hdrChecks p) = none := by
  rw [Bool.and_eq_true, beq_iff_eq, Option.isNone_iff_eq_none]

theorem closedBell_refuses (h : noResume p) (s : State) : closedBell p s = answer (mkReply p 2 [0]) s := by
  have hno : (hOp p == 0x53 && (firstBad (hdrChecks p)).isNone) = false :=
    Bool.eq_false_iff.mpr fun hc => h.elim (fun hne => hne (resume_iff.mp hc).1) (fun hne => hne (resume_iff.mp hc).2)
  exact (if_neg (by rw [hno]; simp)).trans (if_neg (by rw [hno]; simp))

theorem closedBell_bringup (hdark : pwrState s ≠ 2) (hwaking : pwrState s ≠ 3) : closedBell p s = answer (mkReply p 2 [0]) s :=
  (if_neg (by simp [hdark])).trans (if_neg (by simp [hwaking]))

section
variable (hop : hOp p = 0x53) (hhead : firstBad (hdrChecks p) = none)
include hop hhead

theorem closedBell_dark (hdark : pwrState s = 2) :
    closedBell p s = answer (mkReply p 2 [1]) (wakeReset { resumeWake p with reply := none } s) :=
  if_pos (by rw [resume_iff.mpr ⟨hop, hhead⟩, hdark]; rfl)

theorem closedBell_waking (hwaking : pwrState s = 3) : closedBell p s = answer (mkReply p 2 [1]) (recordWake (resumeWake p) s) :=
  (if_neg (by rw [hwaking]; simp)).trans (if_pos (by rw [resume_iff.mpr ⟨hop, hhead⟩, hwaking]; rfl))

end

/-- Recording a wake source writes live registers. -/
theorem recordWake_only (w : Wake) (s : State) : LiveOnly s (recordWake w s) := by
  unfold recordWake; dsimp only; split <;> rfl

/-- Outside DARK a closed mailbox queues a reply with NOT_READY behind all others, and queues nothing else. -/
theorem closedBell_awake (hawake : pwrState s ≠ 2) (p : HostPkt) :
    ∃ v, (closedBell p s).replies ++ (closedBell p s).replyq = s.replies ++ s.replyq ++ [mkReply p 2 v] := by
  by_cases hwaking : pwrState s = 3
  · by_cases h : noResume p
    · exact ⟨[0], by rw [closedBell_refuses h]; exact answer_queue _ s⟩
    · simp only [noResume, not_or, not_not] at h
      obtain ⟨hop, hhead⟩ := h
      have hrecord : (recordWake (resumeWake p) s).replies ++ (recordWake (resumeWake p) s).replyq = s.replies ++ s.replyq := by
        rw [recordWake_only (resumeWake p) s]
      exact ⟨[1], by rw [closedBell_waking hop hhead hwaking, answer_queue, hrecord]⟩
  · exact ⟨[0], by rw [closedBell_bringup hawake hwaking]; exact answer_queue _ s⟩

/-! ### The doorbell -/

section
variable (hup : ctlUp s = true) (hring : d.getLsbD 0 = true)
include hup hring

theorem doorbell_closed (hclosed : bellClosed s = true) : doorbell d s = closedBell (cmdPkt s) s := by
  unfold doorbell
  rw [if_neg (by rw [hup, hring]; decide), if_pos hclosed]

variable (hopen : bellClosed s = false)
include hopen

/-- A ring of the open doorbell is dropped where a packet is latched or a long operation runs. -/
theorem doorbell_open : doorbell d s = if s.mboxPkt.isSome || decide (s.longOp ≠ .none)
    then raiseBit Reg.KEEP_MB_STAT 7 (bump Reg.KEEP_MB_DROP_CNT 1 s) else { s with mboxPkt := some (cmdPkt s) } := by
  unfold doorbell
  rw [if_neg (by rw [hup, hring]; decide), if_neg (by rw [hopen]; decide)]

theorem doorbell_latches (hempty : s.mboxPkt = none) (hidle : s.longOp = .none) : doorbell d s = { s with mboxPkt := some (cmdPkt s) } := by
  rw [doorbell_open hup hring hopen, if_neg (by simp [hempty, hidle])]

theorem doorbell_drops (h : s.mboxPkt ≠ none ∨ s.longOp ≠ .none) : doorbell d s = raiseBit Reg.KEEP_MB_STAT 7 (bump Reg.KEEP_MB_DROP_CNT 1 s) := by
  rw [doorbell_open hup hring hopen, if_pos (by simpa [Option.isSome_iff_ne_none] using h)]

end

theorem bellClosed_unready (h : ready s = false) : bellClosed s = true := by unfold bellClosed; rw [h]; rfl

theorem bellClosed_dark (h : pwrState s = 2) : bellClosed s = true := by unfold bellClosed; rw [h]; simp

/-- The AON responder keeps the control port up in DARK (R407). -/
theorem ctlUp_dark (hpower : s.powered = true) (hclk : s.power.clkStopped = false) (hdark : pwrState s = 2) : ctlUp s = true := by
  simp [ctlUp, hpower, hclk, hdark]

/-- Settles O28: the doorbell of a slice that is not ready is answered as any of a closed mailbox (`closedBell_awake`). -/
theorem notReadyDoorbellAnswered : Obligations.NotReadyDoorbellAnswered := by
  unfold Obligations.NotReadyDoorbellAnswered
  intro s d hup hready hawake hring
  have hexec : exec (.mbDoorbell d) s = .next (settle (closedBell (cmdPkt s) s)) :=
    congrArg finish (doorbell_closed hup hring (bellClosed_unready hready))
  obtain ⟨v, hqueue⟩ := closedBell_awake hawake (cmdPkt s)
  exact ⟨_, _, hexec, hqueue, rfl, rfl, rfl, rfl⟩

/-! ### CMD writes, the pop, the take and the reply FIFO (R297) -/

theorem cmdWrite_stores (hup : ctlUp s = true) (hn : n < 64) (hempty : s.mboxPkt = none) :
    cmdWrite n d s = { s with mboxCmd := cellSet (fun _ => 0) s.mboxCmd n d } := by
  unfold cmdWrite
  rw [if_neg (by simp [hup]; omega), if_neg (by simp [hempty])]

theorem cmdWrite_overruns (hup : ctlUp s = true) (hn : n < 64) (hfull : s.mboxPkt = some p) : cmdWrite n d s = raiseBit Reg.KEEP_MB_STAT 8 s := by
  unfold cmdWrite
  rw [if_neg (by simp [hup]; omega), if_pos (by simp [hfull])]

theorem pop_drops (hup : ctlUp s = true) (hbit : d.getLsbD 0 = true) (hawake : pwrState s ≠ 2) : pop d s = { s with replies := s.replies.drop 1 } := by
  unfold pop
  rw [if_neg (by simp [hup, hbit, hawake])]

theorem mbTake_takes (hfull : s.mboxPkt = some p) (hmay : mayTake p s = true) : mbTake s = takePkt p { s with mboxPkt := none } := by
  unfold mbTake; rw [hfull]; exact if_pos hmay

theorem replyEnter_moves {r : Reply} {t : List Reply} (hqueue : s.replyq = r :: t) (hroom : s.replies.length < 16)
    (hruns : keeperUp s = true ∨ (ctlUp s = true ∧ bellClosed s = true)) : replyEnter s = { s with replies := s.replies ++ [r], replyq := t } := by
  unfold replyEnter; rw [hqueue]; exact if_pos ⟨hroom, hruns⟩

/-! ### The read timeout (R303; log entry 79) -/

theorem judgePkt_rejects {u : State} {j : Rej} (h : judge s (hostVerdict s p) = some j) : judgePkt p s u = reject p j u := by
  unfold judgePkt; rw [h]

theorem judgePkt_acts {u : State} (h : judge s (hostVerdict s p) = none) (h9 : hOp p ≠ 0x90) (h4 : hOp p ≠ 0x40) : judgePkt p s u = hostDo p u := by
  unfold judgePkt; rw [h]; exact if_neg (by simp [h9, h4])

theorem judgePkt_retries {u : State} (h : judge s (hostVerdict s p) = none) (hop : hOp p = 0x90 ∨ hOp p = 0x40) :
    judgePkt p s u = retryHold (hostDo p u) := by
  unfold judgePkt; rw [h]; exact if_pos (by simpa using hop)

/-- The reads of the packet under check that have not come back, outstanding or not yet issued: all late (log entry 79). -/
def lateReads (s : State) : List (Addr × Nat × Bool) :=
  (s.memTags.filter (fun t => t.busy && t.eng == takeEng)).map (fun t => (t.addr, t.n, true))
    ++ (s.memb.mem.filter (fun m => !m.write && m.eng == takeEng)).map (fun m => (m.addr, m.n, true))

/-- The state in which the packet under check is judged with the late reads. -/
def timedOut (k : Taking) (s : State) : State := dropReads takeEng { s with taking := some { k with bad := k.bad ++ lateReads s } }

theorem keeperLate_judges (hkeeper : keeperUp s = true) (htaking : s.taking = some k) :
    keeperLate s = judgePkt k.pkt (timedOut k s) { timedOut k s with taking := none } := by
  unfold keeperLate; rw [htaking]; dsimp only
  rw [if_neg (by rw [hkeeper]; decide)]; rfl

theorem keeperLate_none (h : s.taking = none) : keeperLate s = s := by unfold keeperLate; rw [h]

theorem late_of_mem_lateReads {e : Addr × Nat × Bool} (h : e ∈ lateReads s) : e.2.2 = true := by
  simp only [lateReads, List.mem_append, List.mem_map] at h
  obtain ⟨t, -, rfl⟩ | ⟨m, -, rfl⟩ := h <;> rfl

theorem poisonIn_congr {t : State} (hpoison : t.poison = s.poison) (hwin : t.windows = s.windows) (a : Addr) (n : Nat) :
    poisonIn t a n = poisonIn s a n := by
  induction n generalizing a with
  | zero => rfl
  | succ n ih =>
    have hat : poisonedAt t a = poisonedAt s a := by unfold poisonedAt phys; rw [hpoison, hwin]
    unfold poisonIn; rw [hat, ih]

/-- A range that a late read meets has no data, with the code TIMEOUT. -/
theorem readBad_timedOut {r : Addr × Nat} (hbad : k.bad = []) (hclean : poisonIn s r.1 r.2 = none)
    (hlate : ∃ e ∈ lateReads s, overlap e.1 e.2.1 r.1 r.2 = true) : readBad (timedOut k s) r = some (0xA, none) := by
  have hpoison : poisonIn (timedOut k s) r.1 r.2 = none := (poisonIn_congr (s := s) (t := timedOut k s) rfl rfl r.1 r.2).trans hclean
  have hnoted : (timedOut k s).taking = some { k with bad := lateReads s } := by unfold timedOut; rw [hbad]; rfl
  obtain ⟨b, hb⟩ := Option.isSome_iff_exists.mp (List.find?_isSome.mpr hlate)
  unfold readBad
  rw [hpoison, hnoted]; dsimp only [Option.bind]
  rw [hb, Option.map_some, late_of_mem_lateReads (List.mem_of_find?_eq_some hb)]; rfl

/-- Where the first range has no data the packet fails at the pointer it reads by. -/
theorem judge_unread {v : Verdict} {r : Addr × Nat} {b : Nat × Option Addr} (hpre : firstBad v.pre = none) (hrange : v.ranges.head? = some r)
    (hbad : readBad s r = some b) : judge s v = some { code := b.1, off := v.read.getD 0, addr := b.2 } := by
  obtain ⟨l, hl⟩ := List.head?_eq_some_iff.mp hrange
  have hfirst : v.ranges.findSome? (readBad s) = some b := by rw [hl, List.findSome?_cons, hbad]
  unfold judge; rw [hpre]; dsimp only; rw [hfirst]

/-- Settles O29: one lemma for each thing the mailbox's commands do. That every read not yet back is late at a KEEPER_READ_TIMEOUT is the model's choice
(log entry 79). -/
theorem mailboxWorks : Obligations.MailboxWorks := by
  unfold Obligations.MailboxWorks
  intro s d n
  have ends {v w : State} (h : v = w) : finish v = .next (settle w) := congrArg finish h
  refine ⟨fun hup hn hempty => ends (cmdWrite_stores hup hn hempty), fun p hup hn hfull => ends (cmdWrite_overruns hup hn hfull),
    fun hup hring hopen hempty hidle => ends (doorbell_latches hup hring hopen hempty hidle),
    fun hup hring hopen h => ends (doorbell_drops hup hring hopen h), fun hup hbit hawake => ends (pop_drops hup hbit hawake),
    fun p hfull hmay => ends (mbTake_takes hfull hmay), ?_, fun hnone => ends (keeperLate_none hnone), ?_, ?_,
    fun r t hqueue hroom hruns => ends (replyEnter_moves hqueue hroom hruns)⟩
  · rintro k v hkeeper htaking rfl
    have judges {w : State} (h : judgePkt k.pkt (timedOut k s) { timedOut k s with taking := none } = w) :
        exec .keeperReadTimeout s = .next (settle w) := ends ((keeperLate_judges hkeeper htaking).trans h)
    refine ⟨fun j hj => judges (judgePkt_rejects hj), fun hgood h9 h4 => judges (judgePkt_acts hgood h9 h4),
      fun hgood hop => judges (judgePkt_retries hgood hop), fun r hpre hrange hclean hbad hout => ?_⟩
    obtain ⟨t, ht, hbusy, heng, hmeets⟩ := hout
    have hlate : (t.addr, t.n, true) ∈ lateReads s :=
      List.mem_append_left _ (List.mem_map_of_mem (List.mem_filter.mpr ⟨ht, by rw [hbusy, heng]; rfl⟩))
    exact ⟨_, judge_unread hpre hrange (readBad_timedOut hbad hclean ⟨_, hlate, hmeets⟩), rfl, rfl⟩
  · intro hpower hclk hdark hring hop hhead
    exact ends ((doorbell_closed (ctlUp_dark hpower hclk hdark) hring (bellClosed_dark hdark)).trans (closedBell_dark hop hhead hdark))
  · intro hpower hclk hdark hring hno
    exact ends ((doorbell_closed (ctlUp_dark hpower hclk hdark) hring (bellClosed_dark hdark)).trans (closedBell_refuses hno s))

end Sys2Proof.Machine
end

section
/-! COMMIT (R286, R287, R291 to R293, R299, R397). -/

namespace Sys2Proof.Machine

variable {s : State} {x : Step} {r : Record}

theorem commit_none (h : commitDue s = none) : commit s = s := by
  unfold commit; rw [h]; exact ite_self s

theorem commit_stale (h : commitDue s = some (x, r)) (hgen : x.kgen.toNat ≠ kgen s) : commit s = s := by
  unfold commit; rw [h]; dsimp only
  rw [if_pos hgen, ite_self]

/-- The entries of a publication block with no poisoned word are all of the block's (R287). -/
theorem pubEntries_clean (h : ∀ i < rPar r 47 43, poisonIn s (rPtr r 1 + 16 * i) 16 = none) :
    pubEntries s r = (List.range (rPar r 47 43)).map (fun i => (rdLe s (rPtr r 1 + 16 * i) 1 % 64, rdLe s (rPtr r 1 + 16 * i + 8) 6)) := by
  have hall : (List.range (rPar r 47 43)).filter (fun i => (pubPoisoned s r i).isNone) = List.range (rPar r 47 43) :=
    List.filter_eq_self.mpr fun i hi => Option.isNone_iff_eq_none.mpr (h i (List.mem_range.mp hi))
  unfold pubEntries; rw [hall]

/-- Settles O32: a COMMIT that is due under the generation in force does what `commit` writes out, and else changes nothing. That a bias update that waited
for it is taken up then (log entry 18), and that an unreadable entry is left out (log entry 95), are the model's choices. -/
theorem commitEndsTheStep : Obligations.CommitEndsTheStep := by
  unfold Obligations.CommitEndsTheStep
  intro s hkeeper
  refine ⟨fun x r hdue hgen => congrArg finish ?_, fun x r _ hclean => pubEntries_clean hclean, fun x r hdue hgen => congrArg finish (commit_stale hdue hgen),
    fun hnone => congrArg finish (commit_none hnone)⟩
  unfold commit
  rw [if_neg (by rw [hkeeper]; decide), hdue]; dsimp only
  rw [if_neg (not_not.mpr hgen)]; rfl

end Sys2Proof.Machine
end

section
/-! How the reads and writes of the die memory port end (R303, R353, R381, R382, R390, R435). -/

namespace Sys2Proof.Machine

variable {s : State} {t : MemTag} {u : Run} {k : Taking} {tag : Nat} {poisoned : Bool}

theorem exec_memCompletion (hclk : clocked s = true) (tag : BitVec 14) (poisoned : Bool) :
    exec (.memCompletion tag poisoned) s = .next (settle (onCompletion tag.toNat poisoned s)) := congrArg finish (if_pos hclk)

/-- A completion of another generation than its slot's is late (R382). -/
theorem onCompletion_late (hgen : bits tag 13 10 ≠ slotGen s (bits tag 9 0)) :
    onCompletion tag poisoned s = tdc 3 (raiseBit Reg.REL_STAT 6 (bump Reg.REL_LATE_CPL 1 s)) := if_pos hgen

section
variable (hgen : bits tag 13 10 = slotGen s (bits tag 9 0))
include hgen

theorem onCompletion_none (h : s.memTags.find? (fun t => t.slot == bits tag 9 0 && t.busy) = none) : onCompletion tag poisoned s = s := by
  unfold onCompletion; dsimp only
  rw [if_neg (not_not.mpr hgen), h]

variable (hfound : s.memTags.find? (fun t => t.slot == bits tag 9 0 && t.busy) = some t)
include hfound

theorem onCompletion_poisoned : onCompletion tag true s =
    failedRead 0x03 false t (raiseBit Reg.REL_STAT 4 (bump Reg.REL_MEM_POISON_CNT 1 (setTag { t with busy := false } s))) := by
  unfold onCompletion; dsimp only
  rw [if_neg (not_not.mpr hgen), hfound]; rfl

theorem onCompletion_keeper (hrun : runOfTag s t = none) : onCompletion tag false s = keeperBack t none (setTag { t with busy := false } s) := by
  unfold onCompletion; dsimp only
  rw [if_neg (not_not.mpr hgen), hfound]; dsimp only
  rw [hrun]; rfl

/-- A good completion of a command's read frees its slot; once none of its reads is out the command goes on (R381). -/
theorem onCompletion_command (hrun : runOfTag s t = some u) :
    let v : Run := { u with memSlots := u.memSlots.filter (· != bits tag 9 0) }
    let x := modRun u.eng (fun _ => v) (setTag { t with busy := false } s)
    onCompletion tag false s =
      if !(readsBack v x) then x else if u.stage = 4 then served x else doJob u (jobOf (setTag { t with busy := false } s) u.cmd) x := by
  unfold onCompletion; dsimp only
  rw [if_neg (not_not.mpr hgen), hfound]; dsimp only
  rw [hrun]; rfl

end

theorem onReadTimeout_outstanding {slot : Nat} (hfound : s.memTags.find? (fun t => t.slot == slot && t.busy) = some t) :
    onReadTimeout slot s = failedRead 0x04 true t (raiseBit Reg.REL_STAT 5 (bump Reg.REL_MEM_TO_CNT 1
      (setTag { t with busy := false, gen := (t.gen + 1) % 16, freeAt := s.clock + 8 * fld s Reg.REL_MEM_TO 15 0 * 1024 } s))) := by
  unfold onReadTimeout; rw [hfound]

/-! ### The packet under check (R303) -/

/-- The packet under check with the end of one of its reads noted. -/
def readNoted (t : MemTag) (bad : Option Bool) (k : Taking) (s : State) : State :=
  { s with taking := some { k with bad := k.bad ++ (match bad with | some late => [(t.addr, t.n, late)] | none => []) } }

section
variable {bad : Option Bool} (htaking : s.taking = some k)
include htaking

theorem takeBack_eq : takeBack t bad s =
    if readsOut (readNoted t bad k s) takeEng || !(keeperUp (readNoted t bad k s)) then readNoted t bad k s
    else judgePkt k.pkt (readNoted t bad k s) (letGo (readNoted t bad k s)) := by
  unfold takeBack; rw [htaking]; rfl

theorem takeBack_waits (hout : readsOut (readNoted t bad k s) takeEng = true) : takeBack t bad s = readNoted t bad k s := by
  rw [takeBack_eq htaking, hout]; rfl

theorem takeBack_judges (hback : readsOut (readNoted t bad k s) takeEng = false) (hkeeper : keeperUp (readNoted t bad k s) = true) :
    takeBack t bad s = judgePkt k.pkt (readNoted t bad k s) (letGo (readNoted t bad k s)) := by
  rw [takeBack_eq htaking, hback, hkeeper]; rfl

end

/-- Settles O46: a completion does what `onCompletion` finds of its slot and generation, and a timeout ends an outstanding read as a poisoned one ends
(`failedRead`). Which reads carry tags (log entry 81) and that the clusters are asked to warm once all have ended (log entry 92) are the model's choices. -/
theorem dieMemoryReadsEnd : Obligations.DieMemoryReadsEnd := by
  unfold Obligations.DieMemoryReadsEnd
  intro s tag hclk slot gen found back fails
  have completes {bad : Bool} {v : State} (h : onCompletion tag.toNat bad s = v) : exec (.memCompletion tag bad) s = .next (settle v) := by
    rw [exec_memCompletion hclk, h]
  refine ⟨fun bad hgen => completes (onCompletion_late hgen), fun bad hgen hnone => completes (onCompletion_none hgen hnone),
    fun t hgen hfound => completes (onCompletion_poisoned hgen hfound), fun t u hgen hfound hrun => ?_,
    fun t hgen hfound hrun => completes (onCompletion_keeper hgen hfound hrun), ?_, fun t hfound => ?_, fun eng addr u hrun hstaging hbelow => ?_⟩
  · -- a command's read
    intro v x
    have hends := onCompletion_command hgen hfound hrun
    exact ⟨fun hout => completes (hends.trans (if_pos (by rw [hout]; rfl))),
      fun hback hstage => completes (hends.trans ((if_neg (by rw [hback]; decide)).trans (if_neg hstage))),
      fun hback hstage => completes (hends.trans ((if_neg (by rw [hback]; decide)).trans (if_pos hstage)))⟩
  · -- a read of the packet under check
    rintro t k bad y htaking rfl
    exact ⟨fun hout => takeBack_waits htaking hout, fun hback hkeeper => takeBack_judges htaking hback hkeeper⟩
  · -- a read timed out
    rw [exec_memReadTimeout hclk, onReadTimeout_outstanding hfound]; rfl
  · rw [exec_memWriteTimeout hclk, onWriteTimeout_kills hrun hstaging hbelow]

end Sys2Proof.Machine
end

section
/-! Accesses of other initiators to staging and through the aperture (R281, R310, R323, R324, R378, R379). -/

namespace Sys2Proof.Machine

open State

variable {s : State} {x : MemAccess} {a : Addr} {n : Nat} {l : List Byte}

/-! ### Memory without poison -/

/-- An address below the apertures is the byte it names (R323). -/
theorem phys_below (h : a < Config.apertureBase) : phys s a = some a := if_neg (not_le.mpr h)

theorem aperMiss_mapped (h : ∀ j < n, phys s (a + j) ≠ none) : aperMiss a n s = s := by
  unfold aperMiss
  refine if_neg fun hc => ?_
  obtain ⟨-, hany⟩ := Bool.and_eq_true_iff.mp hc
  obtain ⟨j, hj, hnone⟩ := List.any_eq_true.mp hany
  exact h j (List.mem_range.mp hj) (Option.isNone_iff_eq_none.mp hnone)

theorem wordBad_clean (h : s.poison = []) (first : Bool) (w : Nat) : wordBad s first .clean w = false := by
  unfold wordBad; rw [h]; cases first <;> rfl

/-- With no poisoned word no word of an access is bad where its own check finds none. -/
theorem filter_wordBad_clean (h : s.poison = []) (ws : List (Nat × Nat)) : ws.filter (fun e => wordBad s (e.1 == 0) .clean e.2) = [] :=
  List.filter_eq_nil_iff.mpr fun e _ => by rw [wordBad_clean h]; decide

theorem healAll_clean (h : s.poison = []) (l : List Addr) : healAll l s = s := by
  have hsame : { s with poison := [] } = s := by rw [← h]
  unfold healAll; rw [h]; exact hsame

/-! ### Writes of unbroken ranges (R58) -/

theorem lt_of_mem_withIdx {α : Type} {i : Nat} {l : List α} {e : Nat × α} (h : e ∈ withIdx i l) : e.1 < i + l.length := by
  induction l generalizing i with
  | nil => nomatch h
  | cons b l ih =>
    rw [List.length_cons]
    obtain rfl | h := List.mem_cons.mp h
    · exact Nat.lt_add_of_pos_right (Nat.succ_pos _)
    · have := ih h; omega

/-- Writing the bytes of a list at their own addresses is writing the list. -/
theorem wrAll_withIdx (a : Addr) (i : Nat) (l : List Byte) (s : State) : wrAll ((withIdx i l).map (fun e => (a + e.1, e.2))) s = wrN (a + i) l s := by
  induction l generalizing i s with
  | nil => rfl
  | cons b l ih => exact ih (i + 1) (wr8 (a + i) b s)

/-- A byte that no address of a range reaches stays as a write of the range found it. -/
theorem rd8_wrN_ne {y : Addr} (h : ∀ j < l.length, phys s y ≠ phys s (a + j)) : rd8 (wrN a l s) y = rd8 s y := by
  induction l generalizing a s with
  | nil => rfl
  | cons b l ih =>
    have hfirst : phys s y ≠ phys s a := h 0 (Nat.succ_pos _)
    have hrest : ∀ j < l.length, phys (wr8 a b s) y ≠ phys (wr8 a b s) (a + 1 + j) := fun j hj => by
      rw [phys_wr8, phys_wr8, Nat.add_assoc, Nat.add_comm 1 j]; exact h (j + 1) (Nat.succ_lt_succ hj)
    exact (ih hrest).trans (rd8_wr8_ne s b hfirst)

/-- A list written to a range where each address is the byte it names reads back byte for byte. -/
theorem rd8_wrN_get (hmem : cellWf memDefault s.mem = true) (h : ∀ j < l.length, phys s (a + j) = some (a + j)) (j : Nat) (hj : j < l.length) :
    rd8 (wrN a l s) (a + j) = l[j] := by
  induction l generalizing a s j with
  | nil => nomatch hj
  | cons b l ih =>
    have hrest : ∀ j < l.length, phys (wr8 a b s) (a + 1 + j) = some (a + 1 + j) := fun j hj => by
      rw [phys_wr8, Nat.add_assoc, Nat.add_comm 1 j]; exact h (j + 1) (Nat.succ_lt_succ hj)
    cases j with
    | zero =>
      have hfirst : phys s a = some a := h 0 hj
      have hlater : rd8 (wrN (a + 1) l (wr8 a b s)) a = rd8 (wr8 a b s) a := rd8_wrN_ne fun j hj hc => by
        rw [hrest j hj, phys_wr8, hfirst, Option.some.injEq] at hc
        exact Nat.ne_of_lt (Nat.lt_add_right j (Nat.lt_succ_self a)) hc
      exact hlater.trans (rd8_wr8_same s hmem b hfirst hfirst)
    | succ j =>
      have hlater := ih (wr8_mem_wf s hmem a b) hrest j (Nat.lt_of_succ_lt_succ hj)
      rw [Nat.add_assoc, Nat.add_comm 1 j] at hlater
      exact hlater

theorem wrN_wf (h : s.wf = true) (a : Addr) (l : List Byte) : (wrN a l s).wf = true := 
  wf_of_only h (by rw [wrN_only]) (by rw [wrN_only]; exact wf_live (s := s) h) (wrN_mem_wf s l a (wf_mem h))

/-! ### What an access does (R310, R324) -/

/-- An access that reaches memory: to staging or the aperture, and to none of the Keeper's own regions (log entry 73). -/
def accessServed (x : MemAccess) (s : State) : Prop :=
  (inStaging x.addr = true ∨ Config.apertureBase ≤ x.addr) ∧ keeperOnly s x.addr (if x.write then x.data.length else x.n) = false

theorem accessServed_iff : (!(inStaging x.addr || decide (Config.apertureBase ≤ x.addr)) || keeperOnly s x.addr (if x.write then x.data.length else x.n)) = false
    ↔ accessServed x s := by
  unfold accessServed
  rw [Bool.or_eq_false_iff, Bool.not_eq_false', Bool.or_eq_true, decide_eq_true_eq]

section
variable (hclk : clocked s = true)
include hclk

theorem exec_apertureAccess_refused (h : ¬accessServed x s) : exec (.apertureAccess x) s = .next (settle s) :=
  congrArg finish ((if_pos hclk).trans (if_pos (Bool.not_eq_false _ ▸ fun hc => h (accessServed_iff.mp hc))))

theorem exec_apertureAccess_served (h : accessServed x s) : exec (.apertureAccess x) s =
    .next (settle (if x.write then extWrite x.addr x.data x.found s else extRead x.addr x.n x.found s)) :=
  congrArg finish ((if_pos hclk).trans (if_neg (by rw [accessServed_iff.mpr h]; decide)))

end

/-- A read of words that are not poisoned and all mapped answers its bytes. -/
theorem extRead_clean (hpoison : s.poison = []) (hmapped : ∀ j < n, phys s (a + j) ≠ none) :
    extRead a n .clean s = emit (.memData (rdN s a n)) s := by
  unfold extRead; dsimp only
  rw [filter_wordBad_clean hpoison, aperMiss_mapped hmapped]; rfl

/-- A write to staging with no word poisoned writes its bytes. -/
theorem extWrite_clean (hpoison : s.poison = []) (hbelow : a + l.length ≤ Config.apertureBase) : extWrite a l .clean s = wrN a l s := by
  have hphys {j : Nat} (hj : j < l.length) : phys s (a + j) = some (a + j) := phys_below ((Nat.add_lt_add_left hj a).trans_le hbelow)
  have hpairs (f : Addr × Byte → Bool) (hf : ∀ q : Addr × Byte, phys s q.1 = some q.1 → f q = true) :
      ((withIdx 0 l).map (fun e => (a + e.1, e.2))).filter f = (withIdx 0 l).map (fun e => (a + e.1, e.2)) := by
    refine List.filter_eq_self.mpr fun q hq => ?_
    obtain ⟨e, he, rfl⟩ := List.mem_map.mp hq
    exact hf _ (hphys (by simpa using lt_of_mem_withIdx he))
  have hmiss : aperMiss a l.length s = s := aperMiss_mapped fun j hj => by rw [hphys hj]; nofun
  unfold extWrite; dsimp only
  rw [filter_wordBad_clean hpoison, hmiss, hpairs]
  · show wrAll ((withIdx 0 l).map (fun e => (a + e.1, e.2))) (healAll _ s) = wrN a l s
    rw [healAll_clean hpoison]
    exact wrAll_withIdx a 0 l s
  · intro q hq
    rw [hq]; simp

/-- An access of n bytes in staging's pool region meets none of the Keeper's own regions. -/
theorem keeperOnly_pool (hlow : Config.stagingBase + Config.poolRegionOff ≤ a) (hbelow : a + n ≤ Config.apertureBase) : keeperOnly s a n = false := by
  unfold keeperOnly
  refine List.any_eq_false.mpr fun j hj => ?_
  rw [phys_below ((Nat.add_lt_add_left (List.mem_range.mp hj) a).trans_le hbelow)]; dsimp only
  rw [Bool.and_eq_true, decide_eq_true_eq]
  exact fun h => absurd h.2 (not_lt.mpr (hlow.trans (Nat.le_add_right a j)))

/-- Settles O47: an access that reaches nothing changes nothing, and one that does is `extRead` or `extWrite`; a clean read answers its bytes
(`extRead_clean`), and a clean write to the pool region is a write of its list (`extWrite_clean`), which reads back by `rd8_wrN_get` and leaves the rest by
`rd8_wrN_ne`. That a refused access gets no completion (log entry 73), and that a write answers nothing (log entry 83), are the model's choices. -/
theorem externalAccesses : Obligations.ExternalAccesses := by
  unfold Obligations.ExternalAccesses
  intro s x hs hclk ours
  have reads (h : ours) (hread : x.write = false) : exec (.apertureAccess x) s = .next (settle (extRead x.addr x.n x.found s)) := by
    rw [exec_apertureAccess_served hclk h, hread]; rfl
  have writes (h : ours) (hwrite : x.write = true) : exec (.apertureAccess x) s = .next (settle (extWrite x.addr x.data x.found s)) := by
    rw [exec_apertureAccess_served hclk h, hwrite]; rfl
  refine ⟨fun h => exec_apertureAccess_refused hclk h, fun h => exec_apertureAccess_served hclk h, fun h hread hfound hpoison hmapped => ?_,
    fun hwrite hfound hpoison hsome hlow hhigh => ?_⟩
  · have hwf : (emit (.memData (rdN s x.addr x.n)) s).wf = true := hs
    rw [reads h hread, hfound, extRead_clean hpoison hmapped, settle_of_wf _ hwf]
  · have hbelow : x.addr + x.data.length ≤ Config.apertureBase := hhigh.trans (by decide)
    have hphys {j : Nat} (hj : j < x.data.length) : phys s (x.addr + j) = some (x.addr + j) :=
      phys_below ((Nat.add_lt_add_left hj _).trans_le hbelow)
    have hin : inStaging x.addr = true := Bool.and_eq_true_iff.mpr ⟨decide_eq_true ((Nat.le_add_right _ _).trans hlow),
      decide_eq_true ((Nat.lt_add_of_pos_right (List.length_pos_iff.mpr hsome)).trans_le hhigh)⟩
    have hours : ours := ⟨.inl hin, by rw [hwrite]; exact keeperOnly_pool hlow hbelow⟩
    have hexec := writes hours hwrite
    rw [hfound, extWrite_clean hpoison hbelow, settle_of_wf _ (wrN_wf hs _ _)] at hexec
    refine ⟨_, hexec, rd8_wrN_get (wf_mem hs) fun j hj => hphys hj, fun a hout => rd8_wrN_ne fun j hj hc => ?_, wrN_only s _ _⟩
    obtain hbefore | hbehind := hout _ (hc.trans (hphys hj))
    · exact absurd hbefore (not_lt.mpr (Nat.le_add_right _ j))
    · exact absurd hbehind (not_le.mpr (Nat.add_lt_add_left hj _))

end Sys2Proof.Machine
end

section
/-! The external image (R279, R402, R414). -/

namespace Sys2Proof.Machine

variable {s : State} {d : W32}

/-! ### BOOT_GO and its timeout -/

theorem regRow_bootCtl : regRow Reg.REL_BOOT_CTL = some ⟨0x7228, 0, 0, 0, 0x2, 0x1, 0, .step⟩ := by decide +kernel

theorem writeFx_bootCtl (d : W32) (s : State) : writeFx Reg.REL_BOOT_CTL 0xFFFFFFFF d.toNat s = bootGo d.toNat s := by
  unfold writeFx; rw [land_word d.isLt]; dsimp only
  rw [if_neg (by decide), if_neg (by decide), if_neg (by decide), if_neg (by decide), if_neg (by decide), if_neg (by decide), if_neg (by decide),
    if_neg (by decide), if_neg (by decide), if_pos rfl]

/-- Bring-up that can go on has the control port up, and is not in DARK (R400, R402). -/
theorem portTakes_inPhase (h : inPhase s 2 = true) (o : Nat) : portTakes s o := by
  simp only [inPhase, Bool.and_eq_true, Bool.not_eq_true', decide_eq_true_eq] at h
  obtain ⟨⟨⟨⟨⟨hpower, hclk⟩, hphase⟩, -⟩, -⟩, hawake⟩ := h
  exact portTakes_awake (by simp [ctlUp, hpower, hclk, hphase]) hawake o

/-- While bring-up waits in phase C, BOOT_GO is what its write starts (R414). -/
theorem exec_bootGo (h : inPhase s 2 = true) : exec (.bootGo d) s = .next (settle (bootGo d.toNat s)) := by
  have hport := portWrite_wo d (portTakes_inPhase h _) (by decide) (by decide) regRow_bootCtl rfl rfl
  exact congrArg finish (hport.trans (writeFx_bootCtl d s))

theorem bootGo_clear (hgo : d.getLsbD 0 = false) : bootGo d.toNat s = s := by
  have hbit : bit d.toNat 0 = false := hgo
  exact if_pos (by rw [hbit]; rfl)

section
variable (hgo : d.getLsbD 0 = true) (hphase : inPhase s 2 = true) (hwaits : s.power.fwVer = none)
include hgo hphase hwaits

theorem bootGo_reads : ¬(!(bit d.toNat 0) || !(inPhase s 2) || s.power.fwVer.isSome) = true := by
  have hbit : bit d.toNat 0 = true := hgo
  rw [hbit, hphase, hwaits]; decide

theorem bootGo_found {c : Nat × List Byte} (himage : extImage s = some c) : bootGo d.toNat s =
    setReg Reg.KEEP_FW_VER (leAt c.2 0 4) (raiseBit Reg.REL_PWR_STAT 7 { s with power := { s.power with fwVer := some (leAt c.2 0 4) } }) := by
  unfold bootGo; rw [if_neg (bootGo_reads hgo hphase hwaits), himage]

theorem bootGo_missing (himage : extImage s = none) : bootGo d.toNat s = raiseBit Reg.REL_BOOT_CTL 1 s := by
  unfold bootGo; rw [if_neg (bootGo_reads hgo hphase hwaits), himage]

end

/-- Settles O18: BOOT_GO writes BOOT_CTL, whose bit GO reads the image (`bootGo_found`, `bootGo_missing`), and the timeout fails bring-up while the slice waits. -/
theorem externalImage : Obligations.ExternalImage := by
  unfold Obligations.ExternalImage
  intro s d hphase hwaits
  refine ⟨fun c hgo himage => ?_, fun hgo himage => ?_, fun hgo => ?_, ?_⟩
  · rw [exec_bootGo hphase, bootGo_found hgo hphase hwaits himage]
  · rw [exec_bootGo hphase, bootGo_missing hgo hphase hwaits himage]
  · rw [exec_bootGo hphase, bootGo_clear hgo]
  · exact congrArg finish (if_pos (by rw [hphase, hwaits]; rfl))

end Sys2Proof.Machine
end

section
/-! The flush of the log FIFO (R332). -/

namespace Sys2Proof.Machine

variable {s : State} {o : Nat}

/-! ### Dropped bits -/

/-- A dropped bit reads 0. -/
theorem bit_setBits_zero (v b : Nat) : bit (setBits v b b 0) b = false := by
  have hdrop : setBits v b b 0 = v - (bit v b).toNat * 2 ^ b := by
    unfold setBits bits bit
    rw [Nat.add_sub_cancel_left, pow_one, ← Nat.toNat_testBit, Nat.zero_mod, Nat.zero_mul, Nat.add_zero]
  cases hbit : bit v b with
  | false => rw [hdrop, hbit]; simpa using hbit
  | true =>
    have hflip : (2 ^ b + (v - 2 ^ b)).testBit b = !(v - 2 ^ b).testBit b := Nat.testBit_two_pow_add_eq _ b
    rw [Nat.add_sub_cancel' (Nat.ge_two_pow_of_testBit hbit)] at hflip
    rw [hdrop, hbit, Bool.toNat_true, Nat.one_mul]
    unfold bit at hbit ⊢
    simpa [hbit] using hflip

theorem flag_dropBit (h : cellWf regReset s.live = true) (o b : Nat) : flag (dropBit o b s) o b = false := by
  have hbit : (setBits (reg s o) b b 0).testBit b = false := bit_setBits_zero _ b
  unfold flag dropBit setFld
  rw [reg_setReg_same s h]
  unfold bit
  rw [Nat.testBit_mod_two_pow, hbit, Bool.and_false]

/-! ### What the flush leaves -/

/-- A change of the FIFO and its registers keeps a canonical state so. -/
theorem LogOnly.keeps_wf {t : State} (h : LogOnly s t) (hs : s.wf = true) : t.wf = true := by
  obtain ⟨honly, -, hlive⟩ := h
  exact wf_of_only hs (by rw [honly]) (hlive (wf_live hs)) (by rw [honly]; exact wf_mem (s := s) hs)

/-- ABOVE is all that a fall of FILL can change (R331). -/
theorem reg_logFell_ne (h : o ≠ Reg.PART_LOG_STAT) (s : State) : reg (logFell s) o = reg s o := by
  unfold logFell
  split
  · exact reg_setReg_ne s h _
  · rfl

theorem foldl_queueReply (rs : List Reply) (s : State) : rs.foldl (fun s r => queueReply r s) s = { s with replyq := s.replyq ++ rs } := by
  induction rs generalizing s with
  | nil => simp
  | cons r rs ih => rw [List.foldl_cons, ih]; simp [queueReply]

/-- The FIFO holds nothing, and no reply waits for a flush. -/
def logEmptied (s : State) : State := { s with log := { s.log with pkts := [], latch := 0, flushReplies := [] } }

/-- The state after the request ends, FILL having fallen to nothing. -/
def logFlushed (s : State) : State := dropBit Reg.PART_LOG_STAT 2 (logFell (logEmptied s))

theorem flushNow_idle (hidle : flag s Reg.PART_LOG_STAT 2 = false) : flushNow s = s := if_pos (by rw [hidle]; rfl)

theorem logOnly_flushed (s : State) : LogOnly s (logFlushed s) :=
  ((logOnly_log _ s).trans (logOnly_fell _)).trans (logOnly_setReg (by decide) _ _)

/-- With no staged spill value waiting, a flush empties the FIFO and queues its replies. -/
theorem flushNow_asked (hask : flag s Reg.PART_LOG_STAT 2 = true) (hpend : pendOf s .flush = false) :
    flushNow s = { logFlushed s with replyq := s.replyq ++ s.log.flushReplies } := by
  have happly : flushApply (logEmptied s) = logEmptied s := if_pos (by rw [show pendOf (logEmptied s) .flush = false from hpend]; rfl)
  have hflush : flushNow s = s.log.flushReplies.foldl (fun s r => queueReply r s) (dropBit Reg.PART_LOG_STAT 2 (logFell (flushApply (logEmptied s)))) :=
    if_neg (by rw [hask]; decide)
  have hreplyq : (logFlushed s).replyq = s.replyq := by rw [(logOnly_flushed s).1]
  rw [hflush, happly, foldl_queueReply, ← hreplyq]; rfl

theorem logFlushed_log (s : State) : (logFlushed s).log = (logEmptied s).log := logFell_log _

theorem reg_logFlushed_ne (h : o ≠ Reg.PART_LOG_STAT) (s : State) : reg (logFlushed s) o = reg s o :=
  (reg_setReg_ne _ h _).trans (reg_logFell_ne h _)

theorem flag_logFlushed (h : cellWf regReset s.live = true) : flag (logFlushed s) Reg.PART_LOG_STAT 2 = false :=
  flag_dropBit (((logOnly_log _ s).trans (logOnly_fell _)).2.2 h) _ _

/-- Settles O17: a flush that was asked for leaves `logFlushed` with its replies queued (`flushNow_asked`), which is canonical and changes the FIFO,
LOG_STAT and the queued replies only. -/
theorem logFlushTakesEffect : Obligations.LogFlushTakesEffect := by
  unfold Obligations.LogFlushTakesEffect
  intro s hs hpower hclk hawake
  have hexec : exec .logFlushBoundary s = .next (settle (flushNow s)) := congrArg finish (if_pos (by simp [hpower, hclk, hawake]))
  refine ⟨fun hask hpend => ?_, fun hidle => by rw [hexec, flushNow_idle hidle]⟩
  have hwf : ({ logFlushed s with replyq := s.replyq ++ s.log.flushReplies } : State).wf = true := (logOnly_flushed s).keeps_wf hs
  rw [hexec, flushNow_asked hask hpend, settle_of_wf _ hwf]
  have hlog := logFlushed_log s
  exact ⟨_, rfl, by rw [hlog]; rfl, by rw [hlog]; rfl, rfl, by rw [hlog]; rfl, flag_logFlushed (wf_live hs),
    reg_logFlushed_ne (by decide) s, reg_logFlushed_ne (by decide) s, by rw [(logOnly_flushed s).1]⟩

end Sys2Proof.Machine
end

section
/-! Reads of the log FIFO at the window (R327 to R330). -/

namespace Sys2Proof.Machine

variable {s : State} {o : Nat} {r : RegRow} {p : LogPkt} {rest : List LogPkt}

/-! ### What a take does -/

theorem logTake_refilling (h : refilling s = true) : logTake s = { s with log := { s.log with latch := 0 } } := if_pos h

theorem logTake_empty (hrefill : refilling s = false) (hempty : s.log.pkts = []) : logTake s = logFell { s with log := { s.log with latch := 0 } } := by
  have hchecked : spillCheck s.log.pkts.length s = s := by rw [hempty]; rfl
  unfold logTake
  rw [if_neg (by rw [hrefill]; decide), hchecked]
  dsimp only
  rw [hempty]

/-- A head packet with no word in the spill ring has nothing to be checked (R329). -/
theorem spillCheck_unspilled (hhead : s.log.pkts = p :: rest) (hspill : p.spilled = false) (k : Nat) : spillCheck k s = s := by
  cases k with
  | zero => rfl
  | succ k => unfold spillCheck; rw [hhead]; exact if_pos (by rw [hspill]; rfl)

theorem logTake_head (hrefill : refilling s = false) (hhead : s.log.pkts = p :: rest) (hspill : p.spilled = false) :
    logTake s = logFell { s with log := { s.log with
      latch := fifoWord p s.log.lossMark, lossMark := false, takenAt := some s.clock
      pkts := if (p.words.drop 7).isEmpty then rest
        else { words := p.words.drop 7, wseq := (p.wseq + 1) % 2 ^ 16, spilled := false } :: rest } } := by
  unfold logTake
  rw [if_neg (by rw [hrefill]; decide), spillCheck_unspilled hhead hspill]
  dsimp only
  rw [hhead]

/-! ### What the window reads -/

theorem latchWord_lt (s : State) (m : Nat) : latchWord s m < 2 ^ 32 := by
  unfold latchWord bits
  rw [show 32 * m + 31 + 1 - 32 * m = 32 by omega]
  exact Nat.mod_lt _ (by decide)

/-- A register with no WO and no staged field reads as its live view, with STAGED_VIEW set or not (R428). -/
theorem hostView_live (hrow : regRow o = some r) (hwo : r.wo = 0) (hrws : r.rws = 0) (hword : view s o < 2 ^ 32) : hostView s o = view s o := by
  unfold hostView
  rw [hrow]; dsimp only
  rw [hwo, hrws]
  have hlive : Nat.land (view s o) (0xFFFFFFFF - 0) = view s o := land_word hword
  have hstaged : Nat.land (stg s o) 0 = 0 := Nat.and_zero _
  rw [hlive, hstaged, hlive]
  split
  · exact Nat.or_zero _
  · rfl

theorem read32_low (halign : o % 4 = 0) (hlow : o < 0x8000) (s : State) : read32 s o = hostView s o := by
  unfold read32; rw [target_low halign hlow]

theorem mapped_low (halign : o % 4 = 0) (hlow : o < 0x8000) (hrow : regRow o = some r) : mapped o = true := by
  unfold mapped; rw [target_low halign hlow, hrow]; rfl

/-- Reading a register with no RC field clears nothing. -/
theorem clearRc_none (halign : o % 4 = 0) (hlow : o < 0x8000) (hrow : regRow o = some r) (hrc : r.rc = 0) (v : Nat) (s : State) : clearRc o v s = s := by
  unfold clearRc
  rw [target_low halign hlow, hrow]; dsimp only
  exact if_pos (by rw [hrc]; exact Nat.zero_and v)

/-! ### The eight words of the latch, LOG_WORD0 to LOG_WORD7 (R328). -/

section
variable {m : Nat} (hm : m < 8)

theorem logWord_align (m : Nat) : Reg.PART_LOG_WORD m % 4 = 0 := by
  show (0x6C40 + 4 * m) % 4 = 0
  omega

include hm

theorem logWord_low : Reg.PART_LOG_WORD m < 0x8000 := by
  show 0x6C40 + 4 * m < 0x8000
  omega

theorem regRow_logWord : regRow (Reg.PART_LOG_WORD m) = some ⟨0x6C40 + 4 * m, 0, 0, 0, 0, 0, 0xffffffff, .step⟩ := by
  have hrows : ∀ m < 8, regRow (Reg.PART_LOG_WORD m) = some ⟨0x6C40 + 4 * m, 0, 0, 0, 0, 0, 0xffffffff, .step⟩ := by decide +kernel
  exact hrows m hm

theorem view_logWord (s : State) : view s (Reg.PART_LOG_WORD m) = latchWord s m := by
  interval_cases m
  all_goals rfl

theorem read32_logWord (s : State) : read32 s (Reg.PART_LOG_WORD m) = latchWord s m := by
  have hview := view_logWord hm s
  rw [read32_low (logWord_align m) (logWord_low hm), hostView_live (regRow_logWord hm) rfl rfl (by rw [hview]; exact latchWord_lt s m), hview]

theorem mapped_logWord : mapped (Reg.PART_LOG_WORD m) = true := mapped_low (logWord_align m) (logWord_low hm) (regRow_logWord hm)

theorem clearRc_logWord (v : Nat) (s : State) : clearRc (Reg.PART_LOG_WORD m) v s = s :=
  clearRc_none (logWord_align m) (logWord_low hm) (regRow_logWord hm) rfl v s

end

/-- A 4-byte read of LOG_WORD0 takes a word and answers the latch's first. -/
theorem windowRead_logWord0 (s : State) :
    windowRead (Reg.PART_LOG_WORD 0) 4 s = emit (.readData 4 (BitVec.ofNat 64 (latchWord (logTake s) 0))) (logTake s) := by
  have hread : windowRead (Reg.PART_LOG_WORD 0) 4 s =
      emit (.readData 4 (BitVec.ofNat 64 (read32 (logTake s) (Reg.PART_LOG_WORD 0)))) (accessErr false (!(mapped (Reg.PART_LOG_WORD 0)))
        (Reg.PART_LOG_WORD 0) 6 false (clearRc (Reg.PART_LOG_WORD 0) (read32 (logTake s) (Reg.PART_LOG_WORD 0)) (logTake s))) := rfl
  rw [hread, read32_logWord (m := 0) (by decide), clearRc_logWord (m := 0) (by decide), mapped_logWord (m := 0) (by decide)]; rfl

/-- An 8-byte read of LOG_WORD0 takes a word and answers the latch's first two. -/
theorem windowRead_logWord0_wide (s : State) : windowRead (Reg.PART_LOG_WORD 0) 8 s =
    emit (.readData 8 (BitVec.ofNat 64 (latchWord (logTake s) 0 + latchWord (logTake s) 1 * 2 ^ 32))) (logTake s) := by
  have herr : wideErr (Reg.PART_LOG_WORD 0) = (false, Reg.PART_LOG_WORD 0) := by
    unfold wideErr; rw [mapped_logWord (m := 0) (by decide), show mapped (Reg.PART_LOG_WORD 0 + 4) = true from mapped_logWord (m := 1) (by decide)]; rfl
  have hread : windowRead (Reg.PART_LOG_WORD 0) 8 s =
      emit (.readData 8 (BitVec.ofNat 64 (read32 (logTake s) (Reg.PART_LOG_WORD 0) + read32 (logTake s) (Reg.PART_LOG_WORD 1) * 2 ^ 32)))
        (accessErr false (wideErr (Reg.PART_LOG_WORD 0)).1 (wideErr (Reg.PART_LOG_WORD 0)).2 6 false
          (clearRc (Reg.PART_LOG_WORD 1) (read32 (logTake s) (Reg.PART_LOG_WORD 1))
            (clearRc (Reg.PART_LOG_WORD 0) (read32 (logTake s) (Reg.PART_LOG_WORD 0)) (logTake s)))) := rfl
  rw [hread, read32_logWord (m := 0) (by decide), read32_logWord (m := 1) (by decide), clearRc_logWord (m := 0) (by decide), clearRc_logWord (m := 1) (by decide), herr]; rfl

/-- Settles O14: a read of LOG_WORD0 takes, then drives the latch (`windowRead_logWord0`, `windowRead_logWord0_wide`), and what a take does is one of the
`logTake` lemmas. That the refill ends after 13 ticks of the clock is the model's choice (log entry 3). -/
theorem logReadTakesWord : Obligations.LogReadTakesWord := by
  unfold Obligations.LogReadTakesWord
  intro s hup hawake
  have hserves : portServes s (Reg.PART_LOG_WORD 0) := ⟨hup, fun hdark => absurd hdark hawake⟩
  have hout (x : Out) : (settle (emit x (logTake s))).out = x :: s.out := congrArg (x :: ·) (logTake_out s)
  refine ⟨⟨_, congrArg finish ((portRead_served hserves).trans (windowRead_logWord0 s)), rfl, hout _⟩,
    ⟨_, congrArg finish ((portRead_served hserves).trans (windowRead_logWord0_wide s)), rfl, hout _⟩,
    fun hempty => ?_, fun hrefill => by rw [logTake_refilling hrefill], fun p rest hrefill hhead hspill => ?_⟩
  · cases hrefill : refilling s with
    | true => rw [logTake_refilling hrefill]
    | false => rw [logTake_empty hrefill hempty, logFell_log]
  · rw [logTake_head hrefill hhead hspill, logFell_log]

end Sys2Proof.Machine
end

section
/-! The writes of TDC_CLR, ACCT_SEL, CAP_SW and LOG_CTL (R332, R350, R363, R368). -/

namespace Sys2Proof.Machine

variable {s : State} {o : Nat} {r : RegRow} {d : W32}

/-! ### Fields that keep a written value (R421) -/

theorem writeRw_none (hrow : regRow o = some r) (hrw : r.rw = 0) (mask v : Nat) (s : State) : writeRw o mask v s = s := by
  unfold writeRw; rw [hrow]; dsimp only
  exact if_pos (by rw [hrw]; exact Nat.zero_and mask)

/-- A register none of whose fields ignores a value takes it whole. -/
theorem rwScreen_whole (h : ignores o = false) (s : State) (v : Nat) : rwScreen s o v = (v, false, []) := by
  simp only [ignores, List.contains_eq_mem, decide_eq_false_iff_not, List.mem_cons, List.not_mem_nil, or_false, not_or] at h
  obtain ⟨hscrub, hsound, hthr, hhigh, hlow⟩ := h
  unfold rwScreen; dsimp only
  rw [if_neg (not_or.mpr ⟨hscrub, hsound⟩), if_neg hthr, if_neg hhigh, if_neg hlow]

/-- A 32-bit write of a register that ignores no value writes its RW fields and keeps the rest. -/
theorem writeRw_word (hrow : regRow o = some r) (hrw : r.rw ≠ 0) (hmask : r.rw < 2 ^ 32) (h : ignores o = false) (v : Nat) (s : State) :
    writeRw o 0xFFFFFFFF v s = setReg o (Nat.lor (Nat.land (reg s o) (0xFFFFFFFF - r.rw)) (Nat.land v r.rw)) s := by
  unfold writeRw
  rw [hrow]; dsimp only
  rw [land_word hmask, if_neg hrw, rwScreen_whole h]; rfl

/-! ### Writes by the kind of fields a register has -/

/-- A 32-bit write that the control port takes of a register with no staged field. -/
theorem portWrite_unstaged (d : W32) (hport : portTakes s o) (halign : o % 4 = 0) (hlow : o < 0x8000) (hrow : regRow o = some r) (hrws : r.rws = 0) :
    portWrite o 4 d.toNat s = writeFx o 0xFFFFFFFF d.toNat (writeRw o 0xFFFFFFFF d.toNat s) := by
  rw [portWrite_word d hport (aligned_word halign) (mapped_low halign hlow hrow) (target_low halign hlow)]
  unfold writeReg; rw [hrow]; dsimp only
  rw [if_pos (by rw [hrws]; exact Nat.zero_and _)]

/-- A 32-bit write that the control port takes of a register with staged fields and none that is written at once. -/
theorem portWrite_staged (d : W32) (hport : portTakes s o) (halign : o % 4 = 0) (hlow : o < 0x8000) (hrow : regRow o = some r) (hrw : r.rw = 0)
    (hrws : r.rws ≠ 0) (hmask : r.rws < 2 ^ 32) :
    portWrite o 4 d.toNat s = writeFx o 0xFFFFFFFF d.toNat (stageBits o r.rws d.toNat s) := by
  rw [portWrite_word d hport (aligned_word halign) (mapped_low halign hlow hrow) (target_low halign hlow)]
  unfold writeReg; rw [hrow]; dsimp only
  rw [writeRw_none hrow hrw, land_word hmask, if_neg hrws]

/-! ### What the write of each register starts -/

theorem regRow_detCtl : regRow Reg.PART_DET_CTL = some ⟨0x6400, 0x480, 0, 0x1fff, 0, 0x2000, 0, .step⟩ := by decide +kernel

theorem regRow_acctSel : regRow Reg.PART_ACCT_SEL = some ⟨0x6040, 0, 0x1fff, 0, 0, 0, 0x80000000, .step⟩ := by decide +kernel

theorem regRow_capSwHi : regRow Reg.PART_CAP_SW_HI = some ⟨0x6440, 0, 0xffffffff, 0, 0, 0, 0, .step⟩ := by decide +kernel

theorem regRow_logCtl : regRow Reg.PART_LOG_CTL = some ⟨0x6C00, 0x5, 0xf, 0, 0, 0x10, 0, .step⟩ := by decide +kernel

/-- Bit 13 of DET_CTL clears TDC and its sources (R363). -/
theorem writeFx_detCtl (d : W32) (s : State) : writeFx Reg.PART_DET_CTL 0xFFFFFFFF d.toNat s = if d.getLsbD 13 then clearTdc s else s := by
  unfold writeFx; rw [land_word d.isLt]; rfl

/-- A write of CLIENT asks for the client's entry (R350). -/
theorem writeFx_acctSel (v : Nat) (s : State) : writeFx Reg.PART_ACCT_SEL 0xFFFFFFFF v s = raiseBit Reg.PART_ACCT_SEL 31 (acctRead s) := rfl

/-- A write of CAP_SW_HI makes the count take effect (R368). -/
theorem writeFx_capSwHi (v : Nat) (s : State) :
    writeFx Reg.PART_CAP_SW_HI 0xFFFFFFFF v s = capSw (BitVec.ofNat 32 (reg s Reg.PART_CAP_SW_HI)) s := rfl

/-- Bit 4 of LOG_CTL asks for a flush (R332). -/
theorem writeFx_logCtl (d : W32) (s : State) : writeFx Reg.PART_LOG_CTL 0xFFFFFFFF d.toNat s = if d.getLsbD 4 then flushAsk s else s := by
  unfold writeFx; rw [land_word d.isLt]; rfl

/-- Settles O15: each row writes its register, whose fields are staged (`portWrite_staged`) or written at once (`portWrite_unstaged`, `writeRw_word`), and
starts what the `writeFx` lemma of the register says. -/
theorem writesThatAct : Obligations.WritesThatAct := by
  unfold Obligations.WritesThatAct
  intro s d
  refine ⟨fun hport => congrArg finish ?_, fun hport => congrArg finish ?_, fun hport => congrArg finish ?_, fun hport => congrArg finish ?_⟩
  · rw [portWrite_staged d hport (by decide) (by decide) regRow_detCtl rfl (by decide) (by decide), writeFx_detCtl]; rfl
  · rw [portWrite_unstaged d hport (by decide) (by decide) regRow_acctSel rfl,
      writeRw_word regRow_acctSel (by decide) (by decide) (by decide), writeFx_acctSel]
  · rw [portWrite_unstaged d hport (by decide) (by decide) regRow_capSwHi rfl, writeFx_capSwHi]
  · rw [portWrite_unstaged d hport (by decide) (by decide) regRow_logCtl rfl,
      writeRw_word regRow_logCtl (by decide) (by decide) (by decide), writeFx_logCtl]; rfl

end Sys2Proof.Machine
end

section
/-! What holds of every step and at reset: the front command, the tick of an empty queue, canonical maps and their readings (spec/00, R398). -/

namespace Sys2Proof.Machine

variable {s t : State}

/-! ### The end of every meaning -/

/-- Whatever the command, its meaning ends in `finish`. -/
theorem exec_settled (c : Instr) (s : State) : ∃ u, exec c s = .next (settle u) := by cases c <;> exact ⟨_, rfl⟩

theorem settle_nvmRd (s : State) (o n : Nat) : nvmRd (settle s) o n = nvmRd s o n :=
  List.map_congr_left fun i _ => cellGet_cellCanon memDefault s.nvm.bytes (o + i)

/-- Settles O1: `step` on a queue with a front command is `exec` of that command. -/
theorem stepRunsFrontCommand : Obligations.StepRunsFrontCommand := by
  unfold Obligations.StepRunsFrontCommand
  intro s c rest hqueue
  unfold step; rw [hqueue]

/-- Settles O3: every meaning ends in `finish` (`exec_settled`), which puts the maps into canonical form (`settle_wf`). That none stops is the model's
choice (log entry 1). -/
theorem everyCommandCompletes : Obligations.EveryCommandCompletes := by
  unfold Obligations.EveryCommandCompletes
  intro c s
  obtain ⟨u, hu⟩ := exec_settled c s
  exact ⟨_, hu, settle_wf u⟩

/-- Settles O4: reset lists no register, counter or byte, and holds no reply, no running command and no step. -/
theorem resetIsCanonical : Obligations.ResetIsCanonical := ⟨rfl, rfl⟩

/-- Settles O6: reading a key of a map's canonical form gives what reading the map gives (`cellGet_cellCanon`), and a canonical map is its own canonical
form (`settle_of_wf`). -/
theorem settleChangesNoReading : Obligations.SettleChangesNoReading := by
  unfold Obligations.SettleChangesNoReading
  intro s
  exact ⟨settle_reg s, settle_stg s, settle_cnt s, cellGet_cellCanon _ s.pub, cellGet_cellCanon _ s.mboxCmd, settle_rd8 s, settle_nvmRd s, settle_of_wf s⟩

/-! ### The tick of an empty queue -/

/-- A tick of a slice that does not serve its ports only counts. -/
theorem idle_down (h : forwarding s = false) : idle s = { s with clock := s.clock + 1 } := by
  have hup : forwarding { s with clock := s.clock + 1 } = false := h
  unfold idle; dsimp only; rw [hup]; rfl

theorem idle_fenced (h : forwarding s = true) (hfenced : fenced s = true) : idle s = settle (spillCycle { s with clock := s.clock + 1 }) := by
  have hup : forwarding { s with clock := s.clock + 1 } = true := h
  have hf : fenced { s with clock := s.clock + 1 } = true := hfenced
  unfold idle; dsimp only; rw [hup, hf]; rfl

theorem idle_open (h : forwarding s = true) (hopen : fenced s = false) : idle s = settle (repAdvance (replayRows (resumeFetch (checkRecv (combPoll
    (holdCycle (ejectNext (ejectHead (fabDrain true (fabDrain false (bucketCycle (spillCycle { s with clock := s.clock + 1 })))))))))))) := by
  have hup : forwarding { s with clock := s.clock + 1 } = true := h
  have hf : fenced { s with clock := s.clock + 1 } = false := hopen
  unfold idle; dsimp only; rw [hup, hf]; rfl

theorem step_empty (h : s.pending = []) : step s = .next (idle s) := by unfold step; rw [h]

/-- Settles O2: with no command waiting the step is one tick (`step_empty`), in its three cases. That time passes so is the model's choice (log entry 3). -/
theorem stepEmptyQueueTicks : Obligations.StepEmptyQueueTicks := by
  unfold Obligations.StepEmptyQueueTicks
  intro s hempty
  exact ⟨idle s, step_empty hempty, idle_down, idle_fenced, idle_open⟩

/-- A tick keeps the maps canonical. -/
theorem idle_wf (h : s.wf = true) : (idle s).wf = true := by
  cases hup : forwarding s with
  | false => rw [idle_down hup]; exact h
  | true =>
    cases hf : fenced s with
    | true => rw [idle_fenced hup hf]; exact settle_wf _
    | false => rw [idle_open hup hf]; exact settle_wf _

/-- Settles O5: a command's meaning ends in `settle` (`exec_settled`), and so does a tick that changes more than the clock (`idle_wf`). -/
theorem stepKeepsCanonical : Obligations.StepKeepsCanonical := by
  unfold Obligations.StepKeepsCanonical
  intro s t hwf hstep
  unfold step at hstep
  split at hstep
  case h_1 => obtain rfl := Host.Outcome.next.inj hstep; exact idle_wf hwf
  case h_2 c rest _ =>
    obtain ⟨u, hu⟩ := exec_settled c { s with pending := rest }
    obtain rfl := Host.Outcome.next.inj (hu.symm.trans hstep)
    exact settle_wf u

/-- The reset value a row of the register map gives is what its offset reads as after reset. -/
theorem regTable_reset : ∀ r ∈ regTable, (regReset r.off).toNat = r.reset := by decide +kernel

/-- Settles O7: reset lists no register, so that each reads as its row's reset value (`regTable_reset`); where the spec states none that value is the model's
own (log entry 14). -/
theorem resetValues : Obligations.ResetValues := by
  unfold Obligations.ResetValues
  exact ⟨regTable_reset, rfl, by decide +kernel, by decide +kernel, by decide +kernel, by decide +kernel, rfl, rfl, rfl, rfl, rfl, rfl, rfl, rfl, rfl, rfl, rfl,
    fun _ => rfl⟩

end Sys2Proof.Machine
end

section
/-! Accesses of the register window in every form (R400, R407, R418, R420 to R424, R428, R429, R436), and the copy of an accounting entry (R350). -/

namespace Sys2Proof.Machine

variable {s : State} {o off size v : Nat} {r : RegRow}

/-! ### Reads (R423, R428) -/

theorem portRead_down (h : ctlUp s = false) (off size : Nat) : portRead off size s = s := by unfold portRead; rw [h]; rfl

/-- In DARK an offset outside the AON responder's reads all ones (R407). -/
theorem portRead_dark (hup : ctlUp s = true) (hdark : pwrState s = 2) (hoff : aonServed off = false) (size : Nat) :
    portRead off size s = emit (.readData size (BitVec.ofNat 64 (2 ^ (8 * size) - 1))) s := by
  unfold portRead; rw [hup, hdark, hoff]; rfl

theorem readTake_other (h : off ≠ Reg.PART_LOG_WORD 0) (s : State) : readTake off s = s := if_neg h

theorem windowRead_misaligned (h : aligned off size = false) (s : State) : windowRead off size s
    = emit (.readData size (BitVec.ofNat 64 (2 ^ (8 * size) - 1))) (accessErr true (!(mapped off)) off 4 false s) := by
  unfold windowRead; rw [h]; rfl

theorem windowRead_narrow (h : aligned off size = true) (hsize : size < 4) (s : State) : windowRead off size s
    = emit (.readData size (BitVec.ofNat 64 (read32 s off / 2 ^ (8 * (off % 4)) % 2 ^ (8 * size)))) (accessErr true (!(mapped off)) off (size - 1) false s) := by
  unfold windowRead; rw [h, if_neg (by decide), if_pos hsize]

theorem windowRead_word (h : off % 4 = 0) (hlog : off ≠ Reg.PART_LOG_WORD 0) (s : State) : windowRead off 4 s
    = emit (.readData 4 (BitVec.ofNat 64 (read32 s off))) (accessErr false (!(mapped off)) off 6 false (clearRc off (read32 s off) s)) := by
  unfold windowRead; rw [aligned_word h, readTake_other hlog]; rfl

theorem windowRead_wide (h : aligned off 8 = true) (hlog : off ≠ Reg.PART_LOG_WORD 0) (s : State) : windowRead off 8 s
    = emit (.readData 8 (BitVec.ofNat 64 (read32 s off + read32 s (off + 4) * 2 ^ 32)))
        (accessErr false (!(mapped off) || !(mapped (off + 4))) (if mapped off && !(mapped (off + 4)) then off + 4 else off) 6 false
          (clearRc (off + 4) (read32 s (off + 4)) (clearRc off (read32 s off) s))) := by
  unfold windowRead; rw [h, readTake_other hlog]; rfl

/-- Settles O9: a read the port serves is a read of the window (`portRead_served`), whose form by width and alignment is one of the `windowRead` lemmas. -/
theorem registerReadForms : Obligations.RegisterReadForms := by
  unfold Obligations.RegisterReadForms
  intro s off
  refine ⟨fun hserves halign hlog => ?_, fun hserves halign hlog => ?_, fun size hsize hserves halign => ?_, fun size hserves halign => ?_,
    fun size hup hdark hoff => ?_, fun size hdown => ?_⟩ <;> refine congrArg finish ?_
  · exact (portRead_served hserves).trans (windowRead_word halign hlog s)
  · exact (portRead_served hserves).trans (windowRead_wide halign hlog s)
  · exact (portRead_served hserves).trans (windowRead_narrow halign hsize s)
  · exact (portRead_served hserves).trans (windowRead_misaligned halign s)
  · exact portRead_dark hup hdark hoff size
  · exact portRead_down hdown off size

/-- A read clears in the register it reads the RC bits it returns as 1. -/
theorem clearRc_word (halign : off % 4 = 0) (hlow : off < 0x8000) (hrow : regRow off = some r) (v : Nat) (s : State) :
    clearRc off v s = if Nat.land r.rc v = 0 then s else setReg off (Nat.land (reg s off) (0xFFFFFFFF - Nat.land r.rc v)) s := by
  unfold clearRc; rw [target_low halign hlow]; dsimp only
  rw [hrow]; dsimp only; rw [regRow_off hrow]

theorem land_lt_word {v : Nat} (h : v < 2 ^ 32) (m : Nat) : Nat.land v m < 2 ^ 32 := Nat.lt_of_le_of_lt Nat.and_le_left h

theorem reg_clearRc_same (hs : cellWf regReset s.live = true) (halign : off % 4 = 0) (hlow : off < 0x8000) (hrow : regRow off = some r) (v : Nat) :
    reg (clearRc off v s) off = Nat.land (reg s off) (0xFFFFFFFF - Nat.land r.rc v) := by
  rw [clearRc_word halign hlow hrow]
  split
  · next hnone => rw [hnone]; exact (land_word (reg_lt s off)).symm
  · rw [reg_setReg_same s hs, Nat.mod_eq_of_lt (land_lt_word (reg_lt s off) _)]

theorem reg_clearRc_ne (halign : off % 4 = 0) (hlow : off < 0x8000) (hrow : regRow off = some r) (v : Nat) (s : State) (h : o ≠ off) :
    reg (clearRc off v s) o = reg s o := by
  rw [clearRc_word halign hlow hrow]
  split
  · rfl
  · exact reg_setReg_ne s h _

theorem clearRc_live_wf (hs : cellWf regReset s.live = true) (halign : off % 4 = 0) (hlow : off < 0x8000) (hrow : regRow off = some r) (v : Nat) :
    cellWf regReset (clearRc off v s).live = true := by
  rw [clearRc_word halign hlow hrow]
  split
  · exact hs
  · exact setReg_live_wf s hs _ _

/-- Settles O8: at the aligned offset of a mapped register the access is no error, so that the word driven is the host view and what changes is what
`clearRc` clears. -/
theorem registerReadWord : Obligations.RegisterReadWord := by
  unfold Obligations.RegisterReadWord
  intro s off r hwf hserves halign hlow hrow hlog
  have hval : read32 s off = hostView s off := by unfold read32; rw [target_low halign hlow]
  have hread : portRead off 4 s = emit (.readData 4 (BitVec.ofNat 64 (hostView s off))) (clearRc off (hostView s off) s) := by
    rw [portRead_served hserves, windowRead_word halign hlog, mapped_low halign hlow hrow, hval]; rfl
  have hkeep : settle (clearRc off (hostView s off) s) = clearRc off (hostView s off) s := by
    rw [clearRc_only off (hostView s off) s]
    exact settle_live_of_wf hwf (clearRc_live_wf (wf_live hwf) halign hlow hrow _)
  have hlive := clearRc_only off (hostView s off) s
  refine ⟨_, (congrArg finish hread).trans (congrArg (fun u => Host.Outcome.next (emit _ u)) hkeep), ?_, ?_, ?_, ?_⟩
  · rw [hlive]; rfl
  · exact reg_clearRc_same (wf_live hwf) halign hlow hrow _
  · intro o ho; exact reg_clearRc_ne halign hlow hrow _ s ho
  · rw [hlive]; rfl

/-! ### Writes (R420, R421, R424) -/

theorem portWrite_untaken (h : ¬portTakes s off) (size v : Nat) : portWrite off size v s = s := by
  unfold portWrite
  cases hup : ctlUp s with
  | false => rfl
  | true =>
    refine (if_neg (by decide)).trans (if_pos ?_)
    simp only [portTakes, hup, true_and, not_forall, not_or, not_and, not_le] at h
    obtain ⟨hdark, haon, hbox⟩ := h
    simpa [hdark, haon, imp_iff_not_or] using hbox

theorem windowWrite_misaligned (h : aligned off size = false) (v : Nat) (s : State) :
    windowWrite off size v s = accessErr true (!(mapped off)) off 5 false s := by
  unfold windowWrite; rw [h]; rfl

theorem windowWrite_narrow (h : aligned off size = true) (hsize : size < 4) (v : Nat) (s : State) :
    windowWrite off size v s = accessErr true (!(mapped off)) off (size + 1) false s := by
  unfold windowWrite; rw [h, if_neg (by decide), if_pos hsize]

theorem windowWrite_word (h : off % 4 = 0) (v : Nat) (s : State) :
    windowWrite off 4 v s = accessErr false (!(mapped off)) off 7 false (write32 off 0xFFFFFFFF (v % 2 ^ 32) s) := by
  unfold windowWrite; rw [aligned_word h]; rfl

theorem windowWrite_wide (h : aligned off 8 = true) (v : Nat) (s : State) : windowWrite off 8 v s
    = accessErr false (!(mapped off) || !(mapped (off + 4))) (if mapped off && !(mapped (off + 4)) then off + 4 else off) 7 false
        (write32 (off + 4) 0xFFFFFFFF (v / 2 ^ 32 % 2 ^ 32) (write32 off 0xFFFFFFFF (v % 2 ^ 32) s)) := by
  unfold windowWrite; rw [h]; rfl

/-- Settles O11: a write the port takes is a write of the window (`portWrite_taken`), whose form by width and alignment is one of the `windowWrite` lemmas. -/
theorem registerWriteForms : Obligations.RegisterWriteForms := by
  unfold Obligations.RegisterWriteForms
  intro s off v
  refine ⟨fun htakes halign => ?_, fun htakes halign => ?_, fun size hsize htakes halign => ?_, fun size htakes halign => ?_,
    fun size hleft => ?_⟩ <;> refine congrArg finish ?_
  · exact (portWrite_taken htakes).trans (windowWrite_word halign _ s)
  · exact (portWrite_taken htakes).trans (windowWrite_wide halign _ s)
  · exact (portWrite_taken htakes).trans (windowWrite_narrow halign hsize _ s)
  · exact (portWrite_taken htakes).trans (windowWrite_misaligned halign _ s)
  · exact portWrite_untaken hleft size _

/-- A canonical state with other canonical registers, live and staged, is its own end. -/
theorem settle_regs_of_wf (h : s.wf = true) {l m : RegMap} {b : Bool} {p : Power} (hl : cellWf regReset l = true) (hm : cellWf regReset m = true) :
    settle { s with live := l, staged := m, cfgBusy := b, power := p } = { s with live := l, staged := m, cfgBusy := b, power := p } := by
  apply settle_of_wf
  simp only [State.wf, Bool.and_eq_true] at h ⊢
  obtain ⟨⟨⟨⟨⟨⟨-, -⟩, hcnt⟩, hpub⟩, hmbox⟩, hmem⟩, hnvm⟩ := h
  exact ⟨⟨⟨⟨⟨⟨hl, hm⟩, hcnt⟩, hpub⟩, hmbox⟩, hmem⟩, hnvm⟩

/-- The masks of the register map are words. -/
theorem regTable_masks : ∀ r ∈ regTable, r.rw < 2 ^ 32 ∧ r.rws < 2 ^ 32 := by decide +kernel

theorem regRow_masks (h : regRow off = some r) : r.rw < 2 ^ 32 ∧ r.rws < 2 ^ 32 := regTable_masks r (List.mem_of_find?_eq_some h)

/-- A register whose write does nothing of its own starts nothing. -/
theorem writeFx_none (h : writeActs o = false) (m v : Nat) (s : State) : writeFx o m v s = s := by
  simp only [writeActs, List.contains_eq_mem, Bool.or_eq_false_iff, decide_eq_false_iff_not, List.mem_cons, List.not_mem_nil, or_false, not_or,
    Bool.and_eq_false_iff] at h
  obtain ⟨hcmd, hbell, hpop, hclr, hacct, hdet, hsw, hmargin, hlog, hboot⟩ := h
  unfold writeFx; dsimp only
  rw [if_neg (by tauto), if_neg hbell, if_neg hpop, if_neg hclr, if_neg hacct, if_neg hdet, if_neg hsw, if_neg hmargin, if_neg hlog, if_neg hboot]

/-- The word a register holds once the bits of a mask take the bits of a value. -/
def masked (mask old v : Nat) : Nat := Nat.lor (Nat.land old (0xFFFFFFFF - mask)) (Nat.land v mask)

theorem masked_lt {mask old v : Nat} (hold : old < 2 ^ 32) (hv : v < 2 ^ 32) : masked mask old v < 2 ^ 32 :=
  Nat.or_lt_two_pow (land_lt_word hold _) (land_lt_word hv _)

theorem masked_none {old v : Nat} (hold : old < 2 ^ 32) : masked 0 old v = old := by
  show Nat.lor (Nat.land old 0xFFFFFFFF) (Nat.land v 0) = old
  rw [land_word hold]; exact (congrArg (Nat.lor old) (Nat.and_zero v)).trans (Nat.or_zero old)

/-- The live registers and the staged copies after a 32-bit write of a register's fields (R421, R424). -/
def liveWritten (r : RegRow) (v : Nat) (s : State) : RegMap := if r.rw = 0 then s.live else (setReg r.off (masked r.rw (reg s r.off) v) s).live

def stagedWritten (r : RegRow) (v : Nat) (s : State) : RegMap := if r.rws = 0 then s.staged else (setStg r.off (masked r.rws (stg s r.off) v) s).staged

/-- What a 32-bit write of a register leaves that ignores no value and starts nothing: its fields, and the marks of a staged write (R421, R431). -/
def wordWritten (r : RegRow) (v : Nat) (s : State) : State :=
  { s with live := liveWritten r v s, staged := stagedWritten r v s, cfgBusy := s.cfgBusy || decide (r.rws ≠ 0)
           power := { s.power with vofsSet := s.power.vofsSet || decide (r.off = Reg.REL_SND_VOFS ∧ r.rws ≠ 0) } }

theorem liveWritten_wf (hs : cellWf regReset s.live = true) (r : RegRow) (v : Nat) : cellWf regReset (liveWritten r v s) = true := by
  unfold liveWritten; split
  · exact hs
  · exact setReg_live_wf s hs _ _

theorem stagedWritten_wf (hs : cellWf regReset s.staged = true) (r : RegRow) (v : Nat) : cellWf regReset (stagedWritten r v s) = true := by
  unfold stagedWritten; split
  · exact hs
  · exact cellSet_wf hs

theorem reg_liveWritten (hs : cellWf regReset s.live = true) (hv : v < 2 ^ 32) (r : RegRow) (o : Nat) :
    reg { s with live := liveWritten r v s } o = if o = r.off then masked r.rw (reg s r.off) v else reg s o := by
  unfold liveWritten
  by_cases ho : o = r.off
  · rw [if_pos ho, ho]; split
    · next hnone => rw [hnone]; exact (masked_none (reg_lt s _)).symm
    · exact (reg_setReg_same s hs _ _).trans (Nat.mod_eq_of_lt (masked_lt (reg_lt s _) hv))
  · rw [if_neg ho]; split
    · rfl
    · exact reg_setReg_ne s ho _

theorem stg_stagedWritten (hs : cellWf regReset s.staged = true) (hv : v < 2 ^ 32) (r : RegRow) (o : Nat) :
    stg { s with staged := stagedWritten r v s } o = if o = r.off then masked r.rws (stg s r.off) v else stg s o := by
  unfold stagedWritten
  by_cases ho : o = r.off
  · rw [if_pos ho, ho]; split
    · next hnone => rw [hnone]; exact (masked_none (stg_lt s _)).symm
    · exact (stg_setStg_same s hs _ _).trans (Nat.mod_eq_of_lt (masked_lt (stg_lt s _) hv))
  · rw [if_neg ho]; split
    · rfl
    · exact stg_setStg_ne s ho _

/-- The RW fields of a register are written live. -/
theorem writeRw_written (hrow : regRow off = some r) (h : ignores off = false) (v : Nat) (s : State) :
    writeRw off 0xFFFFFFFF v s = { s with live := liveWritten r v s } := by
  unfold liveWritten
  split
  · next hnone => exact writeRw_none hrow hnone _ v s
  · next hsome => rw [writeRw_word hrow hsome (regRow_masks hrow).1 h, regRow_off hrow]; rfl

theorem writeReg_written (hrow : regRow off = some r) (hacts : writeActs off = false) (h : ignores off = false) (v : Nat) (s : State) :
    writeReg off 0xFFFFFFFF v s = wordWritten r v s := by
  unfold writeReg; rw [hrow]; dsimp only
  rw [writeFx_none hacts, land_word (regRow_masks hrow).2, writeRw_written hrow h]
  unfold wordWritten stagedWritten
  split
  · next hnone => simp [hnone]
  · next hsome => simp [hsome, stageBits, stageReg, setStg, stg, masked, regRow_off hrow]

theorem settle_wordWritten (h : s.wf = true) (r : RegRow) (v : Nat) : settle (wordWritten r v s) = wordWritten r v s :=
  settle_regs_of_wf h (liveWritten_wf (wf_live h) r v) (stagedWritten_wf (wf_staged h) r v)

/-- Settles O10: the port's 32-bit write is `writeReg` (`portWrite_word`), which leaves `wordWritten` (`writeReg_written`): the RW fields live, the RWS fields
in the staged copy. -/
theorem registerWriteWord : Obligations.RegisterWriteWord := by
  unfold Obligations.RegisterWriteWord
  intro s off v r hwf htakes halign hlow hrow hacts hign hv
  have hport : portWrite off 4 v.toNat s = wordWritten r v.toNat s := by
    have hword := portWrite_word (BitVec.ofNat 32 v.toNat) htakes (aligned_word halign) (mapped_low halign hlow hrow) (target_low halign hlow)
    rw [BitVec.toNat_ofNat, Nat.mod_eq_of_lt hv] at hword
    rw [hword, writeReg_written hrow hacts hign]
  obtain rfl := regRow_off hrow
  have hlive := reg_liveWritten (wf_live hwf) hv r
  have hstaged := stg_stagedWritten (wf_staged hwf) hv r
  exact ⟨wordWritten r v.toNat s, congrArg Host.Outcome.next (by rw [hport, settle_wordWritten hwf]), (hlive _).trans (if_pos rfl),
    fun o ho => (hlive o).trans (if_neg ho), (hstaged _).trans (if_pos rfl), fun o ho => (hstaged o).trans (if_neg ho), rfl, rfl, rfl⟩

/-! ### The copy of an accounting entry (R350) -/

theorem acctCopied_asked (h : flag s Reg.PART_ACCT_SEL 31 = true) : acctCopied s = dropBit Reg.PART_ACCT_SEL 31
    { s with acct := BitVec.ofNat 256 (if s.part.acctBase = 0 then 0 else rdLe s (s.part.acctBase + 32 * fld s Reg.PART_ACCT_SEL 12 0) 32) } := by
  unfold acctCopied; rw [h]; rfl

theorem acctCopied_idle (h : flag s Reg.PART_ACCT_SEL 31 = false) : acctCopied s = s := by unfold acctCopied; rw [h]; rfl

/-- Settles O16: the port is up outside DARK, and BUSY says whether a copy is under way. -/
theorem acctCopyShows : Obligations.AcctCopyShows := by
  unfold Obligations.AcctCopyShows
  intro s hup hawake
  have hrow : exec .acctCopyDone s = finish (acctCopied s) := congrArg finish (if_pos (by simp [hup, hawake]))
  exact ⟨fun hbusy => hrow.trans (congrArg finish (acctCopied_asked hbusy)), fun hidle => hrow.trans (congrArg finish (acctCopied_idle hidle))⟩

end Sys2Proof.Machine
end

section
/-! The record and replay unit: what CAPTURE and REPLAY start and stop, and what completes them (R364 to R366, R368, R370 to R372). -/

namespace Sys2Proof.Machine

variable {s : State} {p : HostPkt}

/-! ### CAPTURE and REPLAY (R364, R370) -/

theorem hostDo_capture (h : hOp p = 0x60) (s : State) : hostDo p s = doCapture p s := by unfold hostDo; rw [h]; rfl
theorem hostDo_replay (h : hOp p = 0x61) (s : State) : hostDo p s = doReplay p s := by unfold hostDo; rw [h]; rfl

/-- The buffers of a START are taken: the ring, and nothing staged, reserved or gathered (R364). -/
def capTaken (p : HostPkt) (l : List Addr) (v : State) : State :=
  { v with cap := { v.cap with digest := bit (hPar p 1 1) 0, bufs := l, ringBase := bits (hPar p 8 8) 47 0, ringSize := hPar p 4 4 * 0x10000, staged := [],
                               sent := 0, reserved := 0, keepUsed := 0, arr := [], work := [], waiting := [] } }

/-- A capture asked to start: DONE and SW are 0, MODE is start pending, the reply is kept (R364; log entry 31). -/
def capPending (p : HostPkt) (w : State) : State :=
  let x := setReg Reg.PART_CAP_SW_LO 0 (setReg Reg.PART_CAP_SW_HI 0 (setReg Reg.PART_CAP_DONE_LO 0 (setReg Reg.PART_CAP_DONE_HI 0 w)))
  setFld Reg.PART_CAP_STAT 1 0 3 { x with cap := { x.cap with start := some (mkReply p 0 []), sw := 0 } }

section
variable {l : List Addr} {v : State} {n : Nat}

theorem takeCap_room (h : allocBufs 2 (hPar p 2 2) none s = (0, l, v)) (k : State → State) : takeCap p k s = k (capTaken p l v) := by
  unfold takeCap; rw [h]; rfl

theorem takeCap_full (h : allocBufs 2 (hPar p 2 2) none s = (n + 1, l, v)) (k : State → State) : takeCap p k s = reject p { code := 7, off := 34 } v := by
  unfold takeCap; rw [h]; rfl

variable (hstart : bit (hPar p 0 1) 0 = false)
include hstart

theorem doCapture_start (h : allocBufs 2 (hPar p 2 2) none s = (0, l, v)) : doCapture p s = capPending p (capTaken p l v) :=
  (if_neg (by rw [hstart]; decide)).trans (takeCap_room h _)

theorem doCapture_full (h : allocBufs 2 (hPar p 2 2) none s = (n + 1, l, v)) : doCapture p s = reject p { code := 7, off := 34 } v :=
  (if_neg (by rw [hstart]; decide)).trans (takeCap_full h _)

theorem doReplay_start (h : allocBufs 2 (hPar p 2 2) none s = (0, l, v)) : doReplay p s = repStart (answer (mkReply p 0 []) (capTaken p l v)) :=
  (if_neg (by rw [hstart]; decide)).trans (takeCap_room h _)

theorem doReplay_full (h : allocBufs 2 (hPar p 2 2) none s = (n + 1, l, v)) : doReplay p s = reject p { code := 7, off := 34 } v :=
  (if_neg (by rw [hstart]; decide)).trans (takeCap_full h _)

end

theorem doCapture_stop (hstop : bit (hPar p 0 1) 0 = true) (s : State) : doCapture p s = { s with cap := { s.cap with stop := some (mkReply p 0 []) } } :=
  if_pos hstop

theorem doReplay_stop (hstop : bit (hPar p 0 1) 0 = true) (s : State) :
    doReplay p s = answer (mkReply p 0 [match s.cap.divSeq with | some q => q.toNat | none => 0]) (repStop s) :=
  if_pos hstop

/-! ### What completes them (R364, R368) -/

theorem exec_captureStartApply (hkeeper : keeperUp s = true) : exec .captureStartApply s = .next (settle (capStart s)) := congrArg finish (if_pos hkeeper)

theorem exec_captureStopApply (hkeeper : keeperUp s = true) : exec .captureStopApply s = .next (settle (capStop s)) := congrArg finish (if_pos hkeeper)

theorem exec_captureRingCopy (hkeeper : keeperUp s = true) : exec .captureRingCopy s = .next (settle (ringCopy s)) := congrArg finish (if_pos hkeeper)

/-- Settles O25: an accepted packet does what its opcode says (`finish_hostRow`), a START by whether its buffers are there. That START clears SW and DONE,
and that STOP answers 0 without a divergence, is log entry 31. -/
theorem captureAndReplay : Obligations.CaptureAndReplay := by
  unfold Obligations.CaptureAndReplay
  intro p s u
  refine ⟨fun l v hpass hreach hstart hroom => ?_, fun hpass hreach hstop => ?_, fun l v hpass hreach hstart hroom => ?_,
    fun k l v hpass hstart hfull => ⟨fun hreach => ?_, fun hreach => ?_⟩, fun hpass hreach hstop => ?_,
    fun hkeeper => ⟨exec_captureStartApply hkeeper, exec_captureStopApply hkeeper, exec_captureRingCopy hkeeper⟩⟩
  · exact finish_hostRow hpass hreach (by rw [hstart]; rfl) (by decide) ((hostDo_capture hreach.1 _).trans (doCapture_start hstart hroom))
  · exact finish_hostRow hpass hreach hstop (by decide) ((hostDo_capture hreach.1 _).trans (doCapture_stop hstop _))
  · exact finish_hostRow hpass hreach (by rw [hstart]; rfl) (by decide) ((hostDo_replay hreach.1 _).trans (doReplay_start hstart hroom))
  · exact finish_hostRow hpass hreach (by rw [hstart]; rfl) (by decide) ((hostDo_capture hreach.1 _).trans (doCapture_full hstart hfull))
  · exact finish_hostRow hpass hreach (by rw [hstart]; rfl) (by decide) ((hostDo_replay hreach.1 _).trans (doReplay_full hstart hfull))
  · exact finish_hostRow hpass hreach hstop (by decide) ((hostDo_replay hreach.1 _).trans (doReplay_stop hstop _))

/-- A requested capture starts where no step is enqueued: the START record, MODE 1, the reply (R364, R366). -/
theorem capStart_starts {r : Reply} (hmode : capMode s = 3) (hidle : s.steps.any (fun x => x.phase != .accepted) = false) (hreply : s.cap.start = some r) :
    capStart s = capMargin (queueReply { r with r0 := nextStep s } (capPush 1 0 false (nextStep s).toNat
      (leBytes 4 (stateDigest s) ++ leBytes 4 (kgen s) ++ leBytes 4 (nextStep s).toNat
        ++ leBytes 4 (b2n s.cap.digest + b2n (flag s Reg.PART_DET_CTL 0) * 2))
      (markTdc (setReg Reg.PART_CAP_SEQNO 0 (setFld Reg.PART_CAP_STAT 1 0 1 { s with cap := { s.cap with start := none } }))))) := by
  unfold capStart
  rw [if_neg (by simp [hmode, hidle]), hreply]

theorem capStart_waits (h : capMode s ≠ 3 ∨ s.steps.any (fun x => x.phase != .accepted) = true) : capStart s = s := if_pos h

theorem capStop_stops (hmode : capMode s = 1) (hstop : s.cap.stop ≠ none) (hsteps : s.steps = []) :
    capStop s = setFld Reg.PART_CAP_STAT 1 0 0 (setFld Reg.PART_CAP_STAT 3 3 0
      (capPush 2 0 false (nextStep s).toNat (leBytes 8 (reg64 s Reg.PART_TDC_LO)) s)) :=
  if_neg (by simp [hmode, hstop, hsteps])

theorem capStop_waits (h : capMode s ≠ 1 ∨ s.cap.stop = none ∨ s.steps ≠ []) : capStop s = s :=
  if_pos (by simpa using h)

/-- Settles O56: an accepted packet does what its opcode says (`finish_hostRow`), the two appliers what `capStart` and `capStop` say, and CAPTURE_RING_COPY
one pass of `ringCopy`. START clearing DONE and SW, the first record at RING_BASE and STOP answering 0 without a divergence are log entry 31,
CAPTURE_STOP_APPLY clearing CRED_HOLD log entry 106, the ring's writes not waiting on the MEM bucket log entry 78: the model's choices. -/
theorem captureAndReplayComplete : Obligations.CaptureAndReplayComplete := by
  unfold Obligations.CaptureAndReplayComplete
  intro p s u taken
  refine ⟨fun l v hpass hreach hstart hroom => ?_, fun hpass hreach hstop => ?_, fun l v hpass hreach hstart hroom => ?_, fun hpass hreach hstop => ?_,
    fun r hkeeper hmode hidle hreply => ?_, fun hkeeper hwaits => ?_, fun hkeeper hmode hstop hsteps => ?_, fun hkeeper hwaits => ?_,
    fun hkeeper hmode hbufs => ?_⟩
  · exact finish_hostRow hpass hreach (by rw [hstart]; rfl) (by decide) ((hostDo_capture hreach.1 _).trans (doCapture_start hstart hroom))
  · exact finish_hostRow hpass hreach hstop (by decide) ((hostDo_capture hreach.1 _).trans (doCapture_stop hstop _))
  · exact finish_hostRow hpass hreach (by rw [hstart]; rfl) (by decide) ((hostDo_replay hreach.1 _).trans (doReplay_start hstart hroom))
  · exact finish_hostRow hpass hreach hstop (by decide) ((hostDo_replay hreach.1 _).trans (doReplay_stop hstop _))
  · exact (exec_captureStartApply hkeeper).trans (congrArg finish (capStart_starts hmode hidle hreply))
  · exact (exec_captureStartApply hkeeper).trans (congrArg finish (capStart_waits hwaits))
  · exact (exec_captureStopApply hkeeper).trans (congrArg finish (capStop_stops hmode hstop hsteps))
  · exact (exec_captureStopApply hkeeper).trans (congrArg finish (capStop_waits hwaits))
  · exact (exec_captureRingCopy hkeeper).trans (congrArg finish (if_neg (by simp [hmode, hbufs])))

end Sys2Proof.Machine
end

section
/-! Boundaries that no step begins, held boundaries, the running CRC, and a flip whose mismatch lasts (R383, R425, R431). -/

namespace Sys2Proof.Machine

variable {s : State}

theorem exec_idleStepBoundary (hkeeper : keeperUp s = true) (hnone : noSteps s = true) (sp : BitVec 2) :
    exec (.idleStepBoundary sp) s = .next (settle (bareBoundary sp s)) :=
  congrArg finish (if_pos (by rw [hkeeper, hnone]; rfl))

theorem bareBoundary_passes (h : cfgMismatch s = false) (sp : BitVec 2) : bareBoundary sp s = (stepBoundary sp s).2 := if_neg (by rw [h]; decide)

theorem bareBoundary_holds (h : cfgMismatch s = true) (sp : BitVec 2) : bareBoundary sp s = cfgHold { s with spareHeld := sp } := if_pos h

theorem retryHold_none (h : flag s Reg.REL_STAT 8 = false) : retryHold s = s := if_pos (by simp [h])

section
variable (hkeeper : keeperUp s = true) (hheld : flag s Reg.REL_STAT 8 = true)
include hkeeper hheld

theorem retryHold_holds (h : cfgMismatch s = true) : retryHold s = cfgHold s := by
  unfold retryHold; rw [if_neg (by rw [hkeeper, hheld]; decide), if_pos h]

theorem retryHold_bare (h : cfgMismatch s = false) (hnone : noSteps s = true) : retryHold s = (stepBoundary s.spareHeld s).2 := by
  unfold retryHold; rw [if_neg (by rw [hkeeper, hheld]; decide), if_neg (by rw [h]; decide), if_pos hnone, bareBoundary_passes h]

theorem retryHold_step {x : Step} (h : cfgMismatch s = false) (hsome : noSteps s = false) (hx : oldestAccepted s = some x) :
    retryHold s = if mayEnqueue s x then (if x.opcode = 0x80 then ownRead (enqueue s.spareHeld x) s else enqueue s.spareHeld x s) else cfgRelease s := by
  unfold retryHold
  rw [if_neg (by rw [hkeeper, hheld]; decide), if_neg (by rw [h]; decide), if_neg (by rw [hsome]; decide), hx]

end

/-- Settles O31: IDLE_STEP_BOUNDARY is `bareBoundary`, CFG_HOLD_RETRY and the end of CFG_CRC_DONE are `retryHold`, and each passes or holds by the comparison. -/
theorem boundariesApplyOrHold : Obligations.BoundariesApplyOrHold := by
  unfold Obligations.BoundariesApplyOrHold
  intro s sp
  refine ⟨fun hkeeper hnone hmatch => ?_, fun hkeeper hnone hmis => ?_, fun hpower hbusy => ?_, fun hkeeper hheld hmis => ?_,
    fun hkeeper hheld hnone hmatch => ?_, fun x hkeeper hheld hmatch hsome hx => ?_, fun hfree => ?_, fun hup hprep hmis => ?_⟩
  · rw [exec_idleStepBoundary hkeeper hnone, bareBoundary_passes hmatch]
  · rw [exec_idleStepBoundary hkeeper hnone, bareBoundary_holds hmis]
  · exact congrArg finish (if_pos (by rw [hpower, hbusy]; rfl))
  · exact congrArg finish (retryHold_holds hkeeper hheld hmis)
  · exact congrArg finish (retryHold_bare hkeeper hheld hmatch hnone)
  · exact congrArg finish (retryHold_step hkeeper hheld hmatch hsome hx)
  · exact congrArg finish (retryHold_none hfree)
  · exact congrArg finish (if_pos (by rw [hup, hprep, hmis]; rfl))

end Sys2Proof.Machine
end

section
/-! SUSPEND and RESUME, the power transitions they start, resets, bring-up and the AON boundary (R385, R398 to R402, R404 to R408, R411, R424). -/

namespace Sys2Proof.Machine

variable {s : State} {p : HostPkt}

/-! ### SUSPEND and RESUME (R404 to R408) -/

theorem hostDo_suspend (h : hOp p = 0x52) (s : State) : hostDo p s = doSuspend p s := by unfold hostDo; rw [h]; rfl
theorem hostDo_resume (h : hOp p = 0x53) (s : State) : hostDo p s = doResume p s := by unfold hostDo; rw [h]; rfl

theorem doSuspend_idle (hlevel : bit (hPar p 0 1) 0 = false) (s : State) :
    doSuspend p s = setFld Reg.REL_PWR_STAT 1 0 1 (answer (mkReply p 0 []) s) := if_neg (by rw [hlevel]; decide)

theorem doSuspend_dark (hlevel : bit (hPar p 0 1) 0 = true) (s : State) :
    doSuspend p s = (let v := answer (mkReply p 0 []) s
                     sendFence (ownDa v) { v with power := { v.power with susp := .fencing } }) := if_pos hlevel

theorem doResume_none (h : s.power.susp = .none) :
    doResume p s = { recordWake (resumeWake p) s with power := { s.power with susp := .leavingIdle (some (mkReply p 0 [])) } } := by
  unfold doResume; rw [h]

theorem doResume_leaving {r : Option Reply} (h : s.power.susp = .leavingIdle r) :
    doResume p s = { recordWake (resumeWake p) s with power := { s.power with heldWakes := s.power.heldWakes ++ [resumeWake p] } } := by
  unfold doResume; rw [h]

theorem doResume_toDark (h : s.power.susp = .fencing ∨ s.power.susp = .draining) : doResume p s = wakeUp (resumeWake p) s := by
  unfold doResume; rcases h with h | h <;> rw [h]

/-! ### The transitions (R404, R406, R408) -/

theorem exec_idleExitDone (h : forwarding s = true) : exec .idleExitDone s = .next (settle (idleExit s)) := congrArg finish (if_pos h)

theorem exec_darkEnter (h : forwarding s = true) : exec .darkEnter s = .next (settle (enterDark s)) := congrArg finish (if_pos h)

theorem idleExit_leaving {r : Option Reply} (h : s.power.susp = .leavingIdle r) : idleExit s =
    (r.toList ++ s.power.heldWakes.filterMap Wake.reply).foldl (fun s r => answer r s)
      (setFld Reg.REL_PWR_STAT 1 0 0 { s with power := { s.power with susp := .none, heldWakes := [] } }) := by
  unfold idleExit; split
  case h_1 hr => cases h.symm.trans hr; cases r <;> rfl
  case h_2 hne => exact absurd h (hne r)

theorem idleExit_none (h : s.power.susp = .none) : idleExit s = s := by
  unfold idleExit; split
  case h_1 hr => cases h.symm.trans hr
  case h_2 => rfl

theorem enterDark_drained (h : s.power.susp = .draining) (hempty : buffersEmpty s = true) : enterDark s = darkWakes s.power.heldWakes
    (setFld Reg.REL_PWR_STAT 1 0 2 { s with mboxPkt := none, taking := none, switchRun := none, power := { s.power with susp := .none, heldWakes := [] } }) := by
  unfold enterDark; split
  case h_1 => exact if_neg (by rw [hempty]; decide)
  case h_2 hne => exact absurd h hne

theorem enterDark_full (hfull : buffersEmpty s = false) : enterDark s = s := by
  unfold enterDark; split
  case h_1 => exact if_pos (by rw [hfull]; rfl)
  case h_2 => rfl

theorem enterDark_none (h : s.power.susp = .none) : enterDark s = s := by
  unfold enterDark; split
  case h_1 hr => cases h.symm.trans hr
  case h_2 => rfl

theorem exec_darkDrainTimer_fencing (hup : forwarding s = true) (h : s.power.susp = .fencing) :
    exec .darkDrainTimer s = .next (settle { s with power := { s.power with susp := .draining } }) := by
  refine congrArg finish ?_
  rw [h]; exact if_pos hup

theorem exec_darkDrainTimer_none (h : s.power.susp = .none) : exec .darkDrainTimer s = .next (settle s) := by
  refine congrArg finish ?_
  rw [h]

theorem finish_unchanged {c : Prop} [Decidable c] {u : State} (h : u = s) : finish (if c then u else s) = .next (settle s) := by rw [h, ite_self]; rfl

/-- Settles O24: an accepted packet does what its opcode says (`finish_hostRow`) by the transition under way, and each timer acts in its own transition. That
a RESUME held on the way to DARK is answered NOT_READY is the model's choice (log entry 86). -/
theorem powerTransitions : Obligations.PowerTransitions := by
  unfold Obligations.PowerTransitions
  intro p s
  refine ⟨fun hpass hreach hlevel => ?_, fun hpass hreach hlevel => ?_, fun hpass hreach hsusp => ?_, fun r hpass hreach hsusp => ?_,
    fun hpass hreach hsusp => ?_, fun r hup hsusp => ?_, fun hup hsusp => exec_darkDrainTimer_fencing hup hsusp, fun hup hsusp hempty => ?_,
    fun _ hfull => finish_unchanged (enterDark_full hfull),
    fun hsusp => ⟨finish_unchanged (idleExit_none hsusp), exec_darkDrainTimer_none hsusp, finish_unchanged (enterDark_none hsusp)⟩⟩
  · exact finish_hostRow hpass hreach (by rw [hlevel]; rfl) (by decide) ((hostDo_suspend hreach.1 _).trans (doSuspend_idle hlevel _))
  · exact finish_hostRow hpass hreach hlevel (by decide) ((hostDo_suspend hreach.1 _).trans (doSuspend_dark hlevel _))
  · exact finish_hostRow hpass hreach rfl (by decide) ((hostDo_resume hreach.1 _).trans (doResume_none hsusp))
  · exact finish_hostRow hpass hreach rfl (by decide) ((hostDo_resume hreach.1 _).trans (doResume_leaving hsusp))
  · exact finish_hostRow hpass hreach rfl (by decide) ((hostDo_resume hreach.1 _).trans (doResume_toDark hsusp))
  · cases r <;> exact (exec_idleExitDone hup).trans (congrArg finish (idleExit_leaving hsusp))
  · exact (exec_darkEnter hup).trans (congrArg finish (enterDark_drained hsusp hempty))

/-! ### Resets (R385, R398) -/

theorem exec_pwrGoodRise (h : s.powered = false) : exec .pwrGoodRise s = .next (settle (resetTo .cold s)) := congrArg finish (if_neg (by rw [h]; decide))

theorem exec_resetN {n : Nat} (h : s.powered = true) (hlong : 25 ≤ n) : exec (.resetN n) s = .next (settle (resetTo .warm s)) :=
  congrArg finish (if_pos (by simp [h, hlong]))

theorem exec_resetN_ignored {n : Nat} (h : s.powered = false ∨ n < 25) : exec (.resetN n) s = .next (settle s) :=
  congrArg finish (if_neg (by simpa [imp_iff_not_or] using h))

/-! ### Bring-up (R399 to R402) -/

theorem endPhaseA_ends (h : inPhase s 0 = true) :
    endPhaseA s = phaseTime 0 200 (setFld Reg.REL_PWR_STAT 4 3 1 (showIdentity (nvmStatus (loadShadows s)))) := if_neg (by rw [h]; decide)

theorem endPhaseA_other (h : inPhase s 0 = false) : endPhaseA s = s := if_pos (by rw [h]; rfl)

theorem endPhaseB_other (h : inPhase s 1 = false) (tiles lanes : Nat) : endPhaseB tiles lanes s = s := if_pos (by rw [h]; rfl)

theorem becomeReady_waits (h : inPhase s 2 = false ∨ s.power.fwVer = none) (ok : Bool) : becomeReady ok s = s := by
  unfold becomeReady
  cases hphase : inPhase s 2 with
  | false => rfl
  | true =>
    rcases h with h | h
    · rw [hphase] at h; cases h
    · rw [h]; rfl

theorem becomeReady_fails {v : Nat} (h : inPhase s 2 = true) (himage : s.power.fwVer = some v) : becomeReady false s = bringupFail s := by
  unfold becomeReady; rw [h, himage]; rfl

theorem exec_aonTick (h : s.powered = true) : exec .aonTick s = .next (settle (aonTick s)) := congrArg finish (if_pos h)

/-- Settles O53: each event acts where its condition holds, power or its phase, and leaves the state where it does not. That AON_TICK compares nothing before
readiness or after a clock loss is the model's choice (log entry 74). -/
theorem bringupProceeds : Obligations.BringupProceeds := by
  unfold Obligations.BringupProceeds
  intro s
  exact ⟨exec_pwrGoodRise, fun hpower => congrArg finish (if_pos hpower), rfl, fun _ => exec_resetN, fun _ => exec_resetN_ignored,
    fun hphase => congrArg finish (endPhaseA_ends hphase), fun hphase => congrArg finish (endPhaseA_other hphase),
    fun _ _ => ⟨rfl, fun hphase => congrArg finish (endPhaseB_other hphase _ _)⟩, fun ok hwaits => congrArg finish (becomeReady_waits hwaits ok),
    fun _ hphase himage => congrArg finish (becomeReady_fails hphase himage), fun _ _ => rfl, exec_aonTick,
    fun hpower => congrArg finish (if_neg (by rw [hpower]; decide))⟩

/-! ### Each event's own effect -/

/-- The five margins' registers. -/
def marginRegs : List Nat := [Reg.REL_SND_M 0, Reg.REL_SND_M 1, Reg.REL_SND_M 2, Reg.REL_SND_M 3, Reg.REL_SND_M 4]

/-- The registers a warm reset keeps, at their reset state with what it keeps of each: the margins' MIN, VOFS, staged too, WAKE_REASON and RESET_CAUSE (R398). -/
def warmRegs (s : State) : State :=
  (marginRegs ++ [Reg.REL_SND_VOFS, Reg.REL_WAKE_REASON, Reg.REL_RESET_CAUSE]).foldl (fun t o => setStg o (if o = Reg.REL_SND_VOFS then stg s o else 0)
    (setReg o (if o ∈ marginRegs then setBits (reg s o) 7 0 0xFF else reg s o) t)) State.reset

/-- What a reset that is no wake keeps of the state before it: the strap, the store, the memory beyond, the clock, and what neighbours show (R398). -/
def afterReset (vs : Bool) (s r : State) : State :=
  { r with
    da := s.da, nvm := s.nvm, out := s.out, free := s.free, clock := s.clock, pending := s.pending, mem := s.mem, poison := s.poison
    links := (s.links.filter (fun e => e.2.dark)).map (fun e => (e.1, { linkReset with dark := true }))
    power := { r.power with full := s.power.full, vofsSet := vs } }

theorem resetTo_cold (s : State) : resetTo .cold s = afterReset false s (raiseBit Reg.REL_RESET_CAUSE 0 State.reset) := rfl

theorem resetTo_warm (s : State) : resetTo .warm s = afterReset s.power.vofsSet s (raiseBit Reg.REL_RESET_CAUSE 1 (warmRegs s)) := rfl

/-- Phase B's registers and staging SRAM once its units are tested: all of them, or none after a wake without FULL_BIST (R399, R412). -/
def phaseBTested (all : Bool) (tiles lanes : Nat) (s : State) : State :=
  phaseTime 1 (if all then 4000 else 1200) (setFld Reg.REL_PWR_STAT 4 3 2 (substLanes (substTiles (clearStaging
    (if all then setFld Reg.SORT_LANE_FAIL 4 0 lanes (setFld Reg.SCORE_TILE_FAIL 8 0 tiles s) else s)))))

theorem endPhaseB_ends (h : inPhase s 1 = true) (tiles lanes : Nat) : endPhaseB tiles lanes s =
    (let y := loadImage (buildPools (applySettings (phaseBTested (!s.power.waking || s.power.full) tiles lanes s)))
     if flag y Reg.SCORE_TILE_MAP 14 || flag y Reg.SORT_LANE_MAP 9 then bringupFail y else y) := if_neg (by rw [h]; decide)

theorem becomeReady_readies {v : Nat} (h : inPhase s 2 = true) (himage : s.power.fwVer = some v) : becomeReady true s =
    (let x := phaseTime 2 (if flag s Reg.REL_PWR_STAT 7 then 1020000 + bootSum s 2 else if s.power.waking && !s.power.full then 12000 else 20000) s
     let y := crcDone (commitSelf (setFld Reg.REL_PWR_STAT 4 0 0x1C x))
     let z := writeGroups { y with power := { y.power with waking := false } }
     forwardHeld (startElection (((z.links.filter (fun e => e.2.discovered)).map Prod.fst).foldl (fun s l => sendReply l s) z))) := by
  unfold becomeReady; rw [h, himage]; rfl

/-! ### The AON boundary (R396, R424) -/

/-- A value waits for the AON boundary: a written VOFS, or staged fields of PWR_CFG that differ from the live ones. -/
def aonPend (s : State) : Bool := s.power.vofsSet || decide (Nat.land (stg s Reg.REL_PWR_CFG) 3 ≠ Nat.land (reg s Reg.REL_PWR_CFG) 3)

/-- The comparison succeeds, or none is made (log entry 74). -/
def aonPass (s : State) : Bool := !(forwarding s) || !(cfgMismatch s)

/-- The state with the step of VOFS that sounding asked for taken up. -/
def stepTaken (s : State) : State := { s with power := { s.power with vofsUp := false } }

/-- VOFS takes the step asked for, where one is, up to 15 (R396). -/
def vofsStepped (asked : Bool) (x : State) : State := if asked then setFld Reg.REL_SND_VOFS 3 0 (min (fld x Reg.REL_SND_VOFS 3 0 + 1) 15) x else x

/-- The staged PWR_CFG applied, and CFG_HOLD ended (R383, R424). -/
def pwrApplied (x : State) : State := applyReg Reg.REL_PWR_CFG (cfgRelease x)

/-- The AON boundary by what waits, whether it passes, and whether VOFS was written or a step of it asked for. -/
def aonBoundary (pend pass set asked : Bool) (x : State) : State :=
  if pend = false then vofsStepped asked x
  else if pass = false then vofsStepped asked (cfgHold x)
  else if set = false then vofsStepped asked (pwrApplied x)
  else applyReg Reg.REL_SND_VOFS { pwrApplied x with power := { (pwrApplied x).power with vofsSet := false } }

theorem aonTick_eq (s : State) : aonTick s = aonBoundary (aonPend s) (aonPass s) s.power.vofsSet s.power.vofsUp (stepTaken s) := by
  unfold aonTick
  change (let t := if (!aonPend s) = true then stepTaken s else if (!aonPass s) = true then cfgHold (stepTaken s)
            else if s.power.vofsSet = true then applyReg Reg.REL_SND_VOFS
              { pwrApplied (stepTaken s) with power := { (pwrApplied (stepTaken s)).power with vofsSet := false } } else pwrApplied (stepTaken s)
          if (s.power.vofsUp && !(aonPend s && aonPass s && s.power.vofsSet)) = true then vofsStepped true t else t) = _
  generalize aonPend s = pend, aonPass s = pass, s.power.vofsSet = set, s.power.vofsUp = asked
  cases pend <;> cases pass <;> cases set <;> cases asked <;> rfl

theorem aonPend_iff : aonPend s = true ↔ s.power.vofsSet = true ∨ Nat.land (stg s Reg.REL_PWR_CFG) 3 ≠ Nat.land (reg s Reg.REL_PWR_CFG) 3 := by
  simp [aonPend]

theorem aonPass_iff : aonPass s = true ↔ ¬forwarding s = true ∨ cfgMismatch s = false := by simp [aonPass]

/-- All units are tested but after a wake without FULL_BIST (R399). -/
theorem testsAll_iff : (!s.power.waking || s.power.full) = true ↔ s.power.waking = false ∨ s.power.full = true := by simp

/-- Settles O58: each event by what it does where its condition holds (`resetTo_cold`, `resetTo_warm`, `endPhaseA_ends`, `endPhaseB_ends`,
`becomeReady_readies`, `aonTick_eq`). The phases' durations are log entry 4, what PHASE_B_END does with shadows, pools and maps log entry 86, the AON
boundary log entries 37, 74 and 87: the model's choices. -/
theorem resetAndBringupComplete : Obligations.ResetAndBringupComplete := by
  unfold Obligations.ResetAndBringupComplete
  intro s mins kept warm fresh shadows identity shown timed failed zeroed all aon asked pends compares
  refine ⟨fun hpower => (exec_pwrGoodRise hpower).trans (congrArg finish (resetTo_cold s)), rfl,
    fun n hpower hlong => (exec_resetN hpower hlong).trans (congrArg finish (resetTo_warm s)),
    fun hphase => congrArg finish (endPhaseA_ends hphase), fun tiles lanes x y hphase hall hpart hy => ?_,
    fun v hphase himage => ⟨congrArg finish (becomeReady_fails hphase himage), congrArg finish (becomeReady_readies hphase himage)⟩,
    fun hpower hnone => ?_, fun hpower hpends hcmp hmis => ?_, fun hpower hpends hpass => ⟨fun hset => ?_, fun hset => ?_⟩⟩
  · have hx : x = phaseBTested (!s.power.waking || s.power.full) tiles.toNat lanes.toNat s := by
      by_cases h : all
      · rw [hall h, testsAll_iff.mpr h]; rfl
      · rw [hpart h, Bool.eq_false_iff.mpr (mt testsAll_iff.mp h)]; rfl
    have hend : exec (.phaseBEnd tiles lanes) s
        = .next (settle (if flag y Reg.SCORE_TILE_MAP 14 || flag y Reg.SORT_LANE_MAP 9 then bringupFail y else y)) := by
      rw [hy, hx]; exact congrArg finish (endPhaseB_ends hphase _ _)
    exact ⟨fun htile hlane => by rw [hend, htile, hlane]; rfl, fun hbad => by rw [hend, if_pos (by simpa using hbad)]; rfl⟩
  · rw [exec_aonTick hpower, aonTick_eq, Bool.eq_false_iff.mpr (mt aonPend_iff.mp hnone)]; rfl
  · have hfails : aonPass s = false := by unfold aonPass; rw [hmis, show forwarding s = true from hcmp]; rfl
    rw [exec_aonTick hpower, aonTick_eq, aonPend_iff.mpr hpends, hfails]; rfl
  · rw [exec_aonTick hpower, aonTick_eq, aonPend_iff.mpr hpends, aonPass_iff.mpr hpass, hset]; rfl
  · rw [exec_aonTick hpower, aonTick_eq, aonPend_iff.mpr hpends, aonPass_iff.mpr hpass, hset]; rfl

end Sys2Proof.Machine
end

section
/-! What keeps the bounds of O60: operations as a whole (`Keeps`), the shapes they are built from, and jobs (`JobKeeps`). Each operation of the model
then has one lemma, in the order of the definitions. -/

namespace Sys2Proof.Machine

variable {s t : State}

/-- An operation keeps the bounds. -/
@[reducible] def Keeps (k : State → State) : Prop := ∀ u : State, u.bounded = true → (k u).bounded = true

theorem keeps_id : Keeps id := fun _ h => h

theorem keeps_some {k : State → State} (hk : Keeps k) : ∀ k', some k = some k' → Keeps k' := by
  rintro k' ⟨⟩
  exact hk

theorem bounded_ite {c : Prop} [Decidable c] (h : s.bounded = true) (k : t.bounded = true) : (if c then s else t).bounded = true := by
  split
  · exact h
  · exact k

theorem bounded_fold {α : Type} {f : State → α → State} {l : List α} (hf : ∀ u a, u.bounded = true → (f u a).bounded = true) (h : s.bounded = true) :
    (l.foldl f s).bounded = true :=
  bounded_foldl f hf l s h

/-- Changing the run on an engine leaves it on its engine. -/
theorem bounded_onRun {e : Nat} {f : Run → Run} (hf : ∀ r, (f r).eng = r.eng) (h : s.bounded = true) : (modRun e f s).bounded = true :=
  bounded_modRun e f (fun r hr => (hf r).trans hr) h

theorem bounded_settled (h : s.bounded = true) : (settle s).bounded = true := bounded_settle.trans h

theorem bounded_ite_at {α : Type} (f : α → State) {c : Prop} [Decidable c] {a b : α} (ha : (f a).bounded = true) (hb : (f b).bounded = true) :
    (f (if c then a else b)).bounded = true := by
  split
  · exact ha
  · exact hb

theorem bounded_foldr {α : Type} (f : α → State → State) (hf : ∀ a, Keeps (f a)) (l : List α) (h : s.bounded = true) : (l.foldr f s).bounded = true := by
  induction l with
  | nil => exact h
  | cons a l ih => exact hf a _ ih

theorem bounded_withCap {c} (h : s.bounded = true) : ({ s with cap := c } : State).bounded = true := bounded_of_eq h rfl rfl rfl

/-- Changing a step adds none. -/
theorem bounded_modStep {q f} (h : s.bounded = true) : (modStep q f s).bounded = true :=
  bounded_of_le h le_rfl (List.Sublist.refl _) (List.length_map _).le

/-- A job whose every part keeps the bounds. -/
structure JobKeeps (j : Job) : Prop where
  start : Keeps j.start := by exact keeps_id
  rep : Keeps j.rep := by exact keeps_id
  after : Keeps j.after := by exact keeps_id
  early : ∀ k, j.early = some k → Keeps k := by rintro _ ⟨⟩

theorem modFirst_map {α β : Type} (p : α → Bool) (f : α → α) (g : α → β) (hf : ∀ a, g (f a) = g a) (l : List α) : (modFirst p f l).map g = l.map g := by
  induction l with
  | nil => rfl
  | cons a l ih =>
    unfold modFirst
    split
    · simp [hf]
    · simp [ih]

end Sys2Proof.Machine
end

section
/-! Bounds: registers, counters, memory, the log FIFO, faults and replies. -/

namespace Sys2Proof.Machine

variable {s t : State}

theorem bounded_setReg {off v} (h : s.bounded = true) : (setReg off v s).bounded = true := by
  unfold setReg; with_reducible exact bounded_of_eq h rfl rfl rfl

theorem bounded_setStg {off v} (h : s.bounded = true) : (setStg off v s).bounded = true := by
  unfold setStg; with_reducible exact bounded_of_eq h rfl rfl rfl

theorem bounded_setFld {off hi lo v} (h : s.bounded = true) : (setFld off hi lo v s).bounded = true := by
  unfold setFld; exact bounded_setReg h

theorem bounded_raiseBit {off b} (h : s.bounded = true) : (raiseBit off b s).bounded = true := by
  unfold raiseBit; exact bounded_setFld h

theorem bounded_dropBit {off b} (h : s.bounded = true) : (dropBit off b s).bounded = true := by
  unfold dropBit; exact bounded_setFld h

theorem bounded_raiseIf {c off b} (h : s.bounded = true) : (raiseIf c off b s).bounded = true := by
  unfold raiseIf; exact bounded_ite (bounded_raiseBit h) h

theorem bounded_bump {off n} (h : s.bounded = true) : (bump off n s).bounded = true := by
  unfold bump; exact bounded_setReg h

theorem bounded_bump64 {lo n} (h : s.bounded = true) : (bump64 lo n s).bounded = true := by
  unfold bump64; exact bounded_setReg (bounded_setReg h)

theorem bounded_tick (h : s.bounded = true) : (tick s).bounded = true := by
  unfold tick; with_reducible exact bounded_of_eq h rfl rfl rfl

theorem bounded_busy {lo bound} (h : s.bounded = true) : (busy lo bound s).bounded = true := by
  unfold busy; exact bounded_tick (bounded_bump64 h)

theorem bounded_busyFree {lo} (h : s.bounded = true) : (busyFree lo s).bounded = true := by
  unfold busyFree; exact bounded_tick (bounded_bump64 h)

theorem bounded_setCnt {n v} (h : s.bounded = true) : (setCnt n v s).bounded = true := by
  unfold setCnt; with_reducible exact bounded_of_eq h rfl rfl rfl

theorem bounded_signal {n} (h : s.bounded = true) : (signal n s).bounded = true := by
  unfold signal; exact bounded_setCnt h

theorem bounded_wr8 {a b} (h : s.bounded = true) : (wr8 a b s).bounded = true := by
  unfold wr8
  split
  · exact h
  · with_reducible exact bounded_of_eq h rfl rfl rfl

theorem bounded_wrN {a l} (h : s.bounded = true) : (wrN a l s).bounded = true := by
  induction l generalizing a s with
  | nil => exact h
  | cons b t ih => unfold wrN; exact ih (bounded_wr8 h)

theorem bounded_wrAll {l} (h : s.bounded = true) : (wrAll l s).bounded = true := by
  unfold wrAll; exact bounded_fold (fun _ _ hu => bounded_wr8 hu) h

theorem bounded_poison {p} (h : s.bounded = true) : (poison p s).bounded = true := by
  unfold poison; with_reducible exact bounded_of_eq h rfl rfl rfl

theorem bounded_healAll {l} (h : s.bounded = true) : (healAll l s).bounded = true := by
  unfold healAll; with_reducible exact bounded_of_eq h rfl rfl rfl

theorem bounded_logBuoys (h : s.bounded = true) : (logBuoys s).bounded = true := by
  unfold logBuoys; exact bounded_ite (bounded_raiseBit h) h

theorem bounded_logFell (h : s.bounded = true) : (logFell s).bounded = true := by
  unfold logFell; exact bounded_ite (bounded_dropBit h) h

theorem bounded_logLose {n} (h : s.bounded = true) : (logLose n s).bounded = true := by
  unfold logLose; with_reducible exact bounded_of_eq (bounded_raiseBit (bounded_bump (bounded_bump h))) rfl rfl rfl

theorem bounded_logRoom {n} : ∀ {k} {s : State}, s.bounded = true → (logRoom n k s).bounded = true
  | 0, _, h => h
  | k + 1, s, h => by
    unfold logRoom
    split
    · exact h
    · split
      · exact h
      · exact bounded_logRoom (bounded_logFell (bounded_logLose (bounded_of_eq h rfl rfl rfl)))

theorem bounded_logEnter {kind source payload} (h : s.bounded = true) : (logEnter kind source payload s).bounded = true := by
  unfold logEnter; with_reducible exact bounded_ite h (bounded_logBuoys (bounded_of_eq (bounded_logRoom h) rfl rfl rfl))

theorem bounded_logTrace {ring opcode step target wait credits} (h : s.bounded = true) :
    (logTrace ring opcode step target wait credits s).bounded = true := by
  unfold logTrace; exact bounded_ite h (bounded_ite (bounded_logLose h) (bounded_logEnter (bounded_tick (bounded_tick h))))

theorem bounded_logEpoch (h : s.bounded = true) : (logEpoch s).bounded = true := by
  unfold logEpoch; exact bounded_logEnter h

theorem bounded_faultRec {code unit da detail addr step} (h : s.bounded = true) : (faultRec code unit da detail addr step s).bounded = true := by
  unfold faultRec
  dsimp only
  refine bounded_ite (bounded_logEnter h) ?_
  split
  · with_reducible exact bounded_logEnter (bounded_of_eq h rfl rfl rfl)
  · with_reducible exact bounded_ite (bounded_of_eq h rfl rfl rfl) (bounded_logEnter (bounded_of_eq h rfl rfl rfl))

theorem bounded_ceDetect {a b} (h : s.bounded = true) : (ceDetect a b s).bounded = true := by
  unfold ceDetect; exact bounded_faultRec (bounded_setReg (bounded_setReg (bounded_raiseBit (bounded_bump h))))

theorem bounded_ueDetect {a detail step} (h : s.bounded = true) : (ueDetect a detail step s).bounded = true := by
  unfold ueDetect; extract_lets p w s1 s2 s3 f seen s4
  have h3 : s3.bounded = true := bounded_faultRec (bounded_setReg (bounded_setReg (bounded_raiseBit (bounded_bump (bounded_poison h)))))
  have h4 : s4.bounded = true := by with_reducible exact bounded_of_eq h3 rfl rfl rfl
  split
  · exact h4
  · with_reducible exact bounded_ite (bounded_faultRec (bounded_raiseBit (bounded_bump (bounded_of_eq h4 rfl rfl rfl)))) h4

theorem bounded_partialAbort (h : s.bounded = true) : (partialAbort s).bounded = true := by
  unfold partialAbort; exact bounded_raiseBit (bounded_bump h)

theorem bounded_queueReply {r} (h : s.bounded = true) : (queueReply r s).bounded = true := by
  unfold queueReply; with_reducible exact bounded_of_eq h rfl rfl rfl

theorem bounded_emit {o} (h : s.bounded = true) : (emit o s).bounded = true := by
  unfold emit; with_reducible exact bounded_of_eq h rfl rfl rfl

theorem bounded_tdc {i} (h : s.bounded = true) : (tdc i s).bounded = true := by
  unfold tdc; exact bounded_bump (bounded_bump64 h)

theorem bounded_capCred (h : s.bounded = true) : (capCred s).bounded = true := by
  unfold capCred; exact bounded_setFld h

theorem bounded_capPush {typ sub half step payload} (h : s.bounded = true) : (capPush typ sub half step payload s).bounded = true := by
  unfold capPush; with_reducible exact bounded_capCred (bounded_setReg (bounded_of_eq (bounded_tick h) rfl rfl rfl))

theorem bounded_capWrite {typ sub half step payload} (h : s.bounded = true) : (capWrite typ sub half step payload s).bounded = true := by
  unfold capWrite; exact bounded_ite h (bounded_ite (bounded_setFld (bounded_raiseBit (bounded_capPush h))) (bounded_capPush h))

theorem bounded_repTake {typ} (h : s.bounded = true) : (repTake typ s).bounded = true := by
  unfold repTake; with_reducible exact bounded_of_eq h rfl rfl rfl

theorem bounded_repStarve (h : s.bounded = true) : (repStarve s).bounded = true := by
  unfold repStarve; exact bounded_ite (bounded_raiseBit (bounded_raiseBit h)) h

theorem bounded_repDiverge {r value} (h : s.bounded = true) : (repDiverge r value s).bounded = true := by
  unfold repDiverge
  with_reducible
    exact bounded_ite h (bounded_of_eq (bounded_raiseBit (bounded_raiseBit (bounded_setReg (bounded_setReg (bounded_setReg
        (bounded_setReg h)))))) rfl rfl rfl)

theorem bounded_repArrive {e} (h : s.bounded = true) : (repArrive e s).bounded = true := by
  unfold repArrive
  split
  · with_reducible exact bounded_repStarve (bounded_of_eq h rfl rfl rfl)
  · refine bounded_ite (bounded_repStarve (bounded_of_eq h rfl rfl rfl)) ?_
    split
    · exact bounded_repDiverge h
    · exact h

theorem bounded_repCompare {e} (h : s.bounded = true) : (repCompare e s).bounded = true := by
  unfold repCompare
  dsimp only
  refine bounded_ite (bounded_repArrive h) ?_
  refine bounded_ite (bounded_of_eq h rfl rfl rfl) ?_
  split
  · with_reducible exact bounded_ite h (bounded_repStarve (bounded_of_eq h rfl rfl rfl))
  · exact bounded_repStarve (bounded_ite (bounded_repTake h) (bounded_repDiverge (bounded_repTake h)))

theorem bounded_repCompareWaiting (h : s.bounded = true) : (repCompareWaiting s).bounded = true := by
  unfold repCompareWaiting; with_reducible exact bounded_fold (fun _ _ hu => bounded_repCompare hu) (bounded_of_eq h rfl rfl rfl)

theorem bounded_capEvent {typ sub half step payload n value} (h : s.bounded = true) : (capEvent typ sub half step payload n value s).bounded = true := by
  unfold capEvent; exact bounded_ite (bounded_repCompare h) (bounded_capWrite h)

theorem bounded_flushArr {key step} (h : s.bounded = true) : (flushArr key step s).bounded = true := by
  unfold flushArr; with_reducible exact bounded_ite h (bounded_capWrite (bounded_of_eq h rfl rfl rfl))

theorem bounded_flushWork {step half} (h : s.bounded = true) : (flushWork step half s).bounded = true := by
  unfold flushWork; with_reducible exact bounded_ite h (bounded_capWrite (bounded_of_eq h rfl rfl rfl))

theorem bounded_flushCap (h : s.bounded = true) : (flushCap s).bounded = true := by
  unfold flushCap; exact bounded_ite h (bounded_fold (fun _ _ hu => bounded_flushWork hu) (bounded_fold (fun _ _ hu => bounded_flushArr hu) h))

theorem bounded_gatherArr {key step e} (h : s.bounded = true) : (gatherArr key step e s).bounded = true := by
  unfold gatherArr; with_reducible exact bounded_ite (bounded_flushArr (bounded_of_eq h rfl rfl rfl)) (bounded_capCred (bounded_of_eq h rfl rfl rfl))

theorem bounded_gatherWork {step half e} (h : s.bounded = true) : (gatherWork step half e s).bounded = true := by
  unfold gatherWork; with_reducible exact bounded_ite (bounded_flushWork (bounded_of_eq h rfl rfl rfl)) (bounded_capCred (bounded_of_eq h rfl rfl rfl))

theorem bounded_sameCycle {k} (hk : Keeps k) (h : s.bounded = true) : (sameCycle k s).bounded = true := by
  unfold sameCycle; with_reducible exact bounded_ite (hk _ h) (bounded_of_eq (hk _ h) rfl rfl rfl)

theorem bounded_capKilled {dead} (h : s.bounded = true) : (capKilled dead s).bounded = true := by
  unfold capKilled; with_reducible exact bounded_capCred (bounded_of_eq h rfl rfl rfl)

theorem bounded_bumpClamp {n} (h : s.bounded = true) : (bumpClamp n s).bounded = true := by
  unfold bumpClamp; exact bounded_setReg (bounded_setReg h)

theorem bounded_applyFx {x} (h : s.bounded = true) : (applyFx x s).bounded = true := by
  unfold applyFx; exact bounded_raiseIf (bounded_raiseIf (bounded_raiseIf (bounded_raiseIf (bounded_bump (bounded_bumpClamp h)))))

theorem bounded_putWr {w} (h : s.bounded = true) : (putWr w s).bounded = true := by
  unfold putWr; exact bounded_wr8 h

theorem bounded_putAll {l} (h : s.bounded = true) : (putAll l s).bounded = true := by
  unfold putAll; exact bounded_fold (fun _ _ hu => bounded_putWr hu) (bounded_healAll h)

theorem bounded_aperMiss {a n} (h : s.bounded = true) : (aperMiss a n s).bounded = true := by
  unfold aperMiss; exact bounded_ite (bounded_raiseBit (bounded_bump h)) h

end Sys2Proof.Machine
end

section
/-! Bounds: packets, beacon frames and barriers, and the die memory port. -/

namespace Sys2Proof.Machine

variable {s t : State}

theorem bounded_fabPull {rsp} : ∀ {n} {s : State}, s.bounded = true → (fabPull rsp n s).bounded = true
  | 0, _, h => h
  | n + 1, s, h => by
    unfold fabPull
    split
    · exact h
    · split
      · exact h
      · exact bounded_fabPull (bounded_of_eq h rfl rfl rfl)

theorem bounded_admitPkt {p} (h : s.bounded = true) : (admitPkt p s).bounded = true := by
  unfold admitPkt; with_reducible exact bounded_fabPull (bounded_of_eq h rfl rfl rfl)

theorem bounded_inject {p} (h : s.bounded = true) : (inject p s).bounded = true := by
  unfold inject
  refine bounded_ite h ?_
  split
  · exact bounded_raiseBit (bounded_bump h)
  · with_reducible exact bounded_ite (bounded_admitPkt h) (bounded_ite (bounded_of_eq h rfl rfl rfl) (bounded_of_eq h rfl rfl rfl))

theorem bounded_injectAll {l} (h : s.bounded = true) : (injectAll l s).bounded = true := by
  unfold injectAll; exact bounded_fold (fun _ _ hu => bounded_inject hu) h

theorem bounded_fabSend {q} (h : s.bounded = true) : (fabSend q s).bounded = true := by
  unfold fabSend
  dsimp only
  split
  · exact bounded_emit (bounded_bump64 h)
  · exact bounded_raiseBit (bounded_bump (bounded_bump64 h))

theorem bounded_fabDrain {rsp} (h : s.bounded = true) : (fabDrain rsp s).bounded = true := by
  unfold fabDrain
  split
  · exact h
  · with_reducible exact bounded_fabPull (bounded_fabSend (bounded_of_eq h rfl rfl rfl))

theorem bounded_lcAhead {rsp port} : ∀ {n} {s : State}, s.bounded = true → (lcAhead rsp port n s).bounded = true
  | 0, _, h => h
  | n + 1, s, h => by
    unfold lcAhead
    split
    · exact h
    · exact bounded_lcAhead (bounded_fabPull (bounded_fabSend (bounded_of_eq h rfl rfl rfl)))

theorem bounded_withdraw {keep wait} (h : s.bounded = true) : (withdraw keep wait s).bounded = true := by
  unfold withdraw; with_reducible exact bounded_raiseIf (bounded_bump (bounded_fabPull (bounded_fabPull (bounded_of_eq h rfl rfl rfl))))

theorem bounded_discard {ctr stat b} (h : s.bounded = true) : (discard ctr stat b s).bounded = true := by
  unfold discard; exact bounded_raiseBit (bounded_bump h)

theorem bounded_outputTurn {rsp port q contended} (h : s.bounded = true) : (outputTurn rsp port q contended s).bounded = true := by
  unfold outputTurn; exact bounded_ite (bounded_lcAhead (bounded_ite (bounded_tdc h) h)) (bounded_ite (bounded_tdc h) h)

theorem bounded_passOn {port q contended} (h : s.bounded = true) : (passOn port q contended s).bounded = true := by
  unfold passOn; exact bounded_emit (bounded_outputTurn h)

theorem bounded_passCopy {port q contended} (h : s.bounded = true) : (passCopy port q contended s).bounded = true := by
  unfold passCopy; exact bounded_ite (bounded_discard (bounded_ite (bounded_tdc h) h)) (bounded_passOn h)

theorem bounded_mcastCopies {p} (h : s.bounded = true) : (mcastCopies p s).bounded = true := by
  unfold mcastCopies; extract_lets o a row posOf me an up dn q copy
  have hcopy : ∀ yes port, Keeps (copy yes port) := fun _ _ _ hu => bounded_ite hu (bounded_ite (bounded_discard hu) (bounded_passCopy hu))
  exact hcopy _ _ _ (hcopy _ _ _ h)

/-- Every check of a packet at the head either discards it or lets its arrival `k` go on (R189). -/
theorem bounded_atHead {rsp p k} (hk : Keeps k) (h : s.bounded = true) : (atHead rsp p k s).bounded = true := by
  unfold atHead; extract_lets _ s1 s2
  have h1 : s1.bounded = true := bounded_discard h
  have h2 : s2.bounded = true := bounded_raiseIf h
  have hd : ∀ o b r, (discard o b r s).bounded = true := fun _ _ _ => bounded_discard h
  refine bounded_ite (bounded_bump h) (bounded_ite (hd _ _ _) (bounded_ite (hd _ _ _) (bounded_ite (hd _ _ _) (bounded_ite (hd _ _ _) (bounded_ite
      (hd _ _ _) ?_)))))
  exact bounded_ite (bounded_ite (bounded_raiseBit (bounded_bump h1)) h1) (bounded_ite (bounded_discard h2) (hk _ h2))

theorem bounded_copied {p} (h : s.bounded = true) : (copied p s).bounded = true := by
  unfold copied; exact bounded_ite (bounded_mcastCopies h) h

theorem bounded_won {rsp p} (h : s.bounded = true) : (won rsp p s).bounded = true := by
  unfold won; exact bounded_bump64 (bounded_outputTurn h)

theorem bounded_eject {rsp p k} (hk : Keeps k) (h : s.bounded = true) : (eject rsp p k s).bounded = true := by
  unfold eject; extract_lets s1 s2
  have h1 : s1.bounded = true := bounded_copied h
  have h2 : s2.bounded = true := bounded_won h1
  refine bounded_ite h (bounded_ite h1 (bounded_ite ?_ (bounded_ite ?_ (bounded_atHead hk h2))))
  · with_reducible exact bounded_of_eq h1 rfl rfl rfl
  · with_reducible exact bounded_of_eq h2 rfl rfl rfl

theorem bounded_sendAck {a} (h : s.bounded = true) : (sendAck a s).bounded = true := by
  unfold sendAck; exact bounded_inject h

theorem bounded_ackAccept {p} (h : s.bounded = true) : (ackAccept p s).bounded = true := by
  unfold ackAccept; with_reducible exact bounded_ite (bounded_sendAck (bounded_of_eq h rfl rfl rfl)) (bounded_of_eq h rfl rfl rfl)

theorem bounded_setLink {l x} (h : s.bounded = true) : (setLink l x s).bounded = true := by
  unfold setLink; with_reducible exact bounded_of_eq h rfl rfl rfl

theorem bounded_pumpClass {l cls} (h : s.bounded = true) : (pumpClass l cls s).bounded = true := by
  unfold pumpClass
  dsimp only
  refine bounded_ite h ?_
  split
  · exact h
  · exact bounded_ite (bounded_raiseBit h) (bounded_emit (bounded_setLink h))

theorem bounded_sendFrame {l cls head pay} (h : s.bounded = true) : (sendFrame l cls head pay s).bounded = true := by
  unfold sendFrame; exact bounded_ite h (bounded_pumpClass (bounded_setLink h))

theorem bounded_sendUp {cls head pay} (h : s.bounded = true) : (sendUp cls head pay s).bounded = true := by
  unfold sendUp
  split
  · exact h
  · exact bounded_sendFrame h

theorem bounded_sendDown {cls head pay} (h : s.bounded = true) : (sendDown cls head pay s).bounded = true := by
  unfold sendDown; exact bounded_fold (fun _ _ hu => bounded_sendFrame hu) h

theorem bounded_sendAll {but cls head pay} (h : s.bounded = true) : (sendAll but cls head pay s).bounded = true := by
  unfold sendAll; exact bounded_fold (fun _ _ hu => bounded_sendFrame hu) h

theorem bounded_sendEvery {but cls head pay} (h : s.bounded = true) : (sendEvery but cls head pay s).bounded = true := by
  unfold sendEvery; exact bounded_fold (fun _ _ hu => bounded_sendFrame hu) h

theorem bounded_staleFrame (h : s.bounded = true) : (staleFrame s).bounded = true := by
  unfold staleFrame; exact bounded_raiseBit (bounded_bump h)

theorem bounded_ackFrame {l cls} (h : s.bounded = true) : (ackFrame l cls s).bounded = true := by
  unfold ackFrame; exact bounded_emit (bounded_setFld h)

theorem bounded_recvFrame {l f early k} (hk : Keeps k) (h : s.bounded = true) : (recvFrame l f early k s).bounded = true := by
  unfold recvFrame; extract_lets c wakes x q s1 s2
  have h1 : s1.bounded = true := bounded_ackFrame h
  have h2 : s2.bounded = true := bounded_setLink h1
  have hbad : ∀ o n r b, (raiseBit r b (bump o n s)).bounded = true := fun _ _ _ _ => bounded_raiseBit (bounded_bump h)
  refine bounded_ite h (bounded_ite h (bounded_ite (hbad _ _ _ _) (bounded_ite (hbad _ _ _ _) ?_)))
  exact bounded_ite h1 (bounded_ite (bounded_staleFrame h2) (bounded_sameCycle hk h2))

theorem bounded_capBeacon {head pay} (h : s.bounded = true) : (capBeacon head pay s).bounded = true := by
  unfold capBeacon; exact bounded_ite (bounded_capWrite h) (bounded_ite (bounded_repCompare h) h)

theorem bounded_releaseInst {rel i op lanes cnt v} (hrel : ∀ x0 x1 x2, Keeps (rel x0 x1 x2)) (h : s.bounded = true) :
    (releaseInst rel i op lanes cnt v s).bounded = true := by
  unfold releaseInst
  with_reducible
    exact bounded_ite (bounded_sameCycle (fun _ hu => hrel _ _ _ _ (bounded_capBeacon hu)) (bounded_fold (fun _ _ hu => bounded_sendFrame hu)
        (bounded_of_eq h rfl rfl rfl))) (bounded_fold (fun _ _ hu => bounded_sendFrame hu) (bounded_of_eq h rfl rfl rfl))

theorem bounded_judgeInst {rel id} (hrel : ∀ x0 x1 x2, Keeps (rel x0 x1 x2)) (h : s.bounded = true) : (judgeInst rel id s).bounded = true := by
  unfold judgeInst
  split
  · exact h
  · with_reducible exact bounded_ite h (bounded_ite (bounded_releaseInst hrel h) (bounded_sendUp (bounded_of_eq h rfl rfl rfl)))

theorem bounded_joinInst {rel id c} (hrel : ∀ x0 x1 x2, Keeps (rel x0 x1 x2)) (h : s.bounded = true) : (joinInst rel id c s).bounded = true := by
  unfold joinInst; dsimp only
  split
  · exact bounded_judgeInst hrel (bounded_of_eq h rfl rfl rfl)
  · exact bounded_judgeInst hrel (bounded_of_eq h rfl rfl rfl)

theorem bounded_joinLocal {rel id op lanes v} (hrel : ∀ x0 x1 x2, Keeps (rel x0 x1 x2)) (h : s.bounded = true) :
    (joinLocal rel id op lanes v s).bounded = true := by
  unfold joinLocal; exact bounded_joinInst hrel h

theorem bounded_writeGroups (h : s.bounded = true) : (writeGroups s).bounded = true := by
  unfold writeGroups; with_reducible exact bounded_of_eq h rfl rfl rfl

theorem bounded_chargeMem {n} (h : s.bounded = true) : (chargeMem n s).bounded = true := by
  unfold chargeMem; with_reducible exact bounded_ite h (bounded_of_eq h rfl rfl rfl)

theorem bounded_issueRead {e be a n} (h : s.bounded = true) : (issueRead e be a n s).bounded = true := by
  unfold issueRead
  split
  · exact h
  · exact bounded_emit (bounded_onRun (fun _ => rfl) (bounded_of_eq h rfl rfl rfl))

theorem bounded_memRequest {e be a n} (h : s.bounded = true) : (memRequest e be a n s).bounded = true := by
  unfold memRequest; with_reducible exact bounded_ite (bounded_issueRead (bounded_chargeMem h)) (bounded_of_eq h rfl rfl rfl)

theorem bounded_memRequests {e be l} (h : s.bounded = true) : (memRequests e be l s).bounded = true := by
  unfold memRequests; exact bounded_fold (fun _ _ hu => bounded_memRequest hu) h

theorem bounded_dropReads {e} (h : s.bounded = true) : (dropReads e s).bounded = true := by
  unfold dropReads; with_reducible exact bounded_of_eq h rfl rfl rfl

theorem bounded_missWrites {ws} (h : s.bounded = true) : (missWrites ws s).bounded = true := by
  unfold missWrites
  split
  · exact bounded_aperMiss h
  · exact h

theorem bounded_keeperWrite {ws} (h : s.bounded = true) : (keeperWrite ws s).bounded = true := by
  unfold keeperWrite; exact bounded_chargeMem (bounded_missWrites (bounded_putAll h))

theorem bounded_keeperRead {l} (h : s.bounded = true) : (keeperRead l s).bounded = true := by
  unfold keeperRead; exact bounded_memRequests (bounded_fold (fun _ _ hu => bounded_aperMiss hu) h)

end Sys2Proof.Machine
end

section
/-! Bounds: buffers, credits, the end of a step, kills and the loss of the slice (R293, R299, R312 to R323, R396). -/

namespace Sys2Proof.Machine

variable {s t : State}

theorem bounded_setPool {p} (h : s.bounded = true) : (setPool p s).bounded = true := by
  unfold setPool; with_reducible exact bounded_of_eq h rfl rfl rfl

theorem bounded_noBuf (h : s.bounded = true) : (noBuf s).bounded = true := by
  unfold noBuf; exact bounded_raiseBit (bounded_bump h)

theorem bounded_putRing {id pos b} (h : s.bounded = true) : (putRing id pos b s).bounded = true := by
  unfold putRing; exact bounded_keeperWrite h

theorem bounded_readRing {id} (h : s.bounded = true) : (readRing id s).bounded = true := by
  unfold readRing
  exact bounded_fold (fun _ _ hu => bounded_faultRec (bounded_raiseBit (bounded_bump (bounded_ueDetect hu)))) (bounded_keeperRead (bounded_setPool h))

theorem bounded_fillCache {id n} : ∀ {k} {s : State}, s.bounded = true → (fillCache id n k s).bounded = true
  | 0, _, h => h
  | k + 1, s, h => by
    unfold fillCache; dsimp only
    split
    · exact bounded_fillCache (bounded_readRing h)
    · exact h

theorem bounded_allocBufs {cls n win} (h : s.bounded = true) : (allocBufs cls n win s).2.2.bounded = true := by
  unfold allocBufs; extract_lets id s1 p out s2 s3
  have h1 : s1.bounded = true := bounded_fillCache h
  have h2 : s2.bounded = true := bounded_setPool h1
  have h3 : s3.bounded = true := by
    simp only [s3]
    cases win with
    | none => exact h2
    | some w => exact bounded_of_eq h2 rfl rfl rfl
  exact bounded_ite_at (fun r : Nat × List Addr × State => r.2.2) h (bounded_ite_at (fun r : Nat × List Addr × State => r.2.2) (bounded_noBuf h)
      (bounded_ite_at (fun r : Nat × List Addr × State => r.2.2) (bounded_noBuf h1) h3))

theorem bounded_of_allocBufs {cls n win k l} (h : s.bounded = true) (e : allocBufs cls n win s = (k, l, t)) : t.bounded = true := by
  have hall := bounded_allocBufs (cls := cls) (n := n) (win := win) h
  rwa [e] at hall

theorem bounded_freeBufs {l} (h : s.bounded = true) : (freeBufs l s).bounded = true := by
  unfold freeBufs
  refine bounded_fold (fun u a hu => ?_) h
  split
  · exact bounded_raiseBit (bounded_bump hu)
  · exact bounded_ite (bounded_setPool hu) (bounded_fillCache (bounded_putRing (bounded_setPool hu)))

theorem bounded_untake (h : t.bounded = true) : (untake s t).bounded = true := bounded_of_eq h rfl rfl rfl

theorem bounded_unmap {w} (h : s.bounded = true) : (unmap w s).bounded = true := by
  unfold unmap; with_reducible exact bounded_of_eq h rfl rfl rfl

theorem bounded_allocRoom {bytes} (h : s.bounded = true) : (allocRoom bytes s).2.2.2.bounded = true := by
  unfold allocRoom; extract_lets top
  split
  · exact bounded_allocBufs h
  · split
    · exact bounded_noBuf h
    next w _ =>
      have hbufs := bounded_allocBufs (cls := top) (n := ceilDiv bytes (if uniform s then 0x10000 else classSize top)) (win := some w) h
      generalize allocBufs top _ (some w) s = r at hbufs ⊢
      obtain ⟨k, l, u⟩ := r
      have hu : u.bounded = true := hbufs
      exact hu

theorem bounded_of_allocRoom {bytes k a l} (h : s.bounded = true) (e : allocRoom bytes s = (k, a, l, t)) : t.bounded = true := by
  have hall := bounded_allocRoom (bytes := bytes) h
  rwa [e] at hall

theorem bounded_setCredits {n c} (h : s.bounded = true) : (setCredits n c s).bounded = true := by
  unfold setCredits; with_reducible exact bounded_of_eq h rfl rfl rfl

theorem bounded_account {x} (h : s.bounded = true) : (account x s).bounded = true := by
  unfold account; exact bounded_ite h (bounded_keeperWrite (bounded_keeperRead (bounded_tick h)))

theorem bounded_capCommit {x mask code} (h : s.bounded = true) : (capCommit x mask code s).bounded = true := by
  unfold capCommit; with_reducible exact bounded_of_eq (bounded_capEvent h) rfl rfl rfl

/-- A step that ends is unfinished no longer. -/
theorem bounded_endStep {x code} (h : s.bounded = true) : (endStep x code s).bounded = true := by
  unfold endStep
  exact bounded_of_le (bounded_account (bounded_queueReply (bounded_logEnter (bounded_tick h)))) le_rfl (List.Sublist.refl _) (List.length_filter_le _ _)

theorem bounded_giveBack {l} (h : s.bounded = true) : (giveBack l s).bounded = true := by
  unfold giveBack; with_reducible exact bounded_freeBufs (bounded_of_eq h rfl rfl rfl)

theorem bounded_closeInsts {g kg} (h : s.bounded = true) : (closeInsts g kg s).bounded = true := by
  unfold closeInsts; with_reducible exact bounded_of_eq h rfl rfl rfl

theorem bounded_relKillDone {a0 a1 a2} (h : s.bounded = true) : (relKillDone a0 a1 a2 s).bounded = true := by
  unfold relKillDone; with_reducible exact bounded_ite (bounded_tick (bounded_setReg (bounded_of_eq h rfl rfl rfl))) (bounded_of_eq h rfl rfl rfl)

theorem bounded_joinKillDone (h : s.bounded = true) : (joinKillDone s).bounded = true := by
  unfold joinKillDone; exact bounded_ite (bounded_joinLocal (fun _ _ _ _ hu => bounded_relKillDone hu) h) h

theorem bounded_zeroRange {x} (h : s.bounded = true) : (zeroRange x s).bounded = true := by
  unfold zeroRange; with_reducible exact bounded_of_eq h rfl rfl rfl

theorem bounded_renewReqs (h : s.bounded = true) : (renewReqs s).bounded = true := by
  unfold renewReqs; with_reducible exact bounded_fold (fun _ _ hu => bounded_ite hu (bounded_inject hu)) (bounded_of_eq h rfl rfl rfl)

theorem bounded_macsCut {n} (h : s.bounded = true) : (macsCut n s).bounded = true := by
  unfold macsCut; exact bounded_tick (bounded_bump64 h)

theorem bounded_busyCut {u} (h : s.bounded = true) : (busyCut u s).bounded = true := by
  unfold busyCut; extract_lets s1 s2
  have h1 : s1.bounded = true := by
    simp only [s1]
    split
    · exact bounded_busyFree h
    · exact h
  have h2 : s2.bounded = true := bounded_ite (bounded_macsCut h1) h1
  exact bounded_ite (bounded_busyFree h2) h2

/-- A kill leaves the commands of other steps on their engines and marks the steps it kills; none is added (R293, R299). -/
theorem bounded_applyKill {kg byHost code} (h : s.bounded = true) : (applyKill kg byHost code s).bounded = true := by
  unfold applyKill
  exact bounded_of_le (bounded_fold (fun _ _ hu => bounded_busyCut hu) (bounded_renewReqs (bounded_bump (bounded_fold (fun _ _ hu => bounded_zeroRange hu)
    (bounded_foldr _ (fun _ _ hu => bounded_fold (fun _ _ hv => bounded_setCredits hv) hu) _ (bounded_fold (fun _ _ hu => bounded_giveBack hu)
      (bounded_withdraw (bounded_setFld (bounded_capKilled (bounded_flushCap h)))))))))) le_rfl (List.filter_sublist.map _) (List.length_map _).le

theorem bounded_sendKill {kg} (h : s.bounded = true) : (sendKill kg s).bounded = true := by
  unfold sendKill; exact bounded_ite (bounded_sendDown (bounded_closeInsts h)) (bounded_sendUp h)

theorem bounded_sendAborts {q code} (h : s.bounded = true) : (sendAborts q code s).bounded = true := by
  unfold sendAborts; with_reducible exact bounded_fold (fun _ _ hu => bounded_inject (bounded_of_eq hu rfl rfl rfl)) h

theorem bounded_raiseKill {c st} (h : s.bounded = true) : (raiseKill c st s).bounded = true := by
  unfold raiseKill
  dsimp only
  refine bounded_ite h ?_
  refine bounded_ite (bounded_of_eq h rfl rfl rfl) ?_
  refine bounded_joinKillDone ?_
  refine bounded_fold (fun u a hu => ?_) (bounded_sendKill (bounded_applyKill h))
  split
  · exact hu
  · exact bounded_sendAborts hu

theorem bounded_memberKill {kg} (h : s.bounded = true) : (memberKill kg s).bounded = true := by
  unfold memberKill; with_reducible exact bounded_joinKillDone (bounded_applyKill (bounded_tick (bounded_of_eq h rfl rfl rfl)))

/-- A fenced slice runs no command (R396). -/
theorem bounded_enterFenced (h : s.bounded = true) : (enterFenced s).bounded = true := by
  have hmark : (raiseBit Reg.REL_STAT 9 s).bounded = true := bounded_raiseBit h
  exact bounded_of_le hmark le_rfl (List.nil_sublist _) le_rfl

theorem bounded_loseSlice {code unit detail addr} (h : s.bounded = true) : (loseSlice code unit detail addr s).bounded = true := by
  unfold loseSlice; with_reducible exact bounded_enterFenced (bounded_of_eq (bounded_sendAll (bounded_faultRec h)) rfl rfl rfl)

theorem bounded_ownLoss {code unit detail addr} (h : s.bounded = true) : (ownLoss code unit detail addr s).bounded = true := by
  unfold ownLoss; exact bounded_ite h (bounded_loseSlice h)

theorem bounded_poisonKill {a detail step} (h : s.bounded = true) : (poisonKill a detail step s).bounded = true := by
  unfold poisonKill; exact bounded_raiseKill (bounded_ueDetect h)

end Sys2Proof.Machine
end

section
/-! Bounds: a record starts on an idle engine, does its job and signals (R30 to R34). A job is a record of operations, so it keeps the bounds
where each of them does. -/

namespace Sys2Proof.Machine

variable {s t : State}

theorem bounded_releaseCredits {r} (h : s.bounded = true) : (releaseCredits r s).bounded = true := by
  unfold releaseCredits
  refine bounded_ite h ?_
  split
  · exact h
  · exact bounded_raiseIf (bounded_setCredits h)

theorem bounded_listDone {q} (h : s.bounded = true) : (listDone q s).bounded = true := by
  unfold listDone
  split
  · exact h
  · exact bounded_ite (bounded_capCommit (bounded_endStep (bounded_giveBack h))) h

/-- A command that signals leaves its engine. -/
theorem bounded_retire {u} (h : s.bounded = true) : (retire u s).bounded = true := by
  unfold retire
  exact bounded_logTrace (bounded_of_le (bounded_signal (bounded_releaseCredits h)) le_rfl (List.filter_sublist.map _) le_rfl)

theorem bounded_complete {u} (h : s.bounded = true) : (complete u s).bounded = true := by
  unfold complete; exact bounded_listDone (bounded_modStep (bounded_retire h))

theorem bounded_digests {r outs} (h : s.bounded = true) : (digests r outs s).bounded = true := by
  unfold digests; exact bounded_ite h (bounded_fold (fun _ _ hu => bounded_capEvent hu) h)

theorem bounded_abortWrite {a step} (h : s.bounded = true) : (abortWrite a step s).bounded = true := by
  unfold abortWrite; exact bounded_poisonKill (bounded_partialAbort h)

/-- A job that has read too early does what it does early, a tick later (R25). -/
theorem JobKeeps.doneAs {j : Job} {r} (hj : JobKeeps j) : JobKeeps (j.doneAs s r) := by
  unfold Job.doneAs
  split
  · refine { start := hj.start, early := hj.early, after := fun u hu => ?_ }
    cases he : j.early with
    | none => exact hj.after _ (bounded_tick hu)
    | some k => exact hj.early k he _ (bounded_tick hu)
  · exact hj

theorem bounded_seeMisses {j} (h : s.bounded = true) : (seeMisses j s).bounded = true := by
  unfold seeMisses; exact bounded_missWrites (bounded_fold (fun _ _ hu => bounded_aperMiss hu) h)

theorem bounded_jobWork {j} (hj : JobKeeps j) (h : s.bounded = true) : (jobWork j s).bounded = true := by
  unfold jobWork
  exact hj.after _ (hj.rep _ (bounded_seeMisses (bounded_applyFx (bounded_putAll h))))

theorem bounded_jobLast {u j} (hj : JobKeeps j) (h : s.bounded = true) : (jobLast u j s).bounded = true := by
  unfold jobLast
  exact bounded_ite (bounded_jobWork hj h) (bounded_complete (bounded_digests (bounded_ite (bounded_jobWork hj h) (bounded_busy (bounded_jobWork hj h)))))

theorem bounded_jobGo {pass u j} (hj : JobKeeps j) (h : s.bounded = true) : (jobGo pass u j s).bounded = true := by
  unfold jobGo
  split
  · exact bounded_poisonKill h
  · split
    · exact bounded_raiseKill (hj.after _ h)
    · dsimp only
      split
      · exact bounded_abortWrite h
      · split
        · exact bounded_jobLast hj.doneAs h
        · split
          · exact bounded_jobLast hj.doneAs (bounded_chargeMem h)
          · exact bounded_of_eq h rfl rfl rfl

theorem bounded_doJob {u j} (hj : JobKeeps j) (h : s.bounded = true) : (doJob u j s).bounded = true := by
  unfold doJob; exact bounded_jobGo hj h

theorem bounded_engWrite {ws step k} (hk : Keeps k) (h : s.bounded = true) : (engWrite ws step k s).bounded = true := by
  unfold engWrite
  split
  · exact bounded_abortWrite h
  · exact hk _ (bounded_chargeMem (bounded_missWrites (bounded_putAll h)))

theorem bounded_askWarm (h : s.bounded = true) : (askWarm s).bounded = true := by
  unfold askWarm; with_reducible exact bounded_ite h (bounded_fold (fun _ _ hu => bounded_emit hu) (bounded_of_eq h rfl rfl rfl))

theorem bounded_readThen {u j} (hj : JobKeeps j) (h : s.bounded = true) : (readThen u j s).bounded = true := by
  unfold readThen; exact bounded_ite (bounded_doJob hj h) (bounded_memRequests h)

theorem bounded_runJob {e be p mk} (hmk : ∀ x0 x1, JobKeeps (mk x0 x1)) (h : s.bounded = true) : (runJob e be p mk s).bounded = true := by
  unfold runJob
  split
  · exact h
  · exact bounded_ite h (bounded_ite (bounded_doJob (hmk _ _) ((hmk _ _).start _ (bounded_startRun ‹_› h))) (bounded_memRequests ((hmk _ _).start _
        (bounded_startRun ‹_› h))))

end Sys2Proof.Machine
end

section
/-! Bounds: SCORE, the light list, SORT and PLAN. -/

namespace Sys2Proof.Machine

variable {s t : State}

theorem bounded_noteFolded {l} (h : s.bounded = true) : (noteFolded l s).bounded = true := by
  unfold noteFolded; with_reducible exact bounded_of_eq h rfl rfl rfl

theorem bounded_accStatus {l} (h : s.bounded = true) : (accStatus l s).bounded = true := by
  unfold accStatus; exact bounded_raiseIf (bounded_raiseIf h)

theorem bounded_scoreStatus {l} (h : s.bounded = true) : (scoreStatus l s).bounded = true := by
  unfold scoreStatus; exact bounded_raiseIf (bounded_raiseIf (bounded_raiseIf (bounded_raiseIf (bounded_bump h))))

theorem bounded_scoreStart {s0 r} (h : s.bounded = true) : (scoreStart s0 r s).bounded = true := by
  unfold scoreStart; exact bounded_setFld h

theorem jobKeeps_scoreJob {r} : JobKeeps (scoreJob s r) := by
  unfold scoreJob; extract_lets da dw dd sh base base' macs own code o
  split
  · exact { start := fun _ hu => bounded_scoreStart hu }
  · split
    · exact { start := fun _ hu => bounded_scoreStart hu, rep := fun _ hu => bounded_accStatus hu,
              after := fun _ hu => bounded_noteFolded (bounded_bump64 hu) }
    · exact { start := fun _ hu => bounded_scoreStart hu, rep := fun _ hu => bounded_scoreStatus hu,
              after := fun _ hu => bounded_bump64 (bounded_ite (bounded_tick hu) hu) }

theorem bounded_tileFailed {t} (h : s.bounded = true) : (tileFailed t s).bounded = true := by
  unfold tileFailed; exact bounded_raiseIf (bounded_raiseBit (bounded_setReg h))

theorem bounded_withTile {be fail p run} (hrun : Keeps run) (h : s.bounded = true) : (withTile be fail p run s).bounded = true := by
  unfold withTile
  split
  · exact hrun _ h
  · refine bounded_ite (hrun _ h) ?_
    split
    · exact h
    · exact bounded_ite h (bounded_ite (bounded_raiseKill (bounded_tileFailed (bounded_scoreStart (bounded_startRun ‹_› h)))) (bounded_ite (hrun _
          (bounded_setFld (bounded_tileFailed h))) (hrun _ h)))

theorem bounded_startScore {be fail} (h : s.bounded = true) : (startScore be fail s).bounded = true := by
  unfold startScore; exact bounded_withTile (fun _ hu => bounded_runJob (fun _ _ => jobKeeps_scoreJob) hu) h

theorem bounded_putNext {data} (h : s.bounded = true) : (putNext data s).bounded = true := by
  unfold putNext; with_reducible exact bounded_of_eq h rfl rfl rfl

theorem bounded_llKeep {ep data pin} (h : s.bounded = true) : (llKeep ep data pin s).bounded = true := by
  unfold llKeep; with_reducible exact bounded_raiseIf (bounded_of_eq (bounded_of_eq h rfl rfl rfl) rfl rfl rfl)

theorem bounded_sendPins : ∀ {n} {s : State}, s.bounded = true → (sendPins n s).bounded = true
  | 0, _, h => h
  | n + 1, s, h => by
    unfold sendPins
    split
    · exact h
    · split
      · exact h
      · exact bounded_sendPins (bounded_inject (bounded_of_eq h rfl rfl rfl))

theorem bounded_pinIn {ep key} (h : s.bounded = true) : (pinIn ep key s).bounded = true := by
  unfold pinIn
  with_reducible
    exact bounded_ite (bounded_raiseBit h) (bounded_ite (bounded_of_eq h rfl rfl rfl) (bounded_ite h (bounded_ite (bounded_of_eq h rfl rfl rfl)
        (bounded_sendPins (bounded_of_eq h rfl rfl rfl)))))

theorem bounded_llAsk {ep be pin model layer xs} (h : s.bounded = true) : (llAsk ep be pin model layer xs s).bounded = true := by
  unfold llAsk
  with_reducible
    exact bounded_fold (fun _ _ hu => bounded_ite (bounded_raiseBit (bounded_bump hu)) (bounded_inject (bounded_of_eq (bounded_raiseBit
        (bounded_bump hu)) rfl rfl rfl))) h

theorem bounded_putReplica {l} (h : s.bounded = true) : (putReplica l s).bounded = true := by
  unfold putReplica; exact bounded_putNext h

theorem bounded_commitReplicas {x} (h : s.bounded = true) : (commitReplicas x s).bounded = true := by
  unfold commitReplicas
  exact bounded_ite h (bounded_fold (fun _ _ hu => bounded_putReplica hu) (bounded_fold (fun _ _ hu => bounded_putReplica hu) (bounded_fold
      (fun _ _ hu => bounded_raiseBit (bounded_bump (bounded_putReplica hu))) h)))

theorem bounded_rewritePcnt (h : s.bounded = true) : (rewritePcnt s).bounded = true := by
  unfold rewritePcnt
  split
  · exact h
  · split
    · exact h
    · exact bounded_keeperWrite h

theorem bounded_llGrant {p status payload} (h : s.bounded = true) : (llGrant p status payload s).bounded = true := by
  unfold llGrant; exact bounded_inject h

theorem bounded_onLlRead {p} (h : s.bounded = true) : (onLlRead p s).bounded = true := by
  unfold onLlRead; exact bounded_ite h (bounded_llGrant h)

theorem bounded_onLlOwn {p rivals} (h : s.bounded = true) : (onLlOwn p rivals s).bounded = true := by
  unfold onLlOwn
  refine bounded_ite h ?_
  dsimp only
  split
  · exact bounded_ite (bounded_llGrant h) (bounded_tdc (bounded_llGrant h))
  · with_reducible exact bounded_ite (bounded_llGrant h) (bounded_llGrant (bounded_of_eq h rfl rfl rfl))

theorem bounded_onLlWb {p} (h : s.bounded = true) : (onLlWb p s).bounded = true := by
  unfold onLlWb
  with_reducible
    exact bounded_ite (bounded_ackAccept h) (bounded_ite (bounded_of_eq (bounded_ackAccept h) rfl rfl rfl) (bounded_bump (bounded_putNext (bounded_of_eq
        (bounded_ackAccept h) rfl rfl rfl))))

theorem bounded_runLines {e be p need mk} (hmk : ∀ x0 x1, JobKeeps (mk x0 x1)) (h : s.bounded = true) : (runLines e be p need mk s).bounded = true := by
  unfold runLines
  split
  · exact h
  · with_reducible exact bounded_ite h (bounded_ite (bounded_runJob hmk h) (bounded_llAsk (bounded_onRun (fun _ => rfl) (bounded_startRun ‹_› h))))

theorem bounded_resumeLines {e need mk} (hmk : ∀ x0 x1, JobKeeps (mk x0 x1)) (h : s.bounded = true) : (resumeLines e need mk s).bounded = true := by
  unfold resumeLines
  split
  · exact h
  · with_reducible exact bounded_ite h (bounded_ite h (bounded_readThen (hmk _ _) (bounded_onRun (fun _ => rfl) h)))

theorem bounded_laneFailed {t} (h : s.bounded = true) : (laneFailed t s).bounded = true := by
  unfold laneFailed; exact bounded_raiseIf (bounded_raiseBit h)

theorem bounded_withLane {be fail p run} (hrun : Keeps run) (h : s.bounded = true) : (withLane be fail p run s).bounded = true := by
  unfold withLane
  split
  · exact hrun _ h
  · refine bounded_ite (hrun _ h) ?_
    split
    · exact h
    · exact bounded_ite h (bounded_ite (bounded_raiseKill (bounded_laneFailed (bounded_startRun ‹_› h))) (bounded_ite (hrun _ (bounded_setFld
          (bounded_laneFailed h))) (hrun _ h)))

theorem jobKeeps_sortWrites {r reads es gw n rep} (hrep : Keeps rep) : JobKeeps (sortWrites s r reads es gw n rep) := { rep := hrep }

theorem jobKeeps_sortJob {r} : JobKeeps (sortJob s r) := by
  unfold sortJob; dsimp only
  split
  · exact { after := fun _ hu => bounded_raiseBit hu }
  · exact jobKeeps_sortWrites fun _ hu => bounded_raiseIf (bounded_raiseIf (bounded_bump hu))

theorem jobKeeps_sortGwJob {r} : JobKeeps (sortGwJob s r) := by
  unfold sortGwJob; dsimp only
  split
  · exact { after := fun _ hu => bounded_raiseBit hu }
  · split
    · exact { after := fun _ hu => bounded_raiseBit hu }
    · exact jobKeeps_sortWrites keeps_id

theorem jobKeeps_planJob {r} : JobKeeps (planJob s r) := by
  unfold planJob; extract_lets c dr dq ps ins notes
  have hnotes : ∀ free, Keeps (notes free) := fun _ _ hu => bounded_modStep hu
  exact { rep := fun _ hu => by with_reducible exact bounded_raiseIf (bounded_raiseIf (bounded_bump (bounded_bump (bounded_bump hu)))),
          after := hnotes false, early := keeps_some (hnotes true) }

end Sys2Proof.Machine
end

section
/-! Bounds: what applies at a boundary, and SELECT with its bias loop. -/

namespace Sys2Proof.Machine

variable {s t : State}

theorem bounded_stageReg {off v} (h : s.bounded = true) : (stageReg off v s).bounded = true := by
  unfold stageReg; with_reducible exact bounded_of_eq (bounded_setStg h) rfl rfl rfl

theorem bounded_stageBits {off mask v} (h : s.bounded = true) : (stageBits off mask v s).bounded = true := by
  unfold stageBits; exact bounded_stageReg h

theorem bounded_crcDone (h : s.bounded = true) : (crcDone s).bounded = true := by
  unfold crcDone; with_reducible exact bounded_of_eq (bounded_setReg h) rfl rfl rfl

theorem bounded_commitSelf (h : s.bounded = true) : (commitSelf s).bounded = true := by
  unfold commitSelf; exact bounded_setReg h

theorem bounded_cfgHold (h : s.bounded = true) : (cfgHold s).bounded = true := by
  unfold cfgHold; exact bounded_faultRec (bounded_raiseBit (bounded_raiseBit h))

theorem bounded_cfgRelease (h : s.bounded = true) : (cfgRelease s).bounded = true := by
  unfold cfgRelease; exact bounded_dropBit h

theorem bounded_noteRefused {off bad} (h : s.bounded = true) : (noteRefused off bad s).bounded = true := by
  unfold noteRefused; with_reducible exact bounded_of_eq h rfl rfl rfl

theorem bounded_applyReg {off} (h : s.bounded = true) : (applyReg off s).bounded = true := by
  unfold applyReg
  split
  · exact h
  · exact bounded_noteRefused (bounded_setReg (bounded_fold (fun _ _ hu => bounded_ite hu (bounded_raiseBit hu)) h))

theorem bounded_noteGroup {offs} (h : s.bounded = true) : (noteGroup offs s).bounded = true := by
  unfold noteGroup; exact bounded_fold (fun _ _ hu => bounded_noteRefused hu) h

theorem bounded_applyGroup {offs bad stat b} (h : s.bounded = true) : (applyGroup offs bad stat b s).bounded = true := by
  unfold applyGroup; exact bounded_ite (bounded_noteGroup (bounded_raiseBit h)) (bounded_fold (fun _ _ hu => bounded_applyReg hu) h)

theorem bounded_writeRing {p} (h : s.bounded = true) : (writeRing p s).bounded = true := by
  unfold writeRing; exact bounded_fold (fun _ _ hu => bounded_putRing hu) h

theorem bounded_rebuildPools (h : s.bounded = true) : (rebuildPools s).bounded = true := by
  unfold rebuildPools; with_reducible exact bounded_fold (fun _ _ hu => bounded_writeRing hu) (bounded_of_eq h rfl rfl rfl)

theorem bounded_usePools {ben off applied} (h : s.bounded = true) : (usePools ben off applied s).bounded = true := by
  unfold usePools; exact bounded_ite (bounded_rebuildPools (bounded_setFld (bounded_setFld h))) (bounded_setFld (bounded_setFld h))

theorem bounded_applyPools (h : s.bounded = true) : (applyPools s).bounded = true := by
  unfold applyPools
  exact bounded_ite (bounded_noteGroup (bounded_dropBit h)) (bounded_ite (bounded_setFld h) (bounded_usePools (bounded_ite (bounded_applyGroup
      (bounded_dropBit h)) (bounded_dropBit h))))

theorem bounded_substTiles (h : s.bounded = true) : (substTiles s).bounded = true := by
  unfold substTiles
  dsimp only
  refine bounded_ite (bounded_setFld h) ?_
  refine bounded_ite (bounded_setReg (bounded_setFld h)) ?_
  split
  · exact bounded_setReg (bounded_setFld h)
  · exact bounded_faultRec (bounded_setReg (bounded_setFld h))

theorem bounded_substLanes (h : s.bounded = true) : (substLanes s).bounded = true := by
  unfold substLanes
  dsimp only
  refine bounded_ite (bounded_setFld h) ?_
  refine bounded_ite (bounded_setReg (bounded_setFld h)) ?_
  split
  · exact bounded_setReg (bounded_setFld h)
  · exact bounded_faultRec (bounded_setReg (bounded_setFld h))

theorem bounded_testSpares {spareFail} (h : s.bounded = true) : (testSpares spareFail s).bounded = true := by
  unfold testSpares; exact bounded_ite (bounded_laneFailed (bounded_ite (bounded_tileFailed h) h)) (bounded_ite (bounded_tileFailed h) h)

theorem bounded_newUnits (h : s.bounded = true) : (newUnits s).bounded = true := by
  unfold newUnits
  exact bounded_ite (bounded_loseSlice (bounded_substLanes (bounded_substTiles h))) (bounded_ite (bounded_loseSlice (bounded_substLanes
      (bounded_substTiles h))) (bounded_substLanes (bounded_substTiles h)))

theorem bounded_fillBuckets {old} (h : s.bounded = true) : (fillBuckets old s).bounded = true := by
  unfold fillBuckets; with_reducible exact bounded_of_eq h rfl rfl rfl

theorem bounded_restartLoops {old} (h : s.bounded = true) : (restartLoops old s).bounded = true := by
  unfold restartLoops; with_reducible exact bounded_ite h (bounded_of_eq h rfl rfl rfl)

theorem bounded_applyPart (h : s.bounded = true) : (applyPart s).bounded = true := by
  unfold applyPart
  split
  · exact h
  · with_reducible exact bounded_setFld (bounded_of_eq h rfl rfl rfl)

theorem bounded_stepBoundary {spareFail} (h : s.bounded = true) : (stepBoundary spareFail s).2.bounded = true := by
  unfold stepBoundary
  exact bounded_newUnits (bounded_testSpares (bounded_applyPools (bounded_restartLoops (bounded_fillBuckets (bounded_applyGroup (bounded_applyGroup
    (bounded_fold (fun _ _ hu => bounded_ite hu (bounded_applyReg hu)) (bounded_applyPart (bounded_cfgRelease h)))))))))

theorem bounded_selStatus {a} (h : s.bounded = true) : (selStatus a s).bounded = true := by
  unfold selStatus
  exact bounded_raiseIf (bounded_raiseIf (bounded_raiseIf (bounded_raiseIf (bounded_bump (bounded_bump (bounded_bump (bounded_bump (bounded_bump h))))))))

theorem bounded_setLoop {l} (h : s.bounded = true) : (setLoop l s).bounded = true := by
  unfold setLoop; with_reducible exact bounded_of_eq h rfl rfl rfl

theorem bounded_loopReduce {q sel} (h : s.bounded = true) : (loopReduce q sel s).bounded = true := by
  unfold loopReduce
  split
  · exact h
  · dsimp only
    refine bounded_ite h ?_
    split
    · with_reducible exact bounded_of_eq (bounded_modStep (bounded_raiseIf (bounded_wrN (bounded_of_allocRoom h ‹_›)))) rfl rfl rfl
    · exact bounded_of_allocRoom h ‹_›

theorem bounded_loopRetry (h : s.bounded = true) : (loopRetry s).bounded = true := by
  unfold loopRetry
  refine bounded_fold (fun u a hu => ?_) h
  split
  · exact hu
  · exact bounded_ite hu (bounded_loopReduce hu)

theorem jobKeeps_selectJob {r} : JobKeeps (selectJob s r) := { rep := fun _ hu => bounded_selStatus hu, after := fun _ hu => bounded_loopReduce hu }

theorem jobKeeps_gonlyJob {r} : JobKeeps (gonlyJob s r) := { rep := fun _ hu => bounded_raiseIf (bounded_bump hu) }

end Sys2Proof.Machine
end

section
/-! Bounds: the count phase, collective data and the fused commands. -/

namespace Sys2Proof.Machine

variable {s t : State}

theorem bounded_holdPkt {p} (h : s.bounded = true) : (holdPkt p s).bounded = true := by
  unfold holdPkt; with_reducible exact bounded_ite (bounded_of_eq h rfl rfl rfl) (bounded_ackAccept (bounded_of_eq h rfl rfl rfl))

theorem bounded_modHalf {q hd f} (h : s.bounded = true) : (modHalf q hd f s).bounded = true := by
  unfold modHalf
  split
  · with_reducible exact bounded_of_eq h rfl rfl rfl
  · split
    · with_reducible exact bounded_of_eq h rfl rfl rfl
    · exact h

theorem bounded_takeCount {q hd b} (h : s.bounded = true) : (takeCount q hd b s).bounded = true := by
  unfold takeCount
  split
  · exact h
  · dsimp only
    refine bounded_ite (bounded_raiseKill (bounded_raiseBit (bounded_bump h))) ?_
    refine bounded_ite (bounded_raiseKill (bounded_raiseBit (bounded_bump h))) ?_
    split
    · with_reducible exact bounded_of_eq h rfl rfl rfl
    · exact bounded_engWrite (fun _ hu => bounded_bump (bounded_modHalf hu)) h

theorem bounded_of_placeCount {p} (h : s.bounded = true) (e : placeCount p s = some t) : t.bounded = true := by
  unfold placeCount at e
  split at e
  · cases e
  · cases e; exact bounded_raiseKill (bounded_raiseBit (bounded_bump h))
  · cases e; exact bounded_fold (fun _ _ hu => bounded_takeCount hu) h

theorem bounded_onCount {p} (h : s.bounded = true) : (onCount p s).bounded = true := by
  unfold onCount
  refine bounded_ite h ?_
  split
  · exact bounded_holdPkt h
  · exact bounded_ite (bounded_of_placeCount h ‹_›) (bounded_ackAccept (bounded_of_placeCount h ‹_›))

theorem bounded_capCounts {q hd l} (h : s.bounded = true) : (capCounts q hd l s).bounded = true := by
  unfold capCounts; exact bounded_ite (bounded_repCompare h) (bounded_capWrite h)

theorem bounded_relCount {id a1 a2} (h : s.bounded = true) : (relCount id a1 a2 s).bounded = true := by
  unfold relCount
  split
  · exact h
  · exact bounded_complete (bounded_busyFree (bounded_capCounts (bounded_modHalf h)))

theorem bounded_countJoin (h : s.bounded = true) : (countJoin s).bounded = true := by
  unfold countJoin
  split
  · exact h
  · split
    · exact h
    · with_reducible exact bounded_joinLocal (fun _ _ _ _ hu => bounded_relCount hu) (bounded_onRun (fun _ => rfl) h)

theorem jobKeeps_dispatchJob {r} : JobKeeps (dispatchJob s r) := by
  unfold dispatchJob; extract_lets c dr pl out go
  have hgo : ∀ free, Keeps (go free) := by
    intro free u hu
    simp only [go]
    split
    · exact hu
    · exact bounded_countJoin (bounded_modHalf (bounded_onRun (fun _ => rfl) (bounded_injectAll (bounded_modStep hu))))
  exact { after := hgo false, early := keeps_some (hgo true) }

theorem bounded_startDispatch {be} (h : s.bounded = true) : (startDispatch be s).bounded = true := by
  unfold startDispatch; exact bounded_ite (bounded_runLines (fun _ _ => jobKeeps_dispatchJob) h) h

theorem bounded_collPut {r x} (h : s.bounded = true) : (collPut r x s).bounded = true := by
  unfold collPut; with_reducible exact bounded_ite (bounded_of_eq h rfl rfl rfl) (bounded_of_eq h rfl rfl rfl)

theorem bounded_collSend {e x c phase stage off elems ts} (h : s.bounded = true) : (collSend e x c phase stage off elems ts s).bounded = true := by
  unfold collSend; with_reducible exact bounded_fold (fun _ _ hu => bounded_onRun (fun _ => rfl) (bounded_injectAll hu)) h

theorem bounded_collDown {e x c ms k v} (h : s.bounded = true) : (collDown e x c ms k v s).bounded = true := by
  unfold collDown; exact bounded_fold (fun _ _ hu => bounded_ite (bounded_collSend hu) (bounded_collSend hu)) h

theorem bounded_chunkSigs {r bytes} (h : s.bounded = true) : (chunkSigs r bytes s).bounded = true := by
  unfold chunkSigs; exact bounded_ite (bounded_fold (fun _ _ hu => bounded_signal hu) h) h

theorem bounded_loopResult {r v} (h : s.bounded = true) : (loopResult r v s).bounded = true := by
  unfold loopResult
  split
  · exact h
  · split
    · exact h
    · refine bounded_ite h ?_
      dsimp only
      split
      · exact bounded_modStep (bounded_keeperWrite (bounded_keeperRead (bounded_of_allocRoom h ‹_›)))
      · exact bounded_of_allocRoom h ‹_›

theorem bounded_collFinish {e c v} (h : s.bounded = true) : (collFinish e c v s).bounded = true := by
  unfold collFinish
  split
  · exact h
  · refine bounded_engWrite (fun u hu => ?_) h
    extract_lets u1 u2 u3
    have h2 : u2.bounded = true := bounded_busyFree (bounded_loopResult (bounded_chunkSigs (bounded_ite (bounded_scoreStatus (bounded_tick hu)) hu)))
    have h3 : u3.bounded = true := bounded_ite (bounded_busyFree h2) h2
    exact bounded_complete (bounded_digests h3)

theorem bounded_collScatter {e x c ms k v} (h : s.bounded = true) : (collScatter e x c ms k v s).bounded = true := by
  unfold collScatter; exact bounded_fold (fun _ _ hu => bounded_ite hu (bounded_collSend hu)) h

theorem bounded_collGo {e c x ms} : ∀ {n} {s : State}, s.bounded = true → (collGo e c x ms n s).bounded = true
  | 0, _, h => h
  | n + 1, s, h => by
    unfold collGo
    split
    · exact h
    · dsimp only
      split
      · split
        · exact h
        · exact bounded_collGo (bounded_onRun (fun _ => rfl) (bounded_ite (bounded_raiseIf h) (bounded_collSend (bounded_raiseIf h))))
      · split
        · exact h
        · split
          · exact bounded_collFinish (bounded_collDown h)
          · split
            · exact bounded_collGo (bounded_collScatter (bounded_onRun (fun _ => rfl) (bounded_applyFx h)))
            · exact bounded_collGo (bounded_onRun (fun _ => rfl) h)
      · split
        · exact h
        · exact bounded_collFinish (bounded_ite (bounded_collSend h) (bounded_collDown h))

theorem bounded_collResume {e} (h : s.bounded = true) : (collResume e s).bounded = true := by
  unfold collResume
  split
  · exact h
  · split
    · exact bounded_ite h (bounded_collGo h)
    · exact h

theorem bounded_collBegin {e v} (h : s.bounded = true) : (collBegin e v s).bounded = true := by
  unfold collBegin
  split
  · exact h
  · split
    · dsimp only
      split
      · exact bounded_collFinish h
      · with_reducible exact bounded_collResume (bounded_collScatter (bounded_onRun (fun _ => rfl) (bounded_applyFx h)))
    · exact h

theorem bounded_scoreMismatch {r} (h : s.bounded = true) : (scoreMismatch r s).bounded = true := by
  unfold scoreMismatch
  dsimp only
  refine bounded_raiseKill ?_
  split
  · exact bounded_retire (bounded_busyCut (bounded_raiseBit h))
  · exact bounded_retire (bounded_raiseBit h)

theorem bounded_of_placeColl {p b} (h : s.bounded = true) (e : placeColl p s = some (b, t)) : t.bounded = true := by
  unfold placeColl at e
  split at e
  · cases e
  · split at e
    · split at e
      · cases e
      · cases e
        split
        · exact bounded_collResume (bounded_collPut h)
        · exact bounded_collPut h
    · split at e
      · cases e; exact bounded_scoreMismatch h
      · cases e; exact bounded_raiseKill (bounded_raiseBit (bounded_bump h))

theorem bounded_onColl {p} (h : s.bounded = true) : (onColl p s).bounded = true := by
  unfold onColl
  refine bounded_ite h ?_
  refine bounded_ite (bounded_raiseKill (bounded_raiseBit (bounded_bump h))) ?_
  split
  · exact bounded_holdPkt h
  · exact bounded_ackAccept (bounded_of_placeColl h ‹_›)
  · exact bounded_of_placeColl h ‹_›

theorem bounded_drainCounts (h : s.bounded = true) : (drainCounts s).bounded = true := by
  unfold drainCounts
  refine bounded_fold (fun u p hu => ?_) h
  dsimp only
  have hdrop : ({ u with hold := dropFirst (fun q => q == p) u.hold } : State).bounded = true := bounded_of_eq hu rfl rfl rfl
  split
  · exact hu
  · split
    · split
      · exact hu
      next e => exact bounded_of_placeCount hdrop e
    · split
      · exact hu
      next e => exact bounded_of_placeColl hdrop e

theorem jobKeeps_reduceJob {r} : JobKeeps (reduceJob s r) :=
  { after := fun _ hu => bounded_collBegin hu, early := keeps_some fun _ hu => bounded_collBegin hu }

theorem bounded_relReduce {id op v} (h : s.bounded = true) : (relReduce id op v s).bounded = true := by
  unfold relReduce
  split
  · exact h
  · exact bounded_ite (bounded_raiseKill (bounded_raiseBit h)) (bounded_engWrite (fun _ hu => bounded_complete (bounded_digests (bounded_busyFree hu))) h)

theorem jobKeeps_reduceBcnJob {r} : JobKeeps (reduceBcnJob s r) := by
  unfold reduceBcnJob; extract_lets d v pay go
  have hgo : ∀ pay, Keeps (go pay) := by
    intro pay u hu
    simp only [go]
    split
    · exact hu
    · exact bounded_joinLocal (fun _ _ _ _ hv => bounded_relReduce hv) (bounded_onRun (fun _ => rfl) hu)
  exact { after := hgo pay, early := keeps_some fun _ hu => hgo _ _ hu }

theorem jobKeeps_scoreCountJob {r} : JobKeeps (scoreCountJob s r) :=
  { start := fun _ hu => bounded_scoreStart hu
    rep := fun _ hu => bounded_accStatus hu
    after := fun _ hu => bounded_collBegin (bounded_bump64 hu)
    early := keeps_some fun _ hu => bounded_collBegin (bounded_bump64 hu) }

end Sys2Proof.Machine
end

section
/-! Bounds: the exchange engine, weight fetch, work records, COMBINE and MOVE. -/

namespace Sys2Proof.Machine

variable {s t : State}

theorem bounded_capArrival {sub half q e} (h : s.bounded = true) : (capArrival sub half q e s).bounded = true := by
  unfold capArrival; exact bounded_ite (bounded_gatherArr h) (bounded_ite (bounded_repCompare h) h)

theorem bounded_repServed {subs half q} (h : s.bounded = true) : (repServed subs half q s).bounded = true := by
  unfold repServed; with_reducible exact bounded_ite h (bounded_repStarve (bounded_of_eq h rfl rfl rfl))

theorem bounded_postNow {w} (h : s.bounded = true) : (postNow w s).bounded = true := by
  unfold postNow
  split
  · exact h
  · with_reducible
      exact bounded_engWrite (fun _ hu => bounded_ite (bounded_gatherWork (bounded_emit (bounded_of_eq (bounded_ite (bounded_tdc (bounded_modHalf hu))
          (bounded_modHalf hu)) rfl rfl rfl))) (bounded_emit (bounded_of_eq (bounded_ite (bounded_tdc (bounded_modHalf hu))
          (bounded_modHalf hu)) rfl rfl rfl))) h

theorem bounded_moveTile {c w} (h : s.bounded = true) : (moveTile c w s).bounded = true := by
  unfold moveTile
  with_reducible
    exact bounded_tdc (bounded_ite (bounded_gatherWork (bounded_emit (bounded_emit (bounded_of_eq h rfl rfl rfl)))) (bounded_emit (bounded_emit
        (bounded_of_eq h rfl rfl rfl))))

theorem bounded_repWorkDone (h : s.bounded = true) : (repWorkDone s).bounded = true := by
  unfold repWorkDone
  split
  · exact h
  · with_reducible exact bounded_ite (bounded_of_eq h rfl rfl rfl) (bounded_repStarve (bounded_repTake (bounded_of_eq h rfl rfl rfl)))

theorem bounded_postHeld : ∀ {n} {s : State}, s.bounded = true → (postHeld n s).bounded = true
  | 0, _, h => h
  | n + 1, s, h => by
    unfold postHeld
    split
    · exact h
    · split
      · exact bounded_postHeld (bounded_repWorkDone (bounded_postNow (bounded_of_eq h rfl rfl rfl)))
      · split
        · refine bounded_postHeld (bounded_repWorkDone ?_)
          split
          · exact h
          · exact bounded_moveTile h
        · exact h

theorem bounded_postWork {w} (h : s.bounded = true) : (postWork w s).bounded = true := by
  unfold postWork; with_reducible exact bounded_ite (bounded_postHeld (bounded_of_eq h rfl rfl rfl)) (bounded_postNow h)

theorem bounded_checkSend (h : s.bounded = true) : (checkSend s).bounded = true := by
  unfold checkSend
  split
  · exact h
  · exact bounded_ite h (bounded_ite h (bounded_complete (bounded_flushCap (bounded_busyFree (bounded_ite (bounded_modHalf h) h)))))

theorem bounded_checkRecv (h : s.bounded = true) : (checkRecv s).bounded = true := by
  unfold checkRecv
  split
  · exact h
  · split
    · exact h
    · exact bounded_ite (bounded_complete (bounded_repServed (bounded_flushCap (bounded_busyFree h)))) h

theorem bounded_postInbound {q half} (h : s.bounded = true) : (postInbound q half s).bounded = true := by
  unfold postInbound
  split
  · exact h
  · exact bounded_ite h (bounded_fold (fun _ _ hu => bounded_ite hu (bounded_fold (fun _ _ hv => bounded_postWork hv) (bounded_modHalf hu))) h)

theorem bounded_placeDispatch {q hd p} (h : s.bounded = true) : (placeDispatch q hd p s).bounded = true := by
  unfold placeDispatch
  split
  · exact bounded_raiseKill (bounded_raiseBit h)
  · exact bounded_engWrite (fun _ hu => bounded_checkRecv (bounded_postInbound (bounded_capArrival (bounded_modHalf hu)))) h

theorem bounded_drainHalf {q half} (h : s.bounded = true) : (drainHalf q half s).bounded = true := by
  unfold drainHalf
  dsimp only
  refine bounded_fold (fun u a hu => ?_) h
  split
  · exact hu
  · with_reducible exact bounded_placeDispatch (bounded_of_eq hu rfl rfl rfl)

theorem bounded_armHalf {r} (h : s.bounded = true) : (armHalf r s).bounded = true := by
  unfold armHalf; exact bounded_ite h (bounded_drainHalf (bounded_modHalf h))

theorem bounded_armAll {p} (h : s.bounded = true) : (armAll p s).bounded = true := by
  unfold armAll; exact bounded_fold (fun _ _ hu => bounded_armHalf hu) h

theorem bounded_onDispatch {gw p} (h : s.bounded = true) : (onDispatch gw p s).bounded = true := by
  unfold onDispatch
  refine bounded_ite h ?_
  refine bounded_ite (bounded_raiseBit (bounded_bump h)) ?_
  dsimp only
  split
  · exact bounded_ite (bounded_ite (bounded_placeDispatch (bounded_ackAccept (bounded_armAll h))) (bounded_placeDispatch (bounded_armAll h)))
        (bounded_holdPkt (bounded_armAll h))
  · exact bounded_holdPkt (bounded_armAll h)

theorem bounded_appendAt {q hd k tag chunk data} (h : s.bounded = true) : (appendAt q hd k tag chunk data s).bounded = true := by
  unfold appendAt
  exact bounded_ite (bounded_raiseKill (bounded_raiseBit h)) (bounded_engWrite (fun _ hu => bounded_signal (bounded_capArrival (bounded_modHalf hu))) h)

theorem bounded_appendArrival {q half tag chunk data} (h : s.bounded = true) : (appendArrival q half tag chunk data s).bounded = true := by
  unfold appendArrival
  split
  · exact h
  · refine bounded_ite (bounded_appendAt h) ?_
    split
    · exact bounded_appendAt h
    · with_reducible exact bounded_ite (bounded_appendAt h) (bounded_of_eq h rfl rfl rfl)

theorem bounded_postFreed (h : s.bounded = true) : (postFreed s).bounded = true := by
  unfold postFreed; with_reducible exact bounded_fold (fun _ _ hu => bounded_postNow hu) (bounded_of_eq h rfl rfl rfl)

theorem bounded_replayRows (h : s.bounded = true) : (replayRows s).bounded = true := by
  unfold replayRows; extract_lets _ s1
  have h1 : s1.bounded = true := by
    with_reducible exact bounded_fold (fun _ _ hu => bounded_ite (bounded_takeCount hu) (bounded_appendArrival hu)) (bounded_of_eq h rfl rfl rfl)
  exact bounded_ite (bounded_postHeld h1) (bounded_postFreed h1)

theorem bounded_onResult {p} (h : s.bounded = true) : (onResult p s).bounded = true := by
  unfold onResult
  refine bounded_ite (bounded_raiseBit (bounded_bump h)) ?_
  split
  · exact bounded_appendArrival h
  · exact bounded_raiseKill (bounded_raiseBit h)

theorem bounded_clusterRow {cluster tag row} (h : s.bounded = true) : (clusterRow cluster tag row s).bounded = true := by
  unfold clusterRow
  refine bounded_ite h ?_
  split
  · exact h
  · dsimp only
    refine bounded_ite (bounded_fold (fun _ _ hu => bounded_appendArrival hu) (bounded_of_eq h rfl rfl rfl)) ?_
    split
    · with_reducible exact bounded_of_eq h rfl rfl rfl
    · with_reducible exact bounded_checkRecv (bounded_modHalf (bounded_fold (fun _ _ hu => bounded_inject hu) (bounded_of_eq h rfl rfl rfl)))

theorem bounded_workTaken {cluster} (h : s.bounded = true) : (workTaken cluster s).bounded = true := by
  unfold workTaken; with_reducible exact bounded_ite h (bounded_checkSend (bounded_of_eq h rfl rfl rfl))

theorem bounded_steal (h : s.bounded = true) : (steal s).bounded = true := by
  unfold steal
  refine bounded_ite h ?_
  refine bounded_ite (bounded_postHeld h) ?_
  split
  · split
    · exact h
    · exact bounded_moveTile h
  · exact h

theorem bounded_sendOne {free q half o tagAt tile} (h : s.bounded = true) : (sendOne free q half o tagAt tile s).bounded = true := by
  unfold sendOne
  split
  · exact h
  · with_reducible
      exact bounded_ite (bounded_fold (fun _ _ hu => bounded_postWork hu) (bounded_ite (bounded_tick h) h)) (bounded_onRun (fun _ => rfl) (bounded_ite
          (bounded_tick h) h))

theorem jobKeeps_sendJob {r} : JobKeeps (sendJob s r) := by
  unfold sendJob; extract_lets half xb dout de dt outs su loc rows reads go
  have hgo : ∀ free, Keeps (go free) := by
    intro free u hu
    simp only [go]
    split
    · exact hu
    · exact bounded_checkSend (bounded_fold (fun _ _ hv => bounded_sendOne hv)
        (bounded_onRun (fun _ => rfl) (bounded_injectAll (bounded_modHalf hu))))
  split
  · exact { after := fun _ hu => bounded_raiseBit hu }
  · exact { after := hgo false, early := keeps_some (hgo true) }

theorem bounded_releaseWaiting (h : s.bounded = true) : (releaseWaiting s).bounded = true := by
  unfold releaseWaiting
  split
  · exact h
  · split
    · exact h
    · with_reducible
        exact bounded_checkSend (bounded_fold (fun _ _ hu => bounded_fold (fun _ _ hv => bounded_postWork hv) hu) (bounded_onRun (fun _ => rfl) h))

theorem bounded_withReserve {e be p need run} (hrun : Keeps run) (h : s.bounded = true) : (withReserve e be p need run s).bounded = true := by
  unfold withReserve
  split
  · exact h
  · with_reducible exact bounded_ite h (bounded_ite (hrun _ h) (bounded_ite h (hrun _ (bounded_capCred (bounded_of_eq h rfl rfl rfl)))))

theorem jobKeeps_recvJob {r} : JobKeeps (recvJob s r) := by
  unfold recvJob; dsimp only
  have harm : Keeps fun u => armHalf r (modRun 5 (fun v => { v with stage := 2 }) u) := fun _ hu => bounded_armHalf (bounded_onRun (fun _ => rfl) hu)
  split
  · exact { after := fun _ hu => bounded_raiseBit hu }
  · exact { after := fun _ hu => bounded_checkRecv (bounded_postInbound (harm _ hu))
            early := keeps_some fun _ hu => bounded_checkRecv (bounded_postInbound (bounded_modHalf (harm _ hu))) }

theorem jobKeeps_forwardJob {r} : JobKeeps (forwardJob s r) := by
  unfold forwardJob; extract_lets half xb de dr db n reads go
  have hgo : ∀ free, Keeps (go free) := by
    intro free u hu
    simp only [go]
    split
    · exact hu
    · exact bounded_checkSend (bounded_onRun (fun _ => rfl) (bounded_injectAll hu))
  split
  · exact { after := fun _ hu => bounded_raiseBit hu }
  · exact { after := hgo false, early := keeps_some (hgo true) }

theorem bounded_checkFetch (h : s.bounded = true) : (checkFetch s).bounded = true := by
  unfold checkFetch
  split
  · exact h
  · split
    · exact h
    · exact bounded_ite (bounded_complete (bounded_repServed (bounded_flushCap (bounded_busyFree h)))) h

theorem jobKeeps_fetchReqJob {r} : JobKeeps (fetchReqJob s r) := by
  unfold fetchReqJob; extract_lets half xb reads go
  have hgo : ∀ free, Keeps (go free) := by
    intro free u hu
    simp only [go]
    split
    · exact hu
    · exact bounded_checkFetch (bounded_releaseWaiting (bounded_onRun (fun _ => rfl)
        (bounded_fold (fun _ _ hv => bounded_inject (bounded_modStep (bounded_ite (bounded_tick hv) hv))) hu)))
  split
  · exact { after := fun _ hu => bounded_raiseBit hu }
  · exact { after := hgo false, early := keeps_some (hgo true) }

theorem bounded_resumeFetch (h : s.bounded = true) : (resumeFetch s).bounded = true := by
  unfold resumeFetch
  split
  · exact h
  · with_reducible
      exact bounded_ite h (bounded_ite (bounded_resumeLines (fun _ _ => jobKeeps_fetchReqJob) h) (bounded_ite h (bounded_resumeLines
          (fun _ _ => jobKeeps_fetchReqJob) (bounded_capCred (bounded_of_eq h rfl rfl rfl)))))

theorem bounded_onFetchCpl {p} (h : s.bounded = true) : (onFetchCpl p s).bounded = true := by
  unfold onFetchCpl
  dsimp only
  split
  · exact bounded_raiseKill (bounded_raiseBit h)
  · split
    · exact h
    · exact bounded_ite (bounded_raiseKill (bounded_raiseBit h)) (bounded_engWrite (fun _ hu => bounded_checkFetch (bounded_releaseWaiting
          (bounded_capArrival (bounded_modStep (bounded_bump64 hu))))) h)

theorem bounded_serveNext : ∀ {n} {s : State}, s.bounded = true → (serveNext n s).bounded = true
  | 0, _, h => h
  | n + 1, s, h => by
    unfold serveNext
    split
    · exact h
    · split
      · exact h
      · extract_lets half
        split
        · exact bounded_complete (bounded_flushCap (bounded_busyFree h))
        · extract_lets rds l _ _ _
          refine bounded_ite h ?_
          clear_value l
          split
          · exact h
          · extract_lets tot rd ps ps' s1 s2
            split
            · exact bounded_poisonKill h
            · have h1 : s1.bounded = true := bounded_bump64 (bounded_injectAll h)
              have h2 : s2.bounded = true := by with_reducible exact bounded_of_eq h1 rfl rfl rfl
              exact bounded_ite (bounded_memRequest (bounded_onRun (fun _ => rfl) h)) (bounded_serveNext (bounded_onRun (fun _ => rfl) h2))

theorem bounded_serveAll (h : s.bounded = true) : (serveAll s).bounded = true := by
  unfold serveAll; exact bounded_serveNext h

theorem bounded_served (h : s.bounded = true) : (served s).bounded = true := by
  unfold served; with_reducible exact bounded_serveAll (bounded_onRun (fun _ => rfl) h)

theorem jobKeeps_fetchSrvJob {r} : JobKeeps (fetchSrvJob s r) := by
  unfold fetchSrvJob; dsimp only
  split
  · exact { after := fun _ hu => bounded_raiseBit hu }
  · exact { after := fun _ hu => bounded_serveAll (bounded_onRun (fun _ => rfl) hu)
            early := keeps_some fun _ hu => bounded_serveAll (bounded_onRun (fun _ => rfl) hu) }

/-- An acknowledgement is noted in the run that waits for it; no engine gains or loses a command. -/
theorem ackRuns_engines (p : Packet) (n : Nat) (l : List Run) : (ackRuns p n l).map Run.eng = l.map Run.eng := by
  induction n generalizing l with
  | zero => rfl
  | succ n ih => exact (ih _).trans (modFirst_map _ (fun u => { u with acks := dropFirst (fun d => d == pSrc p) u.acks }) Run.eng (fun _ => rfl) l)

theorem bounded_onAck {p} (h : s.bounded = true) : (onAck p s).bounded = true := by
  unfold onAck; dsimp only
  split
  · split
    · split
      · exact bounded_joinKillDone (bounded_of_eq h rfl rfl rfl)
      · exact bounded_of_eq h rfl rfl rfl
    · exact bounded_of_eq h rfl rfl rfl
  · split
    · exact bounded_of_eq h rfl rfl rfl
    · exact bounded_checkSend (bounded_countJoin (bounded_of_le h le_rfl (by rw [ackRuns_engines]) le_rfl))

theorem bounded_ackBatch {i} (h : s.bounded = true) : (ackBatch i s).bounded = true := by
  unfold ackBatch
  refine bounded_ite h ?_
  split
  · exact h
  · with_reducible exact bounded_sendAck (bounded_of_eq h rfl rfl rfl)

theorem bounded_timeoutKill {q stat b} (h : s.bounded = true) : (timeoutKill q stat b s).bounded = true := by
  unfold timeoutKill; exact bounded_ite h (bounded_raiseKill (bounded_tdc (bounded_raiseBit h)))

theorem bounded_ackLate {eng} (h : s.bounded = true) : (ackLate eng s).bounded = true := by
  unfold ackLate
  split
  · exact h
  · exact bounded_ite h (bounded_timeoutKill h)

theorem bounded_resultLate {half} (h : s.bounded = true) : (resultLate half s).bounded = true := by
  unfold resultLate
  split
  · exact h
  · exact bounded_timeoutKill h

theorem bounded_rdLate (h : s.bounded = true) : (rdLate s).bounded = true := by
  unfold rdLate
  split
  · exact h
  · exact bounded_timeoutKill h

theorem bounded_streamShort (h : s.bounded = true) : (streamShort s).bounded = true := by
  unfold streamShort
  split
  · exact h
  · exact bounded_timeoutKill h

theorem bounded_relCommit {id a1 a2} (h : s.bounded = true) : (relCommit id a1 a2 s).bounded = true := by
  unfold relCommit
  split
  · exact h
  · exact bounded_complete (bounded_digests (bounded_busyFree (bounded_modStep h)))

theorem bounded_ackJoin (h : s.bounded = true) : (ackJoin s).bounded = true := by
  unfold ackJoin
  split
  · exact h
  · split
    · exact h
    · with_reducible exact bounded_ite h (bounded_joinLocal (fun _ _ _ _ hu => bounded_relCommit hu) (bounded_onRun (fun _ => rfl) (bounded_modStep h)))

theorem bounded_combRep {bm p occ nan} (h : s.bounded = true) : (combRep bm p occ nan s).bounded = true := by
  unfold combRep; exact bounded_raiseIf (bounded_bump (bounded_raiseIf (bounded_raiseIf (bounded_bump (bounded_bump (bounded_bump h))))))

theorem bounded_combAfter {c q} (h : s.bounded = true) : (combAfter c q s).bounded = true := by
  unfold combAfter
  with_reducible
    exact bounded_ite (bounded_ackJoin (bounded_onRun (fun _ => rfl) (bounded_repServed (bounded_flushCap h)))) (bounded_repServed (bounded_flushCap h))

theorem jobKeeps_combJob {r} : JobKeeps (combJob s r) := by
  unfold combJob; dsimp only
  split
  · exact { after := fun _ hu => bounded_raiseBit (bounded_bump (bounded_raiseIf (bounded_raiseIf (bounded_bump hu)))) }
  · split
    · exact { rep := fun _ hu => bounded_combRep hu, after := fun _ hu => bounded_combAfter (bounded_tick (bounded_tick hu)) }
    · exact { rep := fun _ hu => bounded_combRep hu, after := fun _ hu => bounded_combAfter hu }

theorem bounded_runWork {e j} (hj : JobKeeps j) (h : s.bounded = true) : (runWork e j s).bounded = true := by
  unfold runWork
  split
  · exact h
  · exact bounded_readThen hj h

theorem bounded_combWake (h : s.bounded = true) : (combWake s).bounded = true := by
  unfold combWake
  split
  · exact h
  · with_reducible exact bounded_ite (bounded_runWork jobKeeps_combJob (bounded_busyFree (bounded_onRun (fun _ => rfl) h))) h

theorem bounded_combPoll (h : s.bounded = true) : (combPoll s).bounded = true := by
  unfold combPoll; exact bounded_ite (bounded_ackJoin (bounded_combWake h)) h

theorem bounded_startComb {be op} (h : s.bounded = true) : (startComb be op s).bounded = true := by
  unfold startComb
  split
  · exact bounded_ite (bounded_combPoll h) h
  next r hr =>
    refine bounded_ite h ?_
    split
    · exact h
    · extract_lets c s1
      have h1 : s1.bounded = true := bounded_setFld (bounded_startRun hr h)
      exact bounded_ite h (bounded_ite (bounded_raiseKill (bounded_raiseBit h1)) (bounded_ite (bounded_raiseKill (bounded_raiseBit h1))
        (bounded_ite (bounded_onRun (fun _ => rfl) h1) (bounded_runWork jobKeeps_combJob h1))))

theorem bounded_onShDone {c} (h : s.bounded = true) : (onShDone c s).bounded = true := by
  unfold onShDone
  refine bounded_ite h ?_
  split
  · exact bounded_combPoll (bounded_signal (bounded_modStep h))
  · exact bounded_ite (bounded_combPoll (bounded_signal h)) h

theorem bounded_sharedLate (h : s.bounded = true) : (sharedLate s).bounded = true := by
  unfold sharedLate
  split
  · exact h
  · exact bounded_ite h (bounded_timeoutKill h)

theorem jobKeeps_moveJob {r} : JobKeeps (moveJob s r) := by
  unfold moveJob; dsimp only
  split
  · exact {}
  · exact {}

end Sys2Proof.Machine
end

section
/-! Bounds: the epoch flip, resets and wake sources. -/

namespace Sys2Proof.Machine

variable {s t : State}

theorem bounded_mergeNext {ep} (h : s.bounded = true) : (mergeNext ep s).bounded = true := by
  unfold mergeNext; with_reducible exact bounded_of_eq h rfl rfl rfl

theorem bounded_buildDir {ep} (h : s.bounded = true) : (buildDir ep s).bounded = true := by
  unfold buildDir; with_reducible exact bounded_mergeNext (bounded_of_eq h rfl rfl rfl)

theorem bounded_refetchPinned {ep} (h : s.bounded = true) : (refetchPinned ep s).bounded = true := by
  unfold refetchPinned; with_reducible exact bounded_fold (fun _ _ hu => bounded_pinIn hu) (bounded_of_eq h rfl rfl rfl)

theorem bounded_loadHomes {ep} (h : s.bounded = true) : (loadHomes ep s).bounded = true := by
  unfold loadHomes; with_reducible exact bounded_of_eq h rfl rfl rfl

theorem bounded_fixHomes {ep l} (h : s.bounded = true) : (fixHomes ep l s).bounded = true := by
  unfold fixHomes; with_reducible exact bounded_of_eq h rfl rfl rfl

theorem bounded_promote {ep} (h : s.bounded = true) : (promote ep s).bounded = true := by
  unfold promote; extract_lets f held newer img pick res mine noStand lost da fix fresh' s1 s2 s3
  have h1 : s1.bounded = true := by with_reducible exact bounded_fixHomes (bounded_of_eq h rfl rfl rfl)
  have h2 : s2.bounded = true := bounded_ite h1 (bounded_faultRec h1)
  have h3 : s3.bounded = true := bounded_ite h2 (bounded_raiseBit (bounded_faultRec h2))
  exact bounded_ite h (bounded_ite h3 (bounded_raiseBit (bounded_faultRec h3)))

theorem bounded_startPrep {ep} (h : s.bounded = true) : (startPrep ep s).bounded = true := by
  unfold startPrep
  extract_lets ok s1 t a s2 lift v s0 s4 v0 keepGw gwOffs t' refuse s5 v' s6 _ s7 _ s8
  have h1 : s1.bounded = true := bounded_ite (bounded_cfgRelease h) (bounded_cfgHold h)
  have h2 : s2.bounded = true := bounded_ite (bounded_fold (fun _ _ hu => bounded_ite hu (bounded_noteRefused hu)) h1) h1
  have h4 : s4.bounded = true := bounded_loadHomes (bounded_buildDir (bounded_raiseBit h2))
  have hrefuse : Keeps refuse := fun _ hu => bounded_fold (fun _ _ hv => bounded_noteRefused hv) hu
  have h5 : s5.bounded = true := bounded_ite (hrefuse _ h4) h4
  have h6 : s6.bounded = true := by with_reducible exact bounded_memRequests (bounded_ite (bounded_of_eq h5 rfl rfl rfl) (bounded_of_eq h5 rfl rfl rfl))
  have h7 : s7.bounded = true := by with_reducible exact bounded_refetchPinned (bounded_of_eq h6 rfl rfl rfl)
  have h8 : s8.bounded = true := by with_reducible exact bounded_ite (bounded_promote (bounded_of_eq h7 rfl rfl rfl)) h7
  exact bounded_ite h (bounded_ite (bounded_staleFrame h) (bounded_ite (hrefuse _ h2) (bounded_ite (bounded_raiseBit h8) h8)))

theorem bounded_rootFlip (h : s.bounded = true) : (rootFlip s).bounded = true := by
  unfold rootFlip; with_reducible exact bounded_ite (bounded_of_eq h rfl rfl rfl) (bounded_startPrep (bounded_sendDown (bounded_of_eq h rfl rfl rfl)))

theorem bounded_requestFlip {da} (h : s.bounded = true) : (requestFlip da s).bounded = true := by
  unfold requestFlip; exact bounded_ite (bounded_rootFlip h) (bounded_sendUp h)

theorem bounded_relRecover {a0 a1 a2} (h : s.bounded = true) : (relRecover a0 a1 a2 s).bounded = true := by
  unfold relRecover; with_reducible exact bounded_tick (bounded_setReg (bounded_of_eq (bounded_setFld (bounded_dropBit h)) rfl rfl rfl))

theorem bounded_joinRecover (h : s.bounded = true) : (joinRecover s).bounded = true := by
  unfold joinRecover; exact bounded_ite (bounded_joinLocal (fun _ _ _ _ hu => bounded_relRecover hu) h) h

theorem bounded_verifyWeights {new} (h : s.bounded = true) : (verifyWeights new s).bounded = true := by
  unfold verifyWeights; exact bounded_fold (fun _ _ hu => bounded_memRequest hu) h

theorem bounded_warmUp {ep} (h : s.bounded = true) : (warmUp ep s).bounded = true := by
  unfold warmUp
  with_reducible
    exact bounded_ite h (bounded_ite (bounded_askWarm (bounded_verifyWeights (bounded_of_eq h rfl rfl rfl))) (bounded_joinRecover (bounded_tick
        (bounded_setReg (bounded_setFld (bounded_askWarm (bounded_verifyWeights (bounded_of_eq h rfl rfl rfl))))))))

theorem bounded_liftFence {d} (h : s.bounded = true) : (liftFence d s).bounded = true := by
  unfold liftFence; extract_lets s1 s2 s3
  have h1 : s1.bounded = true := bounded_fold (fun _ _ hu => bounded_ite (bounded_setReg hu) hu) h
  have h2 : s2.bounded = true := bounded_ite h1 (bounded_ite (bounded_dropBit h1) (bounded_dropBit h1))
  have h3 : s3.bounded = true := bounded_setReg (bounded_ite (bounded_setStg h2) h2)
  exact bounded_writeGroups (by with_reducible exact bounded_of_eq h3 rfl rfl rfl)

theorem bounded_dropOld (h : s.bounded = true) : (dropOld s).bounded = true := by
  unfold dropOld
  with_reducible exact bounded_ite (bounded_of_eq (bounded_of_eq h rfl rfl rfl) rfl rfl rfl) (bounded_of_eq (bounded_of_eq h rfl rfl rfl) rfl rfl rfl)

theorem bounded_dropReplicas {ep} (h : s.bounded = true) : (dropReplicas ep s).bounded = true := by
  unfold dropReplicas; with_reducible exact bounded_of_eq h rfl rfl rfl

theorem bounded_applyGo {ep} (h : s.bounded = true) : (applyGo ep s).bounded = true := by
  unfold applyGo; extract_lets m s1 two alone drop s2 s3 s4 s5 s6 gone live wait s7 s8 _ s9
  have h1 : s1.bounded = true := bounded_fold (fun _ _ hu => bounded_setReg hu) h
  have h3 : s3.bounded = true := bounded_mergeNext (bounded_setReg h1)
  have h4 : s4.bounded = true := bounded_ite (bounded_dropReplicas h3) h3
  have h5 : s5.bounded = true := bounded_ite h4 (bounded_dropOld h4)
  have h6 : s6.bounded = true := by
    simp only [s6]
    split
    · exact bounded_liftFence h5
    · exact h5
  have h7 : s7.bounded = true := by with_reducible exact bounded_setReg (bounded_of_eq h6 rfl rfl rfl)
  have h8 : s8.bounded = true := bounded_ite (bounded_raiseBit h7) h7
  have h9 : s9.bounded = true := by with_reducible exact bounded_of_eq h8 rfl rfl rfl
  exact bounded_ite (bounded_staleFrame h) (bounded_warmUp (bounded_logEpoch (bounded_writeGroups (bounded_rewritePcnt h9))))

theorem bounded_relFlipReady {a0 a1 a2} (h : s.bounded = true) : (relFlipReady a0 a1 a2 s).bounded = true := by
  unfold relFlipReady; exact bounded_ite (bounded_applyGo (bounded_sendDown h)) h

theorem bounded_relFlipRetire {a0 a1 a2} (h : s.bounded = true) : (relFlipRetire a0 a1 a2 s).bounded = true := by
  unfold relFlipRetire
  exact bounded_ite (bounded_rootFlip (bounded_logEpoch (bounded_dropOld (bounded_dropBit h)))) (bounded_logEpoch (bounded_dropOld (bounded_dropBit h)))

theorem bounded_onStage1Done (h : s.bounded = true) : (onStage1Done s).bounded = true := by
  unfold onStage1Done; with_reducible exact bounded_ite (bounded_joinLocal (fun _ _ _ _ hu => bounded_relFlipReady hu) (bounded_of_eq h rfl rfl rfl)) h

theorem bounded_onRetireJoin (h : s.bounded = true) : (onRetireJoin s).bounded = true := by
  unfold onRetireJoin; with_reducible exact bounded_ite (bounded_joinLocal (fun _ _ _ _ hu => bounded_relFlipRetire hu) (bounded_of_eq h rfl rfl rfl)) h

theorem bounded_onDrainTimeout (h : s.bounded = true) : (onDrainTimeout s).bounded = true := by
  unfold onDrainTimeout; exact bounded_ite (bounded_raiseKill h) h

theorem bounded_onDrainDone (h : s.bounded = true) : (onDrainDone s).bounded = true := by
  unfold onDrainDone; exact bounded_ite (bounded_rewritePcnt (bounded_setFld (bounded_dropBit (bounded_ite (bounded_dropReplicas h) h)))) h

theorem bounded_reset : State.reset.bounded = true := resetIsCanonical.2

/-- A reset empties the three lists (R398). -/
theorem bounded_resetTo {k} : (resetTo k s).bounded = true := by
  unfold resetTo
  have hkept := bounded_foldl (fun t o => setStg o (if o = Reg.REL_SND_VOFS || o = Reg.REL_PWR_CFG then stg s o else 0) (setReg o (keptValue s o) t))
    (fun _ _ hu => bounded_setStg (bounded_setReg hu)) (keptRegs k) _ bounded_reset
  exact bounded_of_eq (bounded_ite (bounded_setFld (bounded_raiseBit hkept)) (bounded_raiseBit hkept)) rfl rfl rfl

theorem bounded_recordWake {w} (h : s.bounded = true) : (recordWake w s).bounded = true := by
  unfold recordWake; exact bounded_ite (bounded_setFld (bounded_setFld (bounded_raiseBit h))) (bounded_raiseBit h)

theorem bounded_wakeReset {w} : (wakeReset w s).bounded = true := bounded_resetTo

theorem bounded_wakeUp {w} (h : s.bounded = true) : (wakeUp w s).bounded = true := by
  unfold wakeUp
  split
  · with_reducible exact bounded_of_eq h rfl rfl rfl
  · with_reducible exact bounded_of_eq h rfl rfl rfl
  · exact bounded_recordWake h
  · with_reducible exact bounded_ite (bounded_of_eq (bounded_recordWake h) rfl rfl rfl) (bounded_ite bounded_wakeReset (bounded_ite (bounded_recordWake h) h))

end Sys2Proof.Machine
end

section
/-! Bounds: the beacon rows. -/

namespace Sys2Proof.Machine

variable {s t : State}

theorem bounded_setElect {n} (h : s.bounded = true) : (setElect n s).bounded = true := by
  unfold setElect; exact bounded_setFld h

theorem bounded_relElect {a0 a1 a2} (h : s.bounded = true) : (relElect a0 a1 a2 s).bounded = true := by
  unfold relElect; exact bounded_writeGroups (bounded_raiseBit (bounded_setElect h))

theorem bounded_selectTree {r id} (h : s.bounded = true) : (selectTree r id s).bounded = true := by
  unfold selectTree
  with_reducible exact bounded_writeGroups (bounded_of_eq (bounded_setFld (bounded_setFld (bounded_setReg (bounded_setReg h)))) rfl rfl rfl)

theorem bounded_adoptRoot {r id} (h : s.bounded = true) : (adoptRoot r id s).bounded = true := by
  unfold adoptRoot
  exact bounded_joinLocal (fun _ _ _ _ hu => bounded_relElect hu) (bounded_ite (bounded_setElect (bounded_selectTree h)) (bounded_selectTree h))

theorem bounded_becomeRoot {r} (h : s.bounded = true) : (becomeRoot r s).bounded = true := by
  unfold becomeRoot; exact bounded_adoptRoot (bounded_sendAll h)

theorem bounded_startElection (h : s.bounded = true) : (startElection s).bounded = true := by
  unfold startElection; with_reducible exact bounded_ite (bounded_sendEvery (bounded_setElect (bounded_of_eq h rfl rfl rfl))) (bounded_of_eq h rfl rfl rfl)

theorem bounded_podLost (h : s.bounded = true) : (podLost s).bounded = true := by
  unfold podLost; with_reducible exact bounded_raiseKill (bounded_sendAll (bounded_of_eq (bounded_faultRec h) rfl rfl rfl))

theorem bounded_nextTree (h : s.bounded = true) : (nextTree s).bounded = true := by
  unfold nextTree
  split
  · exact bounded_podLost h
  · with_reducible
      exact bounded_ite (bounded_becomeRoot (bounded_of_eq (bounded_setElect (bounded_setFld h)) rfl rfl rfl)) (bounded_startElection (bounded_of_eq
          (bounded_setElect (bounded_setFld h)) rfl rfl rfl))

theorem bounded_cutTree {r} (h : s.bounded = true) : (cutTree r s).bounded = true := by
  unfold cutTree; exact bounded_ite (bounded_nextTree (bounded_raiseBit h)) (bounded_raiseBit h)

theorem bounded_onRelease {id op v} (h : s.bounded = true) : (onRelease id op v s).bounded = true := by
  unfold onRelease
  split
  · exact bounded_relRecover h
  · exact bounded_relCount h
  · exact bounded_relCommit h
  · exact bounded_relReduce h
  · exact bounded_relFlipReady h
  · exact bounded_relFlipRetire h
  · exact bounded_relKillDone h
  · exact bounded_relElect h

theorem bounded_onJoin {l f} (h : s.bounded = true) : (onJoin l f s).bounded = true := by
  unfold onJoin; exact bounded_ite (bounded_staleFrame h) (bounded_joinInst (fun _ _ _ _ hu => bounded_onRelease hu) h)

theorem bounded_onReleaseFrame {f} (h : s.bounded = true) : (onReleaseFrame f s).bounded = true := by
  unfold onReleaseFrame
  split
  · exact bounded_staleFrame h
  · exact bounded_releaseInst (fun _ _ _ _ hu => bounded_onRelease hu) h

theorem bounded_takeKill {g kg} (h : s.bounded = true) : (takeKill g kg s).bounded = true := by
  unfold takeKill
  with_reducible
    exact bounded_ite (bounded_ite (bounded_setFld h) (bounded_ite (bounded_of_eq h rfl rfl rfl) (bounded_memberKill h))) (bounded_ite
        (bounded_of_eq h rfl rfl rfl) (bounded_of_eq h rfl rfl rfl))

theorem bounded_onKill {f} (h : s.bounded = true) : (onKill f s).bounded = true := by
  unfold onKill; extract_lets g kg held next down dup s1 s2
  have hdown : Keeps down := fun _ hu => bounded_sendDown hu
  have hdup : Keeps dup := fun _ hu => bounded_raiseBit (bounded_bump hu)
  have h1 : s1.bounded = true := bounded_capBeacon h
  have h2 : s2.bounded = true := bounded_closeInsts (hdown _ h1)
  refine bounded_ite (bounded_ite (bounded_sendUp h1) (bounded_ite ?_ (bounded_ite (hdup _ h1) (bounded_staleFrame h1))))
    (bounded_ite (bounded_takeKill h2) (bounded_ite (hdup _ h2) (bounded_staleFrame h2)))
  exact bounded_takeKill (hdown _ (bounded_closeInsts h1))

theorem bounded_judgeAll (h : s.bounded = true) : (judgeAll s).bounded = true := by
  unfold judgeAll; exact bounded_fold (fun _ _ hu => bounded_judgeInst (fun _ _ _ _ hv => bounded_onRelease hv) hu) h

theorem bounded_closeCommit (h : s.bounded = true) : (closeCommit s).bounded = true := by
  unfold closeCommit
  exact bounded_of_le h le_rfl (List.Sublist.refl _) (List.length_map _).le

theorem bounded_fenceOther {d} (h : s.bounded = true) : (fenceOther d s).bounded = true := by
  unfold fenceOther
  extract_lets s1 s2 s3 _ s4 s5 _
  have h1 : s1.bounded = true := by
    simp only [s1]
    split
    · exact bounded_setReg h
    · exact bounded_raiseBit (bounded_of_eq h rfl rfl rfl)
  have h2 : s2.bounded = true := bounded_ite h1 (bounded_ite (bounded_raiseBit h1) (bounded_raiseBit h1))
  have h3 : s3.bounded = true := bounded_setFld (bounded_withdraw h2)
  have h4 : s4.bounded = true := bounded_writeGroups (bounded_of_eq h3 rfl rfl rfl)
  have h5 : s5.bounded = true := bounded_faultRec (bounded_raiseBit (bounded_setFld h4))
  exact bounded_ite h (bounded_ite (bounded_judgeAll (bounded_raiseKill (bounded_closeCommit (bounded_of_eq h5 rfl rfl rfl)))) (bounded_judgeAll h4))

theorem bounded_applyFence {d} (h : s.bounded = true) : (applyFence d s).bounded = true := by
  unfold applyFence
  refine bounded_ite ?_ ?_
  · split
    · exact h
    · exact h
    · exact bounded_enterFenced h
  · exact bounded_fenceOther h

theorem bounded_sendFence {d} (h : s.bounded = true) : (sendFence d s).bounded = true := by
  unfold sendFence; exact bounded_ite (bounded_applyFence (bounded_sendDown h)) (bounded_sendUp h)

theorem bounded_onFence {f} (h : s.bounded = true) : (onFence f s).bounded = true := by
  unfold onFence; exact bounded_ite (bounded_sendUp (bounded_capBeacon h)) (bounded_applyFence (bounded_sendDown (bounded_capBeacon h)))

theorem bounded_lossOf {d} (h : s.bounded = true) : (lossOf d s).bounded = true := by
  unfold lossOf; exact bounded_ite h (bounded_sendFence h)

theorem bounded_floodAlarm {l f} (h : s.bounded = true) : (floodAlarm l f s).bounded = true := by
  unfold floodAlarm; with_reducible exact bounded_ite h (bounded_sendAll (bounded_of_eq h rfl rfl rfl))

theorem bounded_onAlarm {l f} (h : s.bounded = true) : (onAlarm l f s).bounded = true := by
  unfold onAlarm; extract_lets d code s1 s2
  have h1 : s1.bounded = true := bounded_raiseBit (bounded_setReg (bounded_capBeacon h))
  have h2 : s2.bounded = true := bounded_floodAlarm h1
  exact bounded_ite (bounded_cutTree h2) (bounded_ite (bounded_lossOf h2) h2)

theorem bounded_alarmFrame {l f} (h : s.bounded = true) : (alarmFrame l f s).bounded = true := by
  unfold alarmFrame; with_reducible exact bounded_ite (bounded_wakeUp (bounded_of_eq h rfl rfl rfl)) (bounded_onAlarm (bounded_ite (bounded_wakeUp h) h))

theorem bounded_passWake {f} (h : s.bounded = true) : (passWake f s).bounded = true := by
  unfold passWake; exact bounded_ite (bounded_sendUp (bounded_capBeacon h)) (bounded_sendDown (bounded_capBeacon h))

theorem bounded_wakeFrame {l f} (h : s.bounded = true) : (wakeFrame l f s).bounded = true := by
  unfold wakeFrame
  with_reducible
    exact bounded_ite (bounded_wakeUp (bounded_of_eq h rfl rfl rfl)) (bounded_ite (bounded_wakeUp h) (bounded_ite (bounded_staleFrame h) (bounded_passWake
        (bounded_ite (bounded_wakeUp h) h))))

theorem bounded_forwardHeld (h : s.bounded = true) : (forwardHeld s).bounded = true := by
  unfold forwardHeld; with_reducible exact bounded_fold (fun _ _ hu => bounded_ite (bounded_onAlarm hu) (bounded_passWake hu)) (bounded_of_eq h rfl rfl rfl)

theorem bounded_answerRoot {l} (h : s.bounded = true) : (answerRoot l s).bounded = true := by
  unfold answerRoot; exact bounded_ite h (bounded_sendFrame (bounded_setLink h))

theorem bounded_onHeartbeat {l f} (h : s.bounded = true) : (onHeartbeat l f s).bounded = true := by
  unfold onHeartbeat; exact bounded_ite (bounded_answerRoot (bounded_dropBit (bounded_setLink h))) (bounded_dropBit (bounded_setLink h))

theorem bounded_countMiss {l} (h : s.bounded = true) : (countMiss l s).bounded = true := by
  unfold countMiss
  dsimp only
  refine bounded_ite h ?_
  refine bounded_ite (bounded_setLink h) ?_
  refine bounded_ite (bounded_setLink h) ?_
  split
  · exact bounded_ite (bounded_raiseBit (bounded_raiseBit (bounded_setLink h))) (bounded_lossOf (bounded_raiseBit (bounded_raiseBit (bounded_setLink h))))
  · exact bounded_raiseBit (bounded_raiseBit (bounded_setLink h))

theorem bounded_treeCut (h : s.bounded = true) : (treeCut s).bounded = true := by
  unfold treeCut; with_reducible exact bounded_ite h (bounded_cutTree (bounded_sendAll (bounded_of_eq (bounded_faultRec h) rfl rfl rfl)))

theorem bounded_onPeriod (h : s.bounded = true) : (onPeriod s).bounded = true := by
  unfold onPeriod
  exact bounded_ite h (bounded_treeCut (bounded_fold (fun _ _ hu => bounded_countMiss hu) (bounded_fold (fun _ _ hu => bounded_sendFrame hu) h)))

theorem bounded_onClaim {l f} (h : s.bounded = true) : (onClaim l f s).bounded = true := by
  unfold onClaim; extract_lets id s1 lower _ s2 s3
  have h1 : s1.bounded = true := bounded_ite (bounded_ite (bounded_raiseBit (bounded_setElect (bounded_tick h))) (bounded_tick h)) h
  have h2 : s2.bounded = true := by with_reducible exact bounded_of_eq h1 rfl rfl rfl
  have h3 : s3.bounded = true := bounded_ite (bounded_setElect h2) h2
  exact bounded_ite (bounded_answerRoot h) (bounded_ite h (bounded_ite h1 (bounded_sendEvery h3)))

theorem bounded_onRoot {l f} (h : s.bounded = true) : (onRoot l f s).bounded = true := by
  unfold onRoot; extract_lets r id s1
  have h1 : s1.bounded = true := bounded_capBeacon h
  refine bounded_ite (bounded_ite h1 ?_) (bounded_ite h1 (bounded_adoptRoot (bounded_sendAll h1)))
  exact bounded_writeGroups (bounded_raiseBit (bounded_setElect (bounded_selectTree h1)))

theorem bounded_onSettle (h : s.bounded = true) : (onSettle s).bounded = true := by
  unfold onSettle
  split
  · exact bounded_ite (bounded_becomeRoot h) h
  · exact h

theorem bounded_sendReply {l} (h : s.bounded = true) : (sendReply l s).bounded = true := by
  unfold sendReply; exact bounded_sendFrame (bounded_setLink h)

theorem bounded_onDiscover {l f} (h : s.bounded = true) : (onDiscover l f s).bounded = true := by
  unfold onDiscover; exact bounded_ite (bounded_setLink (bounded_setLink h)) (bounded_ite (bounded_sendReply (bounded_setLink h)) (bounded_setLink h))

theorem bounded_onFrameAck {l cls} (h : s.bounded = true) : (onFrameAck l cls s).bounded = true := by
  unfold onFrameAck; exact bounded_ite h (bounded_ite h (bounded_pumpClass (bounded_setFld (bounded_setLink h))))

theorem bounded_killOthers (h : s.bounded = true) : (killOthers s).bounded = true := by
  unfold killOthers; exact bounded_fold (fun _ _ hu => bounded_sendUp hu) h

theorem bounded_linkFail {l} (h : s.bounded = true) : (linkFail l s).bounded = true := by
  unfold linkFail; extract_lets k was waiting s1 _ s2 sp s3 s4 s5
  have h2 : s2.bounded = true := bounded_setLink (bounded_raiseBit (bounded_raiseBit h))
  have h3 : s3.bounded = true := bounded_fold (fun _ _ hu => bounded_sendFrame hu) h2
  have h5 : s5.bounded = true := bounded_killOthers (bounded_faultRec (bounded_raiseBit h3))
  exact bounded_ite h2 (bounded_ite (bounded_ite h5 (bounded_raiseKill h5)) (bounded_ownLoss h2))

theorem bounded_onResend {l cls} (h : s.bounded = true) : (onResend l cls s).bounded = true := by
  unfold onResend
  refine bounded_ite h ?_
  dsimp only
  split
  · exact h
  · exact bounded_ite (bounded_raiseBit h) (bounded_ite (bounded_linkFail h) (bounded_emit (bounded_bump (bounded_setLink h))))

theorem bounded_onDark {l dark} (h : s.bounded = true) : (onDark l dark s).bounded = true := by
  unfold onDark; exact bounded_ite h (bounded_ite (bounded_setLink h) (bounded_fold (fun _ _ hu => bounded_pumpClass hu) (bounded_setLink h)))

end Sys2Proof.Machine
end

section
/-! Bounds: the record/replay unit and the special-function unit. -/

namespace Sys2Proof.Machine

variable {s t : State}

theorem bounded_capMargin (h : s.bounded = true) : (capMargin s).bounded = true := by
  unfold capMargin; exact bounded_ite (bounded_setFld h) h

theorem bounded_markTdc (h : s.bounded = true) : (markTdc s).bounded = true := by
  unfold markTdc; with_reducible exact bounded_of_eq h rfl rfl rfl

theorem bounded_capStart (h : s.bounded = true) : (capStart s).bounded = true := by
  unfold capStart
  refine bounded_ite h ?_
  split
  · exact h
  · with_reducible
      exact bounded_capMargin (bounded_queueReply (bounded_capPush (bounded_markTdc (bounded_setReg (bounded_setFld (bounded_of_eq h rfl rfl rfl))))))

theorem bounded_capStop (h : s.bounded = true) : (capStop s).bounded = true := by
  unfold capStop; exact bounded_ite h (bounded_setFld (bounded_setFld (bounded_capPush h)))

theorem bounded_capEnd (h : s.bounded = true) : (capEnd s).bounded = true := by
  unfold capEnd
  refine bounded_ite h ?_
  dsimp only
  split
  · with_reducible exact bounded_dropBit (bounded_freeBufs (bounded_of_eq h rfl rfl rfl))
  · with_reducible exact bounded_queueReply (bounded_dropBit (bounded_freeBufs (bounded_of_eq h rfl rfl rfl)))

theorem bounded_ringWrite {pos l} (h : s.bounded = true) : (ringWrite pos l s).bounded = true := by
  unfold ringWrite; exact bounded_fold (fun _ _ hu => bounded_wr8 hu) (bounded_chargeMem h)

theorem bounded_ringCopy (h : s.bounded = true) : (ringCopy s).bounded = true := by
  unfold ringCopy
  extract_lets l p left s1 s2 keep _ s3
  have h2 : s2.bounded = true := bounded_bump64 (bounded_ringWrite h)
  have h3 : s3.bounded = true := bounded_withCap h2
  exact bounded_ite h (bounded_capEnd (bounded_capMargin (bounded_capCred h3)))

theorem bounded_repImpose : ∀ {k} {s : State}, s.bounded = true → (repImpose k s).bounded = true
  | 0, _, h => h
  | k + 1, s, h => by
    unfold repImpose; dsimp only
    split
    · exact h
    · split
      · refine bounded_repImpose ?_
        split
        · exact bounded_of_eq (bounded_memberKill h) rfl rfl rfl
        · exact bounded_of_eq h rfl rfl rfl
      · split
        · exact bounded_repImpose (bounded_of_eq h rfl rfl rfl)
        · exact h

theorem bounded_repAdvance (h : s.bounded = true) : (repAdvance s).bounded = true := by
  unfold repAdvance; exact bounded_ite (bounded_repStarve (bounded_repImpose h)) h

theorem bounded_repSupply (h : s.bounded = true) : (repSupply s).bounded = true := by
  unfold repSupply; extract_lets pos rs s1 _ s2
  have h1 : s1.bounded = true := bounded_keeperRead h
  have h2 : s2.bounded = true := bounded_bump64 (bounded_withCap h1)
  exact bounded_ite h (bounded_ite h (bounded_repAdvance (bounded_repCompareWaiting (bounded_setFld (bounded_dropBit h2)))))

theorem bounded_repStart (h : s.bounded = true) : (repStart s).bounded = true := by
  unfold repStart
  with_reducible
    exact bounded_repStarve (bounded_repSupply (bounded_markTdc (bounded_of_eq (bounded_setFld (bounded_setReg (bounded_setReg h))) rfl rfl rfl)))

theorem bounded_repStop (h : s.bounded = true) : (repStop s).bounded = true := by
  unfold repStop; with_reducible exact bounded_dropBit (bounded_dropBit (bounded_setFld (bounded_freeBufs (bounded_of_eq h rfl rfl rfl))))

theorem bounded_capSw {v} (h : s.bounded = true) : (capSw v s).bounded = true := by
  unfold capSw
  with_reducible
    exact bounded_ite (bounded_repSupply (bounded_of_eq (bounded_setReg h) rfl rfl rfl)) (bounded_capMargin (bounded_of_eq (bounded_setReg h) rfl rfl rfl))

theorem bounded_sfuStatus {rows resid} (h : s.bounded = true) : (sfuStatus rows resid s).bounded = true := by
  unfold sfuStatus; exact bounded_raiseIf (bounded_raiseIf (bounded_raiseIf (bounded_raiseIf (bounded_raiseIf (bounded_bump (bounded_bump h))))))

theorem bounded_sfuMode {ben} (h : s.bounded = true) : (sfuMode ben s).bounded = true := by
  unfold sfuMode; exact bounded_setFld h

theorem jobKeeps_rowJob {r reads bound rows} : JobKeeps (rowJob s r reads bound rows) :=
  { start := fun _ hu => bounded_sfuMode hu, rep := fun _ hu => bounded_sfuStatus hu }

theorem jobKeeps_funcJob {r} : JobKeeps (funcJob s r) := { start := fun _ hu => bounded_sfuMode hu, rep := fun _ hu => bounded_sfuStatus hu }

theorem jobKeeps_rowMaxJob {r} : JobKeeps (rowMaxJob s r) := jobKeeps_rowJob

theorem jobKeeps_rowSumexpJob {r} : JobKeeps (rowSumexpJob s r) := jobKeeps_rowJob

theorem jobKeeps_softmaxJob {r} : JobKeeps (softmaxJob s r) := jobKeeps_rowJob

theorem jobKeeps_rowRmsJob {r} : JobKeeps (rowRmsJob s r) := jobKeeps_rowJob

theorem jobKeeps_renormJob {r} : JobKeeps (renormJob s r) := jobKeeps_rowJob

theorem jobKeeps_sfuJob {r} : JobKeeps (sfuJob s r) := by
  unfold sfuJob
  split
  · exact jobKeeps_funcJob
  · exact jobKeeps_rowMaxJob
  · exact jobKeeps_rowSumexpJob
  · exact jobKeeps_softmaxJob
  · exact jobKeeps_rowRmsJob
  · exact jobKeeps_renormJob

end Sys2Proof.Machine
end

section
/-! Bounds: host packets, the ingress interface, and the lists the Keeper builds. A step is added only where fewer than
64 are unfinished (R289). -/

namespace Sys2Proof.Machine

variable {s t : State}

theorem bounded_ok {p r} (h : s.bounded = true) : (ok p r s).bounded = true := by
  unfold ok; exact bounded_answer _ h

theorem bounded_reject {p j} (h : s.bounded = true) : (reject p j s).bounded = true := by
  unfold reject
  dsimp only
  refine bounded_logEnter ?_
  refine bounded_bump ?_
  refine bounded_answer _ ?_
  split
  · exact bounded_ueDetect h
  · exact h

theorem bounded_doKill {p} (h : s.bounded = true) : (doKill p s).bounded = true := by
  unfold doKill; exact bounded_raiseKill (bounded_ok h)

theorem bounded_doQuery {p} (h : s.bounded = true) : (doQuery p s).bounded = true := by
  unfold doQuery
  split
  · exact bounded_ok h
  · exact h

/-- A step is accepted where fewer than 64 are unfinished (R289). -/
theorem bounded_acceptStep {p x} (hroom : s.steps.length < 64) (h : s.bounded = true) : (acceptStep p x s).bounded = true := by
  obtain ⟨hreplies, hengines, -⟩ := bounded_iff.1 (bounded_answer { mkReply p 0 [x.seq.toNat] with final := false } h)
  have hadded : ∀ r : Reply, (answer r s).replies.length ≤ 16 → ((answer r s).running.map Run.eng).Nodup →
      ({ answer r s with steps := (answer r s).steps ++ [x], nextSeq := (answer r s).nextSeq + 1 } : State).bounded = true :=
    fun r h1 h2 => bounded_iff.2 ⟨h1, h2, by rw [answer_only]; simpa using hroom⟩
  unfold acceptStep; dsimp only
  split
  · exact bounded_wakeUp (hadded _ hreplies hengines)
  · exact hadded _ hreplies hengines

theorem bounded_doSubmit {p} (hroom : s.steps.length < 64) (h : s.bounded = true) : (doSubmit p s).bounded = true := bounded_acceptStep hroom h

theorem bounded_doRun {p} (hroom : s.steps.length < 64) (h : s.bounded = true) : (doRun p s).bounded = true := bounded_acceptStep hroom h

theorem bounded_doAllocCnt {p} (h : s.bounded = true) : (doAllocCnt p s).bounded = true := by
  unfold doAllocCnt; with_reducible exact bounded_ok (bounded_of_eq h rfl rfl rfl)

theorem bounded_doFreeCnt {p} (h : s.bounded = true) : (doFreeCnt p s).bounded = true := by
  unfold doFreeCnt; with_reducible exact bounded_ok (bounded_of_eq h rfl rfl rfl)

theorem bounded_doAllocCpool {p} (h : s.bounded = true) : (doAllocCpool p s).bounded = true := by
  unfold doAllocCpool
  dsimp only
  split
  · with_reducible exact bounded_ok (bounded_of_eq (bounded_keeperWrite (bounded_of_allocBufs h ‹_›)) rfl rfl rfl)
  · exact bounded_reject (bounded_of_allocBufs h ‹_›)

theorem bounded_doFreeCpool {p} (h : s.bounded = true) : (doFreeCpool p s).bounded = true := by
  unfold doFreeCpool
  dsimp only
  split
  · exact h
  · with_reducible exact bounded_ok (bounded_ite (bounded_of_eq h rfl rfl rfl) (bounded_freeBufs (bounded_unmap (bounded_of_eq h rfl rfl rfl))))

theorem bounded_doReadLl {p} (h : s.bounded = true) : (doReadLl p s).bounded = true := by
  unfold doReadLl
  split
  · exact h
  · exact bounded_ok (bounded_keeperWrite h)

theorem bounded_doLoad {p} (h : s.bounded = true) : (doLoad p s).bounded = true := by
  unfold doLoad
  with_reducible
    exact bounded_ok (bounded_raiseBit (bounded_of_eq (bounded_of_eq (bounded_fold (fun _ _ hu => bounded_putNext hu) h) rfl rfl rfl) rfl rfl rfl))

theorem bounded_doUnload {p} (h : s.bounded = true) : (doUnload p s).bounded = true := by
  unfold doUnload; extract_lets m act s1 s2
  have h1 : s1.bounded = true := bounded_dropBit (bounded_of_eq h rfl rfl rfl)
  have h2 : s2.bounded = true := bounded_ite (bounded_raiseBit (bounded_of_eq h1 rfl rfl rfl)) h1
  exact bounded_ok h2

theorem bounded_doSwitch {p} (h : s.bounded = true) : (doSwitch p s).bounded = true := by
  unfold doSwitch; with_reducible exact bounded_of_eq h rfl rfl rfl

theorem bounded_setBoth {off v} (h : s.bounded = true) : (setBoth off v s).bounded = true := by
  unfold setBoth; exact bounded_setReg (bounded_stageReg h)

theorem bounded_stagePools {b} (h : s.bounded = true) : (stagePools b s).bounded = true := by
  unfold stagePools; exact bounded_fold (fun _ _ hu => bounded_stageReg (bounded_stageReg (bounded_stageReg (bounded_stageReg (bounded_stageReg hu))))) h

theorem bounded_clearPub (h : s.bounded = true) : (clearPub s).bounded = true := by
  unfold clearPub; with_reducible exact bounded_giveBack (bounded_of_eq h rfl rfl rfl)

theorem bounded_wipePub (h : s.bounded = true) : (wipePub s).bounded = true := by
  unfold wipePub; exact bounded_ite h (bounded_keeperWrite h)

theorem bounded_leavePart (h : s.bounded = true) : (leavePart s).bounded = true := by
  unfold leavePart; extract_lets mine s1 s2 s3
  have h1 : s1.bounded = true := bounded_of_eq h rfl rfl rfl
  have h2 : s2.bounded = true := bounded_dropBit (bounded_clearPub (bounded_of_eq h1 rfl rfl rfl))
  have h3 : s3.bounded = true := bounded_setReg (bounded_setReg (bounded_setReg h2))
  exact bounded_writeGroups (bounded_of_eq h3 rfl rfl rfl)

theorem bounded_joinPart {p b members} (h : s.bounded = true) : (joinPart p b members s).bounded = true := by
  unfold joinPart; extract_lets fl acct ben s1 s2 s3 s4 _ _ s5 s6 s7
  have h4 : s4.bounded = true := bounded_setBoth (bounded_setBoth (bounded_setBoth (bounded_setFld (bounded_setReg (bounded_leavePart h)))))
  have h5 : s5.bounded = true := by with_reducible exact bounded_of_eq h4 rfl rfl rfl
  have h6 : s6.bounded = true := bounded_wipePub h5
  have h7 : s7.bounded = true := bounded_ite h6 (bounded_usePools h6)
  exact bounded_writeGroups h7

theorem bounded_setPart {p b members} (h : s.bounded = true) : (setPart p b members s).bounded = true := by
  unfold setPart; extract_lets fl s1 s2 _
  have h1 : s1.bounded = true := bounded_stageReg (bounded_stageReg (bounded_stageReg h))
  have h2 : s2.bounded = true := bounded_ite (bounded_wipePub (bounded_clearPub h1)) h1
  with_reducible exact bounded_writeGroups (bounded_of_eq h2 rfl rfl rfl)

theorem bounded_doPart {p} (h : s.bounded = true) : (doPart p s).bounded = true := by
  unfold doPart; extract_lets b m own s1 s2
  have h1 : s1.bounded = true := bounded_ite (bounded_setPart h) (bounded_joinPart h)
  have h2 : s2.bounded = true := bounded_ite (bounded_stagePools h1) h1
  exact bounded_ite (bounded_ok (bounded_leavePart h)) (bounded_ok (bounded_commitSelf h2))

theorem bounded_ingSignal {i half} (h : s.bounded = true) : (ingSignal i half s).bounded = true := by
  unfold ingSignal; exact bounded_capEvent (bounded_signal h)

theorem bounded_setIngress {i} (h : s.bounded = true) : (setIngress i s).bounded = true := by
  unfold setIngress; with_reducible exact bounded_of_eq h rfl rfl rfl

theorem bounded_ingHalves {i} (h : s.bounded = true) : (ingHalves i s).bounded = true := by
  unfold ingHalves; extract_lets a b s1 s2
  have h1 : s1.bounded = true := bounded_setIngress h
  have h2 : s2.bounded = true := bounded_ite (bounded_ingSignal h1) h1
  exact bounded_ite (bounded_setIngress h) (bounded_ite (bounded_ingSignal h2) h2)

theorem bounded_startTile {x} (h : s.bounded = true) : (startTile x s).bounded = true := by
  unfold startTile; with_reducible exact bounded_ingHalves (bounded_of_eq (bounded_fold (fun _ _ hu => bounded_emit hu) h) rfl rfl rfl)

theorem bounded_ingEnd {c q} (h : s.bounded = true) : (ingEnd c q s).bounded = true := by
  unfold ingEnd
  split
  · exact h
  · refine bounded_ite (bounded_raiseKill h) ?_
    split
    · exact bounded_sendAborts (bounded_modStep h)
    · exact h

theorem bounded_flagWrite {i k flag} (h : s.bounded = true) : (flagWrite i k flag s).2.bounded = true := by
  unfold flagWrite; dsimp only
  split
  · exact bounded_ueDetect (bounded_partialAbort (bounded_raiseBit (bounded_raiseIf h)))
  · exact bounded_keeperWrite (bounded_raiseIf h)

theorem bounded_onBeat {c flag data} (h : s.bounded = true) : (onBeat c flag data s).bounded = true := by
  unfold onBeat
  split
  · exact bounded_raiseBit (bounded_bump h)
  · split
    · exact bounded_setIngress (bounded_bump h)
    · dsimp only
      split
      · split
        · exact bounded_ingEnd (bounded_setIngress (bounded_flagWrite (bounded_keeperWrite h)))
        · exact bounded_ingHalves (bounded_flagWrite (bounded_keeperWrite h))
      · split
        · exact bounded_ingEnd (bounded_setIngress (bounded_keeperWrite h))
        · exact bounded_ingHalves (bounded_keeperWrite h)

theorem bounded_ingTimeout (h : s.bounded = true) : (ingTimeout s).bounded = true := by
  unfold ingTimeout
  split
  · exact h
  · exact bounded_ingEnd (bounded_tdc (bounded_raiseBit (bounded_setIngress h)))

theorem bounded_takeRooms {l} (h : s.bounded = true) : (takeRooms l s).2.bounded = true := by
  induction l generalizing s with
  | nil => exact h
  | cons b l ih =>
    unfold takeRooms
    split
    next hroom =>
      have hrest := ih (bounded_of_allocRoom h hroom)
      split
      next e => rw [e] at hrest; exact hrest
      next e => rw [e] at hrest; exact bounded_untake hrest
    next hroom => exact bounded_of_allocRoom h hroom

theorem bounded_of_takeRooms {l r} (h : s.bounded = true) (e : takeRooms l s = (r, t)) : t.bounded = true := by
  have hall := bounded_takeRooms (l := l) h
  rwa [e] at hall

theorem bounded_stageStep {x hd kept} (h : s.bounded = true) : (stageStep x hd kept s).bounded = true := by
  unfold stageStep
  exact bounded_commitSelf (bounded_stageBits (bounded_stageReg (bounded_stageReg (bounded_stageReg (bounded_stageReg (bounded_fold
      (fun _ _ hu => bounded_stageReg hu) (bounded_stageReg (bounded_stageBits h))))))))

theorem bounded_writePlaces {c} (h : s.bounded = true) : (writePlaces c s).bounded = true := by
  unfold writePlaces; exact bounded_fold (fun _ _ hu => bounded_putAll hu) h

theorem bounded_cutWrite {c places k first rows} (h : s.bounded = true) : (cutWrite c places k first rows s).bounded = true := by
  unfold cutWrite; exact bounded_fold (fun _ _ hu => bounded_putAll hu) h

theorem bounded_putPieces {c op param places wait sig} : ∀ {fuel k first} {b : LB}, b.st.bounded = true →
    (putPieces c op param places wait sig fuel k first b).st.bounded = true
  | 0, _, _, _, h => h
  | fuel + 1, k, first, b, h => by
    unfold putPieces; dsimp only
    split
    · exact h
    · exact bounded_putPieces (bounded_cutWrite h)

theorem bounded_putCut {c op param places wait sig} {b : LB} (h : b.st.bounded = true) : (LB.putCut c op param places wait sig b).st.bounded = true := by
  unfold LB.putCut
  split
  · exact bounded_putPieces h
  · exact h

theorem bounded_putScore {c} {b : LB} (h : b.st.bounded = true) : (putScore c b).st.bounded = true := by
  unfold putScore; dsimp only
  split
  · exact bounded_putCut (bounded_putCut h)
  · split
    · exact h
    · exact bounded_putCut h

theorem bounded_putSfu {c} {b : LB} (h : b.st.bounded = true) : (putSfu c b).st.bounded = true := by
  unfold putSfu; dsimp only
  split
  · exact bounded_putCut h
  · split
    · exact bounded_putCut (bounded_putCut (bounded_putCut h))
    · exact bounded_putCut h

theorem bounded_putSelect {c} {b : LB} (h : b.st.bounded = true) : (putSelect c b).st.bounded = true := by
  unfold putSelect; dsimp only
  split
  · exact bounded_putCut h
  · exact h

theorem bounded_putHalf {c} {b : LB} (h : b.st.bounded = true) : (putHalf c b).st.bounded = true :=
  bounded_putSelect (bounded_putSfu (bounded_putScore h))

theorem bounded_stepRecs {x hd} (h : s.bounded = true) : (stepRecs x hd s).2.bounded = true := by
  unfold stepRecs; extract_lets a b u l
  have hu : u.bounded = true := bounded_writePlaces (bounded_writePlaces h)
  have ha : (putHalf a { recs := [], sums := [], st := u }).st.bounded = true := by with_reducible exact bounded_putHalf hu
  have hl : l.st.bounded = true := by with_reducible exact bounded_putHalf ha
  exact hl

end Sys2Proof.Machine
end

section
/-! Bounds: the Keeper's own actions. -/

namespace Sys2Proof.Machine

variable {s t : State}

theorem bounded_placeOne {r} (h : s.bounded = true) : (placeOne r s).bounded = true := by
  unfold placeOne; with_reducible exact bounded_putAll (bounded_of_eq h rfl rfl rfl)

theorem bounded_placeGo {x l} (h : s.bounded = true) : (placeGo x l s).2.bounded = true := by
  induction l generalizing s with
  | nil => exact h
  | cons r l ih =>
    unfold placeGo
    split
    · exact h
    · exact ih (bounded_placeOne h)

theorem bounded_placeHeld {q} (h : s.bounded = true) : (placeHeld q s).bounded = true := by
  unfold placeHeld
  split
  · exact h
  · exact bounded_modStep (bounded_placeGo h)

theorem bounded_placeAll (h : s.bounded = true) : (placeAll s).bounded = true := by
  unfold placeAll; exact bounded_armAll (bounded_drainCounts (bounded_fold (fun _ _ hu => bounded_placeHeld hu) h))

theorem bounded_zeroCounters {x} (h : s.bounded = true) : (zeroCounters x s).bounded = true := by
  unfold zeroCounters; with_reducible exact bounded_of_eq h rfl rfl rfl

theorem bounded_buildStep {q} (h : s.bounded = true) : (buildStep q s).2.bounded = true := by
  unfold buildStep
  split
  · exact h
  · split
    · exact bounded_modStep h
    · dsimp only
      split
      next e => exact bounded_of_takeRooms h e
      next e => exact bounded_modStep (bounded_stepRecs (bounded_of_takeRooms h e))

theorem bounded_of_buildStep {q b} (h : s.bounded = true) (e : buildStep q s = (b, t)) : t.bounded = true := by
  have hall := bounded_buildStep (q := q) h
  rwa [e] at hall

theorem bounded_prepareStep {x} (h : s.bounded = true) : (prepareStep x s).2.bounded = true := by
  unfold prepareStep
  split
  · exact h
  · split
    · exact h
    · split
      next e => exact bounded_of_takeRooms h e
      next e => exact bounded_stageStep (bounded_modStep (bounded_of_takeRooms h e))

theorem bounded_of_prepareStep {x b} (h : s.bounded = true) (e : prepareStep x s = (b, t)) : t.bounded = true := by
  have hall := bounded_prepareStep (x := x) h
  rwa [e] at hall

theorem bounded_startStep {q} (h : s.bounded = true) : (startStep q s).bounded = true := by
  unfold startStep; exact bounded_placeAll (bounded_modStep h)

theorem bounded_roomsFail {x} (h : s.bounded = true) : (roomsFail x s).bounded = true := by
  unfold roomsFail
  dsimp only
  split
  · exact bounded_of_takeRooms h ‹_›
  · exact bounded_noBuf h

theorem bounded_enqueue {spareFail x} (h : s.bounded = true) : (enqueue spareFail x s).bounded = true := by
  unfold enqueue
  split
  · exact bounded_roomsFail h
  next s1 hprepared =>
    have h1 : s1.bounded = true := bounded_of_prepareStep (bounded_zeroCounters (bounded_capStart h)) hprepared
    have hpassed : (stepBoundary spareFail s1).2.bounded = true := bounded_stepBoundary h1
    refine bounded_ite (bounded_cfgHold (by with_reducible exact bounded_of_eq h rfl rfl rfl)) (bounded_ite hpassed ?_)
    dsimp only
    split
    · exact bounded_roomsFail h
    next s2 hbuilt =>
      have h2 : s2.bounded = true := bounded_of_buildStep (bounded_modStep hpassed) hbuilt
      refine bounded_ite (bounded_raiseKill (bounded_modStep h2)) (bounded_startStep ?_)
      split
      · exact bounded_startTile h2
      · exact h2

theorem bounded_ownRead {k} (hk : Keeps k) (h : s.bounded = true) : (ownRead k s).bounded = true := by
  unfold ownRead
  split
  · exact hk _ h
  · exact bounded_ite (bounded_loseSlice (bounded_ueDetect (bounded_tick h))) (hk _ (bounded_tick h))

theorem bounded_stepEnqueue {spareFail} (h : s.bounded = true) : (stepEnqueue spareFail s).bounded = true := by
  unfold stepEnqueue
  split
  · exact h
  · exact bounded_ite (bounded_ite (bounded_ownRead (fun _ hu => bounded_enqueue hu) h) (bounded_enqueue h)) h

theorem bounded_ringResume (h : s.bounded = true) : (ringResume s).bounded = true := by
  unfold ringResume; exact bounded_ite (bounded_ownRead (fun _ hu => bounded_placeAll hu) h) (bounded_placeAll h)

theorem bounded_bareBoundary {spareFail} (h : s.bounded = true) : (bareBoundary spareFail s).bounded = true := by
  unfold bareBoundary; with_reducible exact bounded_ite (bounded_cfgHold (bounded_of_eq h rfl rfl rfl)) (bounded_stepBoundary h)

theorem bounded_idleBoundary {spareFail} (h : s.bounded = true) : (idleBoundary spareFail s).bounded = true := by
  unfold idleBoundary; exact bounded_ite (bounded_bareBoundary h) h

theorem bounded_retryHold (h : s.bounded = true) : (retryHold s).bounded = true := by
  unfold retryHold
  refine bounded_ite h ?_
  refine bounded_ite (bounded_cfgHold h) ?_
  refine bounded_ite (bounded_bareBoundary h) ?_
  split
  · exact bounded_cfgRelease h
  · exact bounded_ite (bounded_ite (bounded_ownRead (fun _ hu => bounded_enqueue hu) h) (bounded_enqueue h)) (bounded_cfgRelease h)

theorem bounded_onCrcDone (h : s.bounded = true) : (onCrcDone s).bounded = true := by
  unfold onCrcDone; exact bounded_ite (bounded_retryHold (bounded_crcDone h)) h

theorem bounded_flipTimeout (h : s.bounded = true) : (flipTimeout s).bounded = true := by
  unfold flipTimeout; exact bounded_ite (bounded_loseSlice h) h

theorem bounded_pdSubmit {x r} (h : s.bounded = true) : (pdSubmit x r s).bounded = true := by
  unfold pdSubmit; exact bounded_placeAll (bounded_modStep h)

theorem bounded_pdRun {x half} (h : s.bounded = true) : (pdRun x half s).bounded = true := by
  unfold pdRun; exact bounded_placeAll (bounded_modStep (bounded_ite (bounded_putAll (bounded_ite (bounded_putAll h) h)) (bounded_ite (bounded_putAll h) h)))

theorem bounded_pdResolve (h : s.bounded = true) : (pdResolve s).bounded = true := by
  unfold pdResolve
  refine bounded_ite h ?_
  split
  · exact h
  · split
    · exact bounded_ownRead (fun _ hu => bounded_pdRun (bounded_keeperRead hu)) h
    · split
      · exact bounded_ownRead (fun _ hu => bounded_pdSubmit (bounded_keeperRead hu)) h
      · exact h

theorem bounded_readPubs {r q} (h : s.bounded = true) : (readPubs r q s).bounded = true := by
  unfold readPubs; exact bounded_fold (fun _ _ hu => bounded_ueDetect hu) (bounded_ite h (bounded_keeperRead h))

theorem bounded_publish {x es} (h : s.bounded = true) : (publish x es s).bounded = true := by
  unfold publish; dsimp only
  refine bounded_fold (fun u e hu => ?_) h
  split
  · exact bounded_of_eq hu rfl rfl rfl
  · exact bounded_keeperWrite (bounded_of_eq hu rfl rfl rfl)

theorem bounded_commitLoop {x} (h : s.bounded = true) : (commitLoop x s).2.2.bounded = true := by
  unfold commitLoop
  split
  · exact h
  · dsimp only
    split
    · exact bounded_bump (bounded_setLoop h)
    · exact bounded_setLoop h

theorem bounded_commitBufs {x es loopE loopKeep old} (h : s.bounded = true) : (commitBufs x es loopE loopKeep old s).bounded = true := by
  unfold commitBufs; extract_lets mine last gone known keep stay all left ws s1
  have h1 : s1.bounded = true := bounded_freeBufs (bounded_of_eq h rfl rfl rfl)
  exact bounded_giveBack (bounded_of_eq h1 rfl rfl rfl)

theorem bounded_recovT3 {x} (h : s.bounded = true) : (recovT3 x s).bounded = true := by
  unfold recovT3; with_reducible exact bounded_ite (bounded_tick (bounded_setReg (bounded_of_eq h rfl rfl rfl))) h

theorem bounded_recovIdle (h : s.bounded = true) : (recovIdle s).bounded = true := by
  unfold recovIdle; exact bounded_ite (bounded_setFld h) h

theorem bounded_heldKills (h : s.bounded = true) : (heldKills s).bounded = true := by
  unfold heldKills; extract_lets l s1 u
  have h1 : s1.bounded = true := bounded_fold (fun _ _ hu => bounded_raiseKill hu) (bounded_of_eq h rfl rfl rfl)
  split
  · exact h1
  · exact bounded_ite (bounded_memberKill (bounded_of_eq h1 rfl rfl rfl)) (bounded_of_eq h1 rfl rfl rfl)

theorem bounded_commit (h : s.bounded = true) : (commit s).bounded = true := by
  unfold commit
  refine bounded_ite h ?_
  split
  · exact h
  · exact bounded_ite h (bounded_heldKills (bounded_loopRetry (bounded_recovIdle (bounded_recovT3 (bounded_bump64 (bounded_endStep (bounded_capCommit
        (bounded_fold (fun _ _ hu => bounded_emit hu) (bounded_commitBufs (bounded_commitLoop (bounded_commitReplicas (bounded_publish
        (bounded_readPubs h)))))))))))))

theorem bounded_stepKill {c} (h : s.bounded = true) : (stepKill c s).bounded = true := by
  unfold stepKill; exact bounded_ite (bounded_raiseKill h) h

theorem bounded_endKilled {x code} (h : s.bounded = true) : (endKilled x code s).bounded = true := by
  unfold endKilled; with_reducible exact bounded_capCommit (bounded_endStep (bounded_giveBack (bounded_of_eq h rfl rfl rfl)))

theorem bounded_reEnqueue {l} (h : s.bounded = true) : (reEnqueue l s).bounded = true := by
  induction l generalizing s with
  | nil => exact h
  | cons x l ih =>
    unfold reEnqueue
    split
    next e => exact bounded_of_eq (bounded_of_buildStep (bounded_zeroRange h) e) rfl rfl rfl
    next e => exact ih (bounded_startStep (bounded_bump (bounded_modStep (bounded_of_buildStep (bounded_zeroRange h) e))))

theorem bounded_rerun (h : s.bounded = true) : (rerun s).bounded = true := by
  unfold rerun
  refine bounded_ite h ?_
  dsimp only
  refine bounded_ite ?_ ?_
  · refine bounded_recovIdle ?_
    refine bounded_of_eq ?_ rfl rfl rfl
    refine bounded_fold (fun u a hu => ?_) h
    split
    · exact bounded_endKilled hu
    · exact hu
  · refine bounded_ite ?_ ?_
    · refine bounded_of_eq ?_ rfl rfl rfl
      refine bounded_fold (fun u a hu => ?_) h
      split
      · exact bounded_endKilled hu
      · exact hu
    · refine bounded_ite ?_ ?_
      · refine bounded_newUnits ?_
        refine bounded_of_eq ?_ rfl rfl rfl
        refine bounded_fold (fun u a hu => ?_) h
        split
        · exact bounded_endKilled hu
        · exact hu
      · refine bounded_ownRead (fun _ hu => bounded_reEnqueue hu) ?_
        refine bounded_newUnits ?_
        refine bounded_of_eq ?_ rfl rfl rfl
        refine bounded_fold (fun u a hu => ?_) h
        split
        · exact bounded_endKilled hu
        · exact hu

theorem bounded_pinLine {key} (h : s.bounded = true) : (pinLine key s).bounded = true := by
  unfold pinLine; exact bounded_ite (bounded_pinIn (bounded_pinIn h)) (bounded_pinIn h)

theorem bounded_unpinAll (h : s.bounded = true) : (unpinAll s).bounded = true := by
  unfold unpinAll; with_reducible exact bounded_of_eq h rfl rfl rfl

theorem bounded_switchOut (h : s.bounded = true) : (switchOut s).bounded = true := by
  unfold switchOut
  split
  · exact h
  · exact bounded_keeperWrite h

theorem bounded_switchStage {f hd} (h : s.bounded = true) : (switchStage f hd s).bounded = true := by
  unfold switchStage
  exact bounded_ite (bounded_commitSelf (bounded_stageReg (bounded_stageReg (bounded_stageReg h)))) (bounded_commitSelf (bounded_stageBits
      (bounded_stageBits (bounded_stageReg (bounded_stageReg (bounded_stageReg h))))))

theorem bounded_switchGood {f m hd} (h : s.bounded = true) : (switchGood f m hd s).bounded = true := by
  unfold switchGood
  with_reducible
    exact bounded_rewritePcnt (bounded_setReg (bounded_switchStage (bounded_of_eq (bounded_fold (fun _ _ hu => bounded_pinLine hu) (bounded_unpinAll
        (bounded_keeperWrite h))) rfl rfl rfl)))

theorem bounded_switchKill {x code} (h : s.bounded = true) : (switchKill x code s).bounded = true := by
  unfold switchKill; exact bounded_joinKillDone (bounded_sendAborts (bounded_modStep (bounded_sendKill (bounded_applyKill h))))

theorem bounded_switchFail {f late a} (h : s.bounded = true) : (switchFail f late a s).bounded = true := by
  unfold switchFail
  dsimp only
  split
  · exact bounded_queueReply (bounded_ite (bounded_ueDetect (bounded_raiseBit (bounded_unpinAll h))) (bounded_raiseBit (bounded_unpinAll h)))
  · exact bounded_switchKill (bounded_ite (bounded_ueDetect (bounded_raiseBit (bounded_unpinAll h))) (bounded_raiseBit (bounded_unpinAll h)))

theorem bounded_switchEnd {f} (h : s.bounded = true) : (switchEnd f s).bounded = true := by
  unfold switchEnd
  dsimp only
  split
  · exact bounded_queueReply (bounded_setReg (bounded_bump (bounded_tick h)))
  · exact bounded_setReg (bounded_bump (bounded_tick h))

theorem bounded_switchDone {f m bad} (h : s.bounded = true) : (switchDone f m bad s).bounded = true := by
  unfold switchDone
  split
  · split
    · exact bounded_queueReply h
    · exact h
  · split
    · exact bounded_retryHold (bounded_switchEnd (bounded_switchGood h))
    · exact bounded_switchFail h

theorem bounded_switchMeets {hd read} (h : s.bounded = true) : (switchMeets hd read s).bounded = true := by
  unfold switchMeets
  split
  · exact h
  · split
    · exact h
    · refine bounded_ite ?_ ?_
      · split
        · exact h
        · exact bounded_ceDetect h
        · exact bounded_poison h
      · exact h

theorem bounded_modelSwitch {read} (h : s.bounded = true) : (modelSwitch read s).bounded = true := by
  unfold modelSwitch
  refine bounded_ite h ?_
  split
  · exact h
  · dsimp only
    split
    · refine bounded_switchDone ?_
      split
      · with_reducible exact bounded_of_eq h rfl rfl rfl
      · exact h
    · refine bounded_ite ?_ ?_
      · refine bounded_switchDone ?_
        refine bounded_switchMeets ?_
        refine bounded_switchOut ?_
        split
        · with_reducible exact bounded_of_eq h rfl rfl rfl
        · exact h
      · refine bounded_memRequests ?_
        refine bounded_of_eq ?_ rfl rfl rfl
        refine bounded_switchMeets ?_
        refine bounded_switchOut ?_
        split
        · with_reducible exact bounded_of_eq h rfl rfl rfl
        · exact h

theorem bounded_switchBack {t bad} (h : s.bounded = true) : (switchBack t bad s).bounded = true := by
  unfold switchBack
  split
  · exact h
  · dsimp only
    refine bounded_ite (bounded_of_eq h rfl rfl rfl) ?_
    split
    · with_reducible exact bounded_switchDone (bounded_of_eq h rfl rfl rfl)
    · with_reducible exact bounded_switchDone (bounded_of_eq h rfl rfl rfl)
    · with_reducible exact bounded_of_eq h rfl rfl rfl

end Sys2Proof.Machine
end

section
/-! Bounds: the non-volatile store, and the packets the Keeper takes: the BUSY check of R303 is the one that keeps
the number of unfinished steps. -/

namespace Sys2Proof.Machine

variable {s t : State}

theorem bounded_nvmWr {off l} (h : s.bounded = true) : (nvmWr off l s).bounded = true := by
  unfold nvmWr; with_reducible exact bounded_of_eq h rfl rfl rfl

theorem bounded_nvmStatus (h : s.bounded = true) : (nvmStatus s).bounded = true := by
  unfold nvmStatus; exact bounded_setReg (bounded_setReg (bounded_setFld (bounded_setFld (bounded_setFld (bounded_setFld (bounded_setFld h))))))

theorem bounded_nvmWear {r n} (h : s.bounded = true) : (nvmWear r n s).bounded = true := by
  unfold nvmWear; with_reducible exact bounded_of_eq h rfl rfl rfl

theorem bounded_storeOne {r l failed} (h : s.bounded = true) : (storeOne r l failed s).bounded = true := by
  unfold storeOne; exact bounded_ite (bounded_tick (bounded_nvmWear (bounded_nvmWr h))) (bounded_tick (bounded_nvmWear (bounded_nvmWr h)))

theorem bounded_imageStatus (h : s.bounded = true) : (imageStatus s).bounded = true := by
  unfold imageStatus; exact bounded_setFld h

theorem bounded_storeDone {failed} (h : s.bounded = true) : (storeDone failed s).bounded = true := by
  unfold storeDone
  split
  · with_reducible
      exact bounded_queueReply (bounded_imageStatus (bounded_nvmStatus (bounded_raiseIf (bounded_of_eq (bounded_fold
          (fun _ _ hu => bounded_storeOne hu) h) rfl rfl rfl))))
  · exact h

theorem bounded_doInfo {p} (h : s.bounded = true) : (doInfo p s).bounded = true := by
  unfold doInfo; exact bounded_ok h

theorem bounded_doCfg {p} (h : s.bounded = true) : (doCfg p s).bounded = true := by
  unfold doCfg; exact bounded_ok (bounded_ite (bounded_commitSelf (bounded_crcDone h)) (bounded_setReg h))

theorem bounded_doFlush {p} (h : s.bounded = true) : (doFlush p s).bounded = true := by
  unfold doFlush; with_reducible exact bounded_raiseBit (bounded_of_eq h rfl rfl rfl)

theorem bounded_takeCap {p k} (hk : Keeps k) (h : s.bounded = true) : (takeCap p k s).bounded = true := by
  unfold takeCap
  split
  next e => exact hk _ (bounded_of_eq (bounded_of_allocBufs h e) rfl rfl rfl)
  next e => exact bounded_reject (bounded_of_allocBufs h e)

theorem bounded_doCapture {p} (h : s.bounded = true) : (doCapture p s).bounded = true := by
  unfold doCapture
  with_reducible
    exact bounded_ite (bounded_of_eq h rfl rfl rfl) (bounded_takeCap (fun _ hu => bounded_setFld (bounded_of_eq (bounded_setReg (bounded_setReg
        (bounded_setReg (bounded_setReg hu)))) rfl rfl rfl)) h)

theorem bounded_doReplay {p} (h : s.bounded = true) : (doReplay p s).bounded = true := by
  unfold doReplay; exact bounded_ite (bounded_ok (bounded_repStop h)) (bounded_takeCap (fun _ hu => bounded_repStart (bounded_ok hu)) h)

theorem bounded_doStore {p} (h : s.bounded = true) : (doStore p s).bounded = true := by
  unfold doStore; with_reducible exact bounded_of_eq h rfl rfl rfl

theorem bounded_doTest {p} (h : s.bounded = true) : (doTest p s).bounded = true := by
  unfold doTest; with_reducible exact bounded_of_eq h rfl rfl rfl

theorem bounded_testDone {tiles lanes words} (h : s.bounded = true) : (testDone tiles lanes words s).bounded = true := by
  unfold testDone
  split
  · with_reducible
      exact bounded_queueReply (bounded_fold (fun _ _ hu => bounded_laneFailed hu) (bounded_fold (fun _ _ hu => bounded_tileFailed hu)
          (bounded_of_eq h rfl rfl rfl)))
  · exact h

theorem bounded_doSuspend {p} (h : s.bounded = true) : (doSuspend p s).bounded = true := by
  unfold doSuspend; with_reducible exact bounded_ite (bounded_sendFence (bounded_of_eq (bounded_ok h) rfl rfl rfl)) (bounded_setFld (bounded_ok h))

theorem bounded_doResume {p} (h : s.bounded = true) : (doResume p s).bounded = true := by
  unfold doResume
  split
  · with_reducible exact bounded_of_eq (bounded_recordWake h) rfl rfl rfl
  · with_reducible exact bounded_of_eq (bounded_recordWake h) rfl rfl rfl
  · exact bounded_wakeUp h

/-- What an accepted packet does keeps the bounds; the two that add a step are accepted where fewer than 64 are unfinished (R289, R303). -/
theorem bounded_hostDo {p} (hroom : hOp p = 0x20 ∨ hOp p = 0x80 → s.steps.length < 64) (h : s.bounded = true) : (hostDo p s).bounded = true := by
  unfold hostDo
  split
  · exact bounded_ok h
  · exact bounded_doInfo h
  · exact bounded_doLoad h
  · exact bounded_doUnload h
  · exact bounded_doSwitch h
  next e => exact bounded_doRun (hroom (.inl e)) h
  · exact bounded_doKill h
  · exact bounded_doQuery h
  · exact bounded_doReadLl h
  · exact bounded_doPart h
  · exact bounded_doStore h
  · exact bounded_doTest h
  · exact bounded_doSuspend h
  · exact bounded_doResume h
  · exact bounded_doCapture h
  · exact bounded_doReplay h
  · exact bounded_doFlush h
  next e => exact bounded_doSubmit (hroom (.inr e)) h
  · exact bounded_doAllocCnt h
  · exact bounded_doFreeCnt h
  · exact bounded_doAllocCpool h
  · exact bounded_doFreeCpool h
  · exact bounded_doCfg h
  · exact h

theorem bounded_capHost {p} (h : s.bounded = true) : (capHost p s).bounded = true := by
  unfold capHost; exact bounded_ite h (bounded_capEvent h)

theorem bounded_hostSeen {p} (h : s.bounded = true) : (hostSeen p s).bounded = true := by
  unfold hostSeen; exact bounded_fold (fun _ _ hu => bounded_aperMiss hu) (bounded_capHost (bounded_bump h))

theorem bounded_letGo (h : s.bounded = true) : (letGo s).bounded = true := by
  unfold letGo; with_reducible exact bounded_of_eq h rfl rfl rfl

/-- A RUN_STEP or SUBMIT_LIST that passes its checks meets fewer than 64 unfinished steps: else it is BUSY (R289, R303). -/
theorem room_of_judge {p} (e : judge s (hostVerdict s p) = none) (hop : hOp p = 0x20 ∨ hOp p = 0x80) : s.steps.length < 64 := by
  have hpre : firstBad (hostVerdict s p).pre = none := by
    unfold judge at e
    split at e
    · cases e
    next hnone => exact hnone
  have hbusy : ((decide (64 ≤ s.steps.length), 1, 0, 0) : Cause) ∈ (hostVerdict s p).pre := by
    obtain hop | hop := hop
    · simp [hostVerdict, hop, runChecks]
    · simp [hostVerdict, hop, submitChecks]
  unfold firstBad at hpre
  have hfree := List.find?_eq_none.1 (Option.map_eq_none_iff.1 hpre) _ hbusy
  simpa using hfree

/-- The effect acts on the state `t` that the checks on `s` have passed, which holds the same unfinished steps. -/
theorem bounded_judgePkt {p} (hsteps : t.steps = s.steps) (h : t.bounded = true) : (judgePkt p s t).bounded = true := by
  unfold judgePkt
  split
  · exact bounded_reject h
  next e =>
    have hdo : (hostDo p t).bounded = true := bounded_hostDo (fun hop => hsteps ▸ room_of_judge e hop) h
    split
    · exact bounded_retryHold hdo
    · exact hdo

theorem bounded_takePkt {p} (h : s.bounded = true) : (takePkt p s).bounded = true := by
  unfold takePkt; dsimp only
  split
  · exact bounded_reject (bounded_hostSeen h)
  · split
    · exact bounded_judgePkt rfl (bounded_hostSeen h)
    · exact bounded_memRequests (bounded_of_eq (bounded_hostSeen h) rfl rfl rfl)

theorem bounded_takeBack {k bad} (h : s.bounded = true) : (takeBack k bad s).bounded = true := by
  unfold takeBack
  split
  · exact h
  · extract_lets k' u
    have hu : u.bounded = true := bounded_of_eq h rfl rfl rfl
    exact bounded_ite hu (bounded_judgePkt rfl (bounded_letGo hu))

theorem bounded_keeperLate (h : s.bounded = true) : (keeperLate s).bounded = true := by
  unfold keeperLate; dsimp only
  split
  · exact h
  · split
    · exact h
    · exact bounded_judgePkt rfl (bounded_letGo (bounded_dropReads (bounded_of_eq h rfl rfl rfl)))

theorem bounded_closedBell {p} (h : s.bounded = true) : (closedBell p s).bounded = true := by
  unfold closedBell; exact bounded_ite (bounded_answer _ bounded_wakeReset) (bounded_ite (bounded_answer _ (bounded_recordWake h)) (bounded_answer _ h))

theorem bounded_hostRow {op sel p} (h : s.bounded = true) : (hostRow op sel p s).bounded = true := by
  unfold hostRow; exact bounded_ite h (bounded_ite (bounded_closedBell h) (bounded_ite (bounded_takePkt h) h))

theorem bounded_doorbell {data} (h : s.bounded = true) : (doorbell data s).bounded = true := by
  unfold doorbell
  with_reducible exact bounded_ite h (bounded_ite (bounded_closedBell h) (bounded_ite (bounded_raiseBit (bounded_bump h)) (bounded_of_eq h rfl rfl rfl)))

theorem bounded_cmdWrite {n data} (h : s.bounded = true) : (cmdWrite n data s).bounded = true := by
  unfold cmdWrite; with_reducible exact bounded_ite h (bounded_ite (bounded_raiseBit h) (bounded_of_eq h rfl rfl rfl))

theorem bounded_pop {data} (h : s.bounded = true) : (pop data s).bounded = true := by
  unfold pop
  split
  · exact h
  · exact bounded_of_le h (by simp) (List.Sublist.refl _) le_rfl

theorem bounded_mbTake (h : s.bounded = true) : (mbTake s).bounded = true := by
  unfold mbTake
  split
  · exact h
  · with_reducible exact bounded_ite (bounded_takePkt (bounded_of_eq h rfl rfl rfl)) h

end Sys2Proof.Machine
end

section
/-! Bounds: bring-up and power states, reading the log FIFO, and the register window. -/

namespace Sys2Proof.Machine

variable {s t : State}

theorem bounded_writeRw {off mask v} (h : s.bounded = true) : (writeRw off mask v s).bounded = true := by
  unfold writeRw
  split
  · exact h
  · exact bounded_ite h (bounded_setReg (bounded_fold (fun _ _ hu => bounded_raiseBit hu) h))

theorem bounded_phaseTime {i bound} (h : s.bounded = true) : (phaseTime i bound s).bounded = true := by
  unfold phaseTime; exact bounded_tick (bounded_setReg h)

theorem bounded_loadShadows (h : s.bounded = true) : (loadShadows s).bounded = true := by
  unfold loadShadows; with_reducible exact bounded_ite h (bounded_of_eq h rfl rfl rfl)

theorem bounded_showIdentity (h : s.bounded = true) : (showIdentity s).bounded = true := by
  unfold showIdentity; exact bounded_setReg (bounded_setReg h)

theorem bounded_endPhaseA (h : s.bounded = true) : (endPhaseA s).bounded = true := by
  unfold endPhaseA; exact bounded_ite h (bounded_phaseTime (bounded_setFld (bounded_showIdentity (bounded_nvmStatus (bounded_loadShadows h)))))

theorem bounded_bringupFail (h : s.bounded = true) : (bringupFail s).bounded = true := by
  unfold bringupFail; with_reducible exact bounded_of_eq (bounded_raiseBit h) rfl rfl rfl

theorem bounded_clearStaging (h : s.bounded = true) : (clearStaging s).bounded = true := by
  unfold clearStaging; with_reducible exact bounded_of_eq h rfl rfl rfl

theorem bounded_applySetting {kept e} (h : s.bounded = true) : (applySetting kept e s).bounded = true := by
  unfold applySetting
  dsimp only
  refine bounded_ite (bounded_raiseIf h) ?_
  refine bounded_ite h ?_
  split
  · exact bounded_raiseIf h
  · exact bounded_raiseIf (bounded_setStg (bounded_setReg h))

theorem bounded_applySettings (h : s.bounded = true) : (applySettings s).bounded = true := by
  unfold applySettings; with_reducible exact bounded_of_eq (bounded_fold (fun _ _ hu => bounded_applySetting hu) h) rfl rfl rfl

theorem bounded_setPoolRegs {p} (h : s.bounded = true) : (setPoolRegs p s).bounded = true := by
  unfold setPoolRegs
  exact bounded_setStg (bounded_setReg (bounded_setStg (bounded_setReg (bounded_setStg (bounded_setReg (bounded_setStg (bounded_setReg (bounded_setStg
      (bounded_setReg h)))))))))

theorem bounded_buildPools (h : s.bounded = true) : (buildPools s).bounded = true := by
  unfold buildPools
  exact bounded_ite (bounded_rebuildPools (bounded_setFld (bounded_raiseBit (bounded_fold (fun _ _ hu => bounded_setPoolRegs hu) h)))) (bounded_faultRec
      (bounded_rebuildPools (bounded_setFld (bounded_dropBit h))))

theorem bounded_loadImage (h : s.bounded = true) : (loadImage s).bounded = true := by
  unfold loadImage
  split
  · with_reducible exact bounded_of_eq (bounded_raiseBit h) rfl rfl rfl
  · with_reducible exact bounded_setReg (bounded_setFld (bounded_of_eq h rfl rfl rfl))

theorem bounded_endPhaseB {tiles lanes} (h : s.bounded = true) : (endPhaseB tiles lanes s).bounded = true := by
  unfold endPhaseB; extract_lets full s1 s2 s3 s4
  have h1 : s1.bounded = true := bounded_ite (bounded_setFld (bounded_setFld h)) h
  have h2 : s2.bounded = true := bounded_substLanes (bounded_substTiles (bounded_clearStaging h1))
  have h3 : s3.bounded = true := bounded_phaseTime (bounded_setFld h2)
  have h4 : s4.bounded = true := bounded_loadImage (bounded_buildPools (bounded_applySettings h3))
  exact bounded_ite h (bounded_ite (bounded_bringupFail h4) h4)

theorem bounded_becomeReady {startupOk} (h : s.bounded = true) : (becomeReady startupOk s).bounded = true := by
  unfold becomeReady; extract_lets s1 s2 s3 _ s4 found s5
  have h3 : s3.bounded = true := bounded_crcDone (bounded_commitSelf (bounded_setFld (bounded_phaseTime h)))
  have h4 : s4.bounded = true := by with_reducible exact bounded_writeGroups (bounded_of_eq h3 rfl rfl rfl)
  have h5 : s5.bounded = true := bounded_fold (fun _ _ hu => bounded_sendReply hu) h4
  refine bounded_ite h ?_
  split
  · exact h
  · exact bounded_ite (bounded_bringupFail h) (bounded_forwardHeld (bounded_startElection h5))

theorem bounded_bootGo {data} (h : s.bounded = true) : (bootGo data s).bounded = true := by
  unfold bootGo
  refine bounded_ite h ?_
  split
  · with_reducible exact bounded_setReg (bounded_raiseBit (bounded_of_eq h rfl rfl rfl))
  · exact bounded_raiseBit h

theorem bounded_idleExit (h : s.bounded = true) : (idleExit s).bounded = true := by
  unfold idleExit
  split
  · with_reducible exact bounded_fold (fun _ _ hu => bounded_answer _ hu) (bounded_setFld (bounded_of_eq h rfl rfl rfl))
  · exact h

theorem bounded_darkWakes {ws} (h : s.bounded = true) : (darkWakes ws s).bounded = true := by
  unfold darkWakes
  split
  · exact h
  · exact bounded_fold (fun _ _ hu => bounded_answer _ hu) (bounded_fold (fun _ _ hu => bounded_ite hu (bounded_recordWake hu)) bounded_wakeReset)

theorem bounded_enterDark (h : s.bounded = true) : (enterDark s).bounded = true := by
  unfold enterDark
  split
  · with_reducible exact bounded_ite h (bounded_darkWakes (bounded_setFld (bounded_of_eq h rfl rfl rfl)))
  · exact h

theorem bounded_aonTick (h : s.bounded = true) : (aonTick s).bounded = true := by
  unfold aonTick; extract_lets pend up ok _ s1 set s2 _ s3
  have h1 : s1.bounded = true := bounded_of_eq h rfl rfl rfl
  have h2 : s2.bounded = true := bounded_applyReg (bounded_cfgRelease h1)
  have h3 : s3.bounded = true := bounded_ite h1 (bounded_ite (bounded_cfgHold h1) (bounded_ite (bounded_applyReg (bounded_of_eq h2 rfl rfl rfl)) h2))
  exact bounded_ite (bounded_setFld h3) h3

theorem bounded_keeperFatal {code b} (h : s.bounded = true) : (keeperFatal code b s).bounded = true := by
  unfold keeperFatal; exact bounded_ite (bounded_ownLoss (bounded_raiseBit h)) (bounded_ite (bounded_bringupFail (bounded_raiseBit h)) h)

theorem bounded_spillCycle (h : s.bounded = true) : (spillCycle s).bounded = true := by
  unfold spillCycle
  dsimp only
  refine bounded_ite h ?_
  split
  · exact h
  · with_reducible exact bounded_putAll (bounded_of_eq h rfl rfl rfl)

theorem bounded_spillCheck : ∀ {k} {s : State}, s.bounded = true → (spillCheck k s).bounded = true
  | 0, _, h => h
  | k + 1, s, h => by
    unfold spillCheck
    split
    · exact h
    · split
      · exact h
      · split
        · exact bounded_spillCheck (bounded_raiseBit (bounded_logLose (bounded_tick (bounded_of_eq h rfl rfl rfl))))
        · exact bounded_tick (bounded_of_eq h rfl rfl rfl)

theorem bounded_logTake (h : s.bounded = true) : (logTake s).bounded = true := by
  unfold logTake
  refine bounded_ite (bounded_of_eq h rfl rfl rfl) ?_
  dsimp only
  split <;> with_reducible exact bounded_logFell (bounded_of_eq (bounded_spillCheck h) rfl rfl rfl)

theorem bounded_flushAsk (h : s.bounded = true) : (flushAsk s).bounded = true := by
  unfold flushAsk; exact bounded_raiseBit h

theorem bounded_flushApply (h : s.bounded = true) : (flushApply s).bounded = true := by
  unfold flushApply; exact bounded_ite h (bounded_ite (bounded_cfgHold h) (bounded_fold (fun _ _ hu => bounded_applyReg hu) (bounded_cfgRelease h)))

theorem bounded_flushNow (h : s.bounded = true) : (flushNow s).bounded = true := by
  unfold flushNow
  with_reducible
    exact bounded_ite h (bounded_fold (fun _ _ hu => bounded_queueReply hu) (bounded_dropBit (bounded_logFell (bounded_flushApply
        (bounded_of_eq h rfl rfl rfl)))))

theorem bounded_clearRc {o v} (h : s.bounded = true) : (clearRc o v s).bounded = true := by
  unfold clearRc
  split
  · exact h
  · exact bounded_ite h (bounded_setReg h)

theorem bounded_readTake {o} (h : s.bounded = true) : (readTake o s).bounded = true := by
  unfold readTake; exact bounded_ite (bounded_logTake h) h

theorem bounded_accessErr {err unm off kind remote} (h : s.bounded = true) : (accessErr err unm off kind remote s).bounded = true := by
  unfold accessErr; exact bounded_ite h (bounded_bump (bounded_setReg (bounded_raiseIf (bounded_raiseIf h))))

theorem bounded_windowRead {off size} (h : s.bounded = true) : (windowRead off size s).bounded = true := by
  unfold windowRead; extract_lets _ s1 v w e
  have h1 : s1.bounded = true := bounded_readTake h
  refine bounded_ite (bounded_emit (bounded_accessErr h)) (bounded_ite (bounded_emit (bounded_accessErr h)) (bounded_ite ?_ ?_))
  · exact bounded_emit (bounded_accessErr (bounded_clearRc h1))
  · exact bounded_emit (bounded_accessErr (bounded_clearRc (bounded_clearRc h1)))

theorem bounded_clearTdc (h : s.bounded = true) : (clearTdc s).bounded = true := by
  unfold clearTdc; with_reducible exact bounded_fold (fun _ _ hu => bounded_setReg hu) (bounded_of_eq h rfl rfl rfl)

theorem bounded_acctRead (h : s.bounded = true) : (acctRead s).bounded = true := by
  unfold acctRead; exact bounded_ite h (bounded_keeperRead h)

theorem bounded_writeFx {o m v} (h : s.bounded = true) : (writeFx o m v s).bounded = true := by
  unfold writeFx; extract_lets w n old s1
  have h1 : s1.bounded = true := bounded_ite (bounded_setReg (bounded_setReg h)) h
  refine bounded_ite (bounded_ite h (bounded_cmdWrite h)) (bounded_ite (bounded_doorbell h) (bounded_ite (bounded_pop h) ?_))
  refine bounded_ite (bounded_ite (bounded_setReg h1) h1) (bounded_ite (bounded_ite h (bounded_raiseBit (bounded_acctRead h))) ?_)
  refine bounded_ite (bounded_ite (bounded_clearTdc h) h) (bounded_ite (bounded_ite h (bounded_capSw h)) (bounded_ite (bounded_capMargin h) ?_))
  exact bounded_ite (bounded_ite (bounded_flushAsk h) h) (bounded_ite (bounded_bootGo h) h)

theorem bounded_writeReg {o mask v} (h : s.bounded = true) : (writeReg o mask v s).bounded = true := by
  unfold writeReg
  split
  · exact h
  · exact bounded_writeFx (bounded_ite (bounded_writeRw h) (bounded_stageBits (bounded_writeRw h)))

theorem bounded_write32 {o mask v} (h : s.bounded = true) : (write32 o mask v s).bounded = true := by
  unfold write32
  split
  · exact bounded_writeReg h
  · exact bounded_ite (bounded_writeReg h) h

theorem bounded_windowWrite {off size v} (h : s.bounded = true) : (windowWrite off size v s).bounded = true := by
  unfold windowWrite
  exact bounded_ite (bounded_accessErr h) (bounded_ite (bounded_accessErr h) (bounded_ite (bounded_accessErr (bounded_write32 h)) (bounded_accessErr
      (bounded_write32 (bounded_write32 h)))))

theorem bounded_portRead {off size} (h : s.bounded = true) : (portRead off size s).bounded = true := by
  unfold portRead; exact bounded_ite h (bounded_ite (bounded_emit h) (bounded_windowRead h))

theorem bounded_portWrite {off size v} (h : s.bounded = true) : (portWrite off size v s).bounded = true := by
  unfold portWrite; exact bounded_ite h (bounded_ite h (bounded_windowWrite h))

theorem bounded_acctCopied (h : s.bounded = true) : (acctCopied s).bounded = true := by
  unfold acctCopied; with_reducible exact bounded_ite h (bounded_dropBit (bounded_of_eq h rfl rfl rfl))

end Sys2Proof.Machine
end

section
/-! Bounds: CTRL packets, the light list's packets, memory errors and the die memory port's events. -/

namespace Sys2Proof.Machine

variable {s t : State}

theorem bounded_ctrlAnswer {p status value} (h : s.bounded = true) : (ctrlAnswer p status value s).bounded = true := by
  unfold ctrlAnswer; with_reducible exact bounded_inject (bounded_of_eq h rfl rfl rfl)

theorem bounded_capCtrl {p} (h : s.bounded = true) : (capCtrl p s).bounded = true := by
  unfold capCtrl; exact bounded_capEvent h

theorem bounded_ctrlRow {op k p} (hk : Keeps k) (h : s.bounded = true) : (ctrlRow op k p s).bounded = true := by
  unfold ctrlRow; exact bounded_ite h (bounded_eject (fun _ hu => hk _ (bounded_capCtrl (bounded_ackAccept hu))) h)

theorem bounded_onRegWrite {p} (h : s.bounded = true) : (onRegWrite p s).bounded = true := by
  unfold onRegWrite
  exact bounded_ite (bounded_ctrlAnswer (bounded_accessErr h)) (bounded_ite (bounded_ctrlAnswer (bounded_accessErr h)) (bounded_retryHold
      (bounded_ctrlAnswer (bounded_commitSelf (bounded_write32 h)))))

theorem bounded_onRegRead {p} (h : s.bounded = true) : (onRegRead p s).bounded = true := by
  unfold onRegRead
  exact bounded_ite (bounded_ctrlAnswer (bounded_accessErr h)) (bounded_ite (bounded_ctrlAnswer (bounded_accessErr h)) (bounded_ctrlAnswer h))

theorem bounded_onStepAbort {p} (h : s.bounded = true) : (onStepAbort p s).bounded = true := by
  unfold onStepAbort
  dsimp only
  split
  · with_reducible exact bounded_ite (bounded_ctrlAnswer h) (bounded_ctrlAnswer (bounded_of_eq h rfl rfl rfl))
  · with_reducible
      exact bounded_ite (bounded_ctrlAnswer h) (bounded_ctrlAnswer (bounded_ite (bounded_modStep (bounded_of_eq h rfl rfl rfl))
          (bounded_of_eq h rfl rfl rfl)))

theorem bounded_onPartHold {p} (h : s.bounded = true) : (onPartHold p s).bounded = true := by
  unfold onPartHold; exact bounded_ctrlAnswer (bounded_raiseBit h)

theorem bounded_onPartResume {p} (h : s.bounded = true) : (onPartResume p s).bounded = true := by
  unfold onPartResume; exact bounded_ite (bounded_ctrlAnswer (bounded_dropBit h)) (bounded_ctrlAnswer h)

theorem bounded_onCtrlResult {p} (h : s.bounded = true) : (onCtrlResult p s).bounded = true := by
  unfold onCtrlResult; with_reducible exact bounded_of_eq h rfl rfl rfl

theorem bounded_onWriteBack {p} (h : s.bounded = true) : (onWriteBack p s).bounded = true := by
  unfold onWriteBack; exact bounded_ite (bounded_mergeNext (bounded_onLlWb h)) (bounded_onLlWb h)

theorem bounded_resumeAll (h : s.bounded = true) : (resumeAll s).bounded = true := by
  unfold resumeAll; extract_lets on s1 s2 s3 s4
  have h1 : s1.bounded = true := bounded_ite (bounded_resumeLines (fun _ _ => jobKeeps_sortJob) h) h
  have h2 : s2.bounded = true := bounded_ite (bounded_resumeLines (fun _ _ => jobKeeps_planJob) h1) h1
  have h3 : s3.bounded = true := bounded_ite (bounded_resumeLines (fun _ _ => jobKeeps_dispatchJob) h2) h2
  have h4 : s4.bounded = true := bounded_resumeFetch h3
  exact bounded_ite (bounded_resumeLines (fun _ _ => jobKeeps_fetchSrvJob) h4) h4

theorem bounded_llTrim (h : s.bounded = true) : (llTrim s).bounded = true := by
  unfold llTrim; with_reducible exact bounded_of_eq h rfl rfl rfl

theorem bounded_onGrantData {p} (h : s.bounded = true) : (onGrantData p s).bounded = true := by
  unfold onGrantData
  dsimp only
  refine bounded_ite h ?_
  split
  · exact h
  · with_reducible exact bounded_llTrim (bounded_sendPins (bounded_resumeAll (bounded_llKeep (bounded_of_eq h rfl rfl rfl))))

theorem bounded_onGrantOwn {p} (h : s.bounded = true) : (onGrantOwn p s).bounded = true := by
  unfold onGrantOwn
  dsimp only
  refine bounded_ite h ?_
  split
  · exact h
  · with_reducible exact bounded_inject (bounded_of_eq h rfl rfl rfl)

theorem bounded_onLlRetry {p} (h : s.bounded = true) : (onLlRetry p s).bounded = true := by
  unfold onLlRetry; with_reducible exact bounded_ite h (bounded_of_eq (bounded_raiseBit (bounded_bump h)) rfl rfl rfl)

theorem bounded_onRetryResend {i} (h : s.bounded = true) : (onRetryResend i s).bounded = true := by
  unfold onRetryResend
  split
  · exact h
  · with_reducible exact bounded_ite h (bounded_inject (bounded_of_eq h rfl rfl rfl))

theorem jobKeeps_jobOf {r} : JobKeeps (jobOf s r) := by
  unfold jobOf; dsimp only
  split
  · exact jobKeeps_scoreJob
  · exact jobKeeps_scoreCountJob
  · exact jobKeeps_sfuJob
  · split
    · exact jobKeeps_gonlyJob
    · exact jobKeeps_selectJob
  · split
    · exact jobKeeps_sortGwJob
    · exact jobKeeps_sortJob
  · exact jobKeeps_planJob
  · exact jobKeeps_sendJob
  · exact jobKeeps_recvJob
  · exact jobKeeps_forwardJob
  · split
    · exact jobKeeps_fetchSrvJob
    · exact jobKeeps_fetchReqJob
  · exact jobKeeps_combJob
  · exact jobKeeps_combJob
  · exact jobKeeps_moveJob
  · exact jobKeeps_dispatchJob
  · split
    · exact jobKeeps_reduceBcnJob
    · exact jobKeeps_reduceJob

theorem bounded_setTag {t} (h : s.bounded = true) : (setTag t s).bounded = true := by
  unfold setTag; with_reducible exact bounded_of_eq h rfl rfl rfl

theorem bounded_keeperBack {t bad} (h : s.bounded = true) : (keeperBack t bad s).bounded = true := by
  unfold keeperBack; exact bounded_ite (bounded_takeBack h) (bounded_ite (bounded_switchBack h) (bounded_askWarm h))

theorem bounded_failedRead {code late t} (h : s.bounded = true) : (failedRead code late t s).bounded = true := by
  unfold failedRead
  split
  · exact bounded_keeperBack (bounded_faultRec h)
  · exact bounded_raiseKill (bounded_faultRec h)

theorem bounded_onCompletion {tag poisoned} (h : s.bounded = true) : (onCompletion tag poisoned s).bounded = true := by
  unfold onCompletion; extract_lets slot gen
  refine bounded_ite (bounded_tdc (bounded_raiseBit (bounded_bump h))) ?_
  split
  · exact h
  · extract_lets s1
    have h1 : s1.bounded = true := bounded_setTag h
    refine bounded_ite (bounded_failedRead (bounded_raiseBit (bounded_bump h1))) ?_
    split
    · exact bounded_keeperBack h1
    · extract_lets v s2
      have h2 : s2.bounded = true := bounded_modRun _ _ (fun _ _ => rfl) h1
      exact bounded_ite h2 (bounded_ite (bounded_served h2) (bounded_doJob jobKeeps_jobOf h2))

theorem bounded_onReadTimeout {slot} (h : s.bounded = true) : (onReadTimeout slot s).bounded = true := by
  unfold onReadTimeout
  split
  · exact h
  · exact bounded_failedRead (bounded_raiseBit (bounded_bump (bounded_setTag h)))

theorem bounded_onWriteTimeout {eng addr} (h : s.bounded = true) : (onWriteTimeout eng addr s).bounded = true := by
  unfold onWriteTimeout
  split
  · exact h
  · exact bounded_ite h (bounded_raiseKill h)

theorem bounded_extRead {a n f} (h : s.bounded = true) : (extRead a n f s).bounded = true := by
  unfold extRead
  dsimp only
  split
  · refine bounded_emit ?_
    split
    · exact bounded_ite (bounded_aperMiss h) (bounded_ceDetect (bounded_aperMiss h))
    · exact bounded_aperMiss h
  · refine bounded_emit ?_
    refine bounded_fold (fun u a hu => ?_) ?_
    · exact bounded_ueDetect hu
    · split
      · exact bounded_ite (bounded_aperMiss h) (bounded_ceDetect (bounded_aperMiss h))
      · exact bounded_aperMiss h

theorem bounded_extWrite {a data f} (h : s.bounded = true) : (extWrite a data f s).bounded = true := by
  unfold extWrite
  dsimp only
  split
  · refine bounded_wrAll ?_
    refine bounded_healAll ?_
    split
    · exact bounded_ite (bounded_aperMiss h) (bounded_raiseBit (bounded_bump (bounded_ceDetect (bounded_aperMiss h))))
    · exact bounded_aperMiss h
  · refine bounded_emit ?_
    refine bounded_fold (fun u a hu => ?_) ?_
    · exact bounded_ueDetect (bounded_partialAbort hu)
    · refine bounded_wrAll ?_
      refine bounded_healAll ?_
      split
      · exact bounded_ite (bounded_aperMiss h) (bounded_raiseBit (bounded_bump (bounded_ceDetect (bounded_aperMiss h))))
      · exact bounded_aperMiss h

theorem bounded_onAccess {x} (h : s.bounded = true) : (onAccess x s).bounded = true := by
  unfold onAccess; exact bounded_ite h (bounded_ite (bounded_extWrite h) (bounded_extRead h))

theorem bounded_onScrub {f} (h : s.bounded = true) : (onScrub f s).bounded = true := by
  unfold onScrub
  dsimp only
  refine bounded_ite ?_ ?_
  · refine bounded_of_eq ?_ rfl rfl rfl
    refine bounded_ite (bounded_ueDetect h) ?_
    split
    · exact bounded_ceDetect h
    · exact h
  · refine bounded_bump ?_
    refine bounded_of_eq ?_ rfl rfl rfl
    refine bounded_ite (bounded_ueDetect h) ?_
    split
    · exact bounded_ceDetect h
    · exact h

theorem bounded_sndMargin {i m} (h : s.bounded = true) : (sndMargin i m s).bounded = true := by
  unfold sndMargin; exact bounded_ite (bounded_setFld (bounded_setFld h)) (bounded_setFld h)

theorem bounded_onSound {l} (h : s.bounded = true) : (onSound l s).bounded = true := by
  unfold onSound; extract_lets s1 r vofs vmax detail event s2 _
  have h1 : s1.bounded = true := bounded_fold (fun _ _ hu => bounded_sndMargin hu) h
  have hevent : ∀ b, Keeps (event b) := fun _ _ hu => bounded_setFld (bounded_raiseBit hu)
  have h2 : s2.bounded = true := bounded_faultRec (hevent 0 _ h1)
  exact bounded_ite (bounded_ownLoss (hevent 2 _ h1)) (bounded_ite (bounded_faultRec (hevent 1 _ h1))
    (bounded_ite (by with_reducible exact bounded_of_eq h2 rfl rfl rfl) h1))

theorem bounded_onClockWindow {bad} (h : s.bounded = true) : (onClockWindow bad s).bounded = true := by
  unfold onClockWindow; extract_lets lost _ s1 s2 _
  have h1 : s1.bounded = true := bounded_of_eq h rfl rfl rfl
  have h2 : s2.bounded = true := bounded_raiseBit (bounded_setFld h1)
  exact bounded_ite h1 (bounded_of_eq h2 rfl rfl rfl)

end Sys2Proof.Machine
end

section
/-! Bounds: the ejection queue, packets in transit, and one tick of time. -/

namespace Sys2Proof.Machine

variable {s t : State}

theorem keeps_ctrlDo {p} : Keeps (ctrlDo p) := by
  unfold ctrlDo
  split
  · exact fun _ hu => bounded_onRegWrite hu
  · exact fun _ hu => bounded_onRegRead hu
  · exact fun _ hu => bounded_onStepAbort hu
  · exact fun _ hu => bounded_onPartHold hu
  · exact fun _ hu => bounded_onPartResume hu
  · exact fun _ hu => bounded_onCtrlResult hu
  · exact keeps_id

theorem bounded_ctrlDo {p} (h : s.bounded = true) : (ctrlDo p s).bounded = true := keeps_ctrlDo s h

theorem bounded_onReq {p} (h : s.bounded = true) : (onReq p s).bounded = true := by
  unfold onReq
  split
  · exact bounded_onDispatch h
  · with_reducible exact bounded_serveAll (bounded_of_eq h rfl rfl rfl)
  · exact bounded_ite (bounded_onCount h) (bounded_onColl h)
  · exact bounded_ctrlDo (bounded_capCtrl (bounded_ackAccept h))
  · exact bounded_ite (bounded_onLlRead h) (bounded_onLlOwn h)
  · exact bounded_onWriteBack h
  · exact h

theorem bounded_ejectHead (h : s.bounded = true) : (ejectHead s).bounded = true := by
  unfold ejectHead
  split
  · exact h
  · with_reducible exact bounded_atHead (fun _ hu => bounded_onReq hu) (bounded_of_eq h rfl rfl rfl)

theorem bounded_ejectNext (h : s.bounded = true) : (ejectNext s).bounded = true := by
  unfold ejectNext
  split
  · exact h
  · extract_lets s0 s1
    have h1 : s1.bounded = true := bounded_bump64 (bounded_outputTurn (bounded_tick (bounded_of_eq h rfl rfl rfl)))
    refine bounded_ite h ?_
    exact bounded_ite (bounded_atHead (fun _ hu => bounded_onReq hu) h1) (bounded_of_eq h1 rfl rfl rfl)

theorem bounded_admitNet {rsp} (h : s.bounded = true) : (admitNet rsp s).bounded = true := by
  unfold admitNet
  refine bounded_ite h ?_
  refine bounded_ite ?_ ?_
  · split
    · exact h
    · with_reducible exact bounded_admitPkt (bounded_of_eq h rfl rfl rfl)
  · split
    · exact h
    · with_reducible exact bounded_admitPkt (bounded_of_eq h rfl rfl rfl)

theorem bounded_admitMem (h : s.bounded = true) : (admitMem s).bounded = true := by
  unfold admitMem
  dsimp only
  refine bounded_ite h ?_
  split
  · exact h
  · refine bounded_ite h ?_
    refine bounded_ite ?_ ?_
    · split
      · with_reducible exact bounded_chargeMem (bounded_of_eq h rfl rfl rfl)
      · with_reducible exact bounded_jobGo jobKeeps_jobOf (bounded_chargeMem (bounded_of_eq h rfl rfl rfl))
    · with_reducible exact bounded_issueRead (bounded_chargeMem (bounded_of_eq h rfl rfl rfl))

theorem bounded_stalls {net mem} (h : s.bounded = true) : (stalls net mem s).bounded = true := by
  unfold stalls
  exact bounded_ite (bounded_raiseBit (bounded_bump64 (bounded_ite (bounded_raiseBit (bounded_bump64 h)) h))) (bounded_ite (bounded_raiseBit
      (bounded_bump64 h)) h)

theorem bounded_bucketCycle (h : s.bounded = true) : (bucketCycle s).bounded = true := by
  unfold bucketCycle; with_reducible exact bounded_of_eq (bounded_stalls (bounded_admitMem (bounded_admitNet (bounded_admitNet h)))) rfl rfl rfl

theorem bounded_holdCycle (h : s.bounded = true) : (holdCycle s).bounded = true := by
  unfold holdCycle; with_reducible exact bounded_ite h (bounded_ite (bounded_of_eq h rfl rfl rfl) (bounded_bump (bounded_of_eq h rfl rfl rfl)))

/-- One tick of time keeps the bounds (log entry 3). -/
theorem bounded_idle (h : s.bounded = true) : (idle s).bounded = true := by
  unfold idle; extract_lets u
  have hu : u.bounded = true := bounded_of_eq h rfl rfl rfl
  exact bounded_ite (bounded_settled (bounded_repAdvance (bounded_replayRows (bounded_resumeFetch (bounded_checkRecv (bounded_combPoll (bounded_holdCycle
    (bounded_ejectNext (bounded_ejectHead (bounded_fabDrain (bounded_fabDrain (bounded_bucketCycle (bounded_spillCycle hu)))))))))))))
    (bounded_ite (bounded_settled (bounded_spillCycle hu)) hu)

theorem bounded_transit {p contended} (h : s.bounded = true) : (transit p contended s).bounded = true := by
  unfold transit
  refine bounded_ite h ?_
  refine bounded_ite (bounded_bump h) ?_
  refine bounded_ite (bounded_discard h) ?_
  dsimp only
  split
  · exact bounded_passCopy (bounded_tick h)
  · split
    · exact bounded_passOn h
    · exact bounded_discard (bounded_ite (bounded_tdc h) h)

end Sys2Proof.Machine
end

section
/-! No step takes the block beyond its bounds (R31, R289, R297). -/

namespace Sys2Proof.Machine

variable {s t : State}

/-- Every command's meaning ends in `finish` on a state within the bounds: a case per arm of `exec`, by the lemma of the operation the arm calls. -/
theorem exec_bounded (i : Instr) (h : s.bounded = true) : ∃ u, exec i s = .next (settle u) ∧ u.bounded = true := by
  cases i with
  | nop _ | getInfo _ | loadModel _ | unloadModel _ | switchModel _ | runStep _ | killStepRerun _ | killStepDrop _ | queryStep _ | readLl _
    | partConfigSet _ | partConfigLeave _ | storeNvm _ | selfTest _ | suspendIdle _ | suspendDark _ | resume _ | captureStart _
    | captureStop _ | replayStart _ | replayStop _ | logFlush _ | submitList _ | allocCounters _ | freeCounters _ | allocCpool _
    | freeCpool _ | cfgCommitRef _ | cfgCommitSelf _ => exact ⟨_, rfl, bounded_hostRow h⟩
  | bootGo _ | logCtlFlush _ | clampClr _ | satClr _ | tdcClr _ | acctSelWrite _ | capSwWrite _ | registerWrite _ _ _ => exact ⟨_, rfl, bounded_portWrite h⟩
  | logWord0Read _ | registerRead _ _ => exact ⟨_, rfl, bounded_portRead h⟩
  | storeNvmDone _ => exact ⟨_, rfl, bounded_ite (bounded_storeDone h) h⟩
  | selfTestDone _ _ _ => exact ⟨_, rfl, bounded_ite (bounded_testDone h) h⟩
  | mbDoorbell _ => exact ⟨_, rfl, bounded_doorbell h⟩
  | mbCmdWrite _ _ => exact ⟨_, rfl, bounded_cmdWrite h⟩
  | mbPop _ => exact ⟨_, rfl, bounded_pop h⟩
  | mbTake => exact ⟨_, rfl, bounded_mbTake h⟩
  | keeperReadTimeout => exact ⟨_, rfl, bounded_keeperLate h⟩
  | replyFifoEnter => exact ⟨_, rfl, bounded_replyEnter h⟩
  | ringPlaceResume => exact ⟨_, rfl, bounded_ite (bounded_ringResume h) h⟩
  | stepEnqueue _ => exact ⟨_, rfl, bounded_stepEnqueue h⟩
  | idleStepBoundary _ => exact ⟨_, rfl, bounded_idleBoundary h⟩
  | cfgHoldRetry => exact ⟨_, rfl, bounded_retryHold h⟩
  | cfgFlipTimeout => exact ⟨_, rfl, bounded_flipTimeout h⟩
  | cfgCrcDone => exact ⟨_, rfl, bounded_onCrcDone h⟩
  | pdResolve => exact ⟨_, rfl, bounded_pdResolve h⟩
  | score _ _ => exact ⟨_, rfl, bounded_startScore h⟩
  | scoreCount _ _ => exact ⟨_, rfl, bounded_withTile (fun _ hu => bounded_runJob (fun _ _ => jobKeeps_scoreCountJob) hu) h⟩
  | func _ => exact ⟨_, rfl, bounded_runJob (fun _ _ => jobKeeps_funcJob) h⟩
  | rowMax _ => exact ⟨_, rfl, bounded_runJob (fun _ _ => jobKeeps_rowMaxJob) h⟩
  | rowSumexp _ => exact ⟨_, rfl, bounded_runJob (fun _ _ => jobKeeps_rowSumexpJob) h⟩
  | softmax _ => exact ⟨_, rfl, bounded_runJob (fun _ _ => jobKeeps_softmaxJob) h⟩
  | rowRms _ => exact ⟨_, rfl, bounded_runJob (fun _ _ => jobKeeps_rowRmsJob) h⟩
  | renorm _ => exact ⟨_, rfl, bounded_runJob (fun _ _ => jobKeeps_renormJob) h⟩
  | select _ => exact ⟨_, rfl, bounded_runJob (fun _ _ => jobKeeps_selectJob) h⟩
  | selectGonly _ => exact ⟨_, rfl, bounded_runJob (fun _ _ => jobKeeps_gonlyJob) h⟩
  | sort _ _ => exact ⟨_, rfl, bounded_withLane (fun _ hu => bounded_runLines (fun _ _ => jobKeeps_sortJob) hu) h⟩
  | sortGateway _ _ => exact ⟨_, rfl, bounded_ite (bounded_withLane (fun _ hu => bounded_runJob (fun _ _ => jobKeeps_sortGwJob) hu) h) h⟩
  | plan _ => exact ⟨_, rfl, bounded_runLines (fun _ _ => jobKeeps_planJob) h⟩
  | send _ => exact ⟨_, rfl, bounded_withReserve (fun _ hu => bounded_runJob (fun _ _ => jobKeeps_sendJob) hu) h⟩
  | recv _ => exact ⟨_, rfl, bounded_runJob (fun _ _ => jobKeeps_recvJob) h⟩
  | forward _ => exact ⟨_, rfl, bounded_runJob (fun _ _ => jobKeeps_forwardJob) h⟩
  | fetchRequester _ => exact ⟨_, rfl, bounded_withReserve (fun _ hu => bounded_runLines (fun _ _ => jobKeeps_fetchReqJob) hu) h⟩
  | fetchServer _ => exact ⟨_, rfl, bounded_runLines (fun _ _ => jobKeeps_fetchSrvJob) h⟩
  | combine _ => exact ⟨_, rfl, bounded_startComb h⟩
  | combineAck _ => exact ⟨_, rfl, bounded_startComb h⟩
  | move _ => exact ⟨_, rfl, bounded_runJob (fun _ _ => jobKeeps_moveJob) h⟩
  | dispatch _ => exact ⟨_, rfl, bounded_startDispatch h⟩
  | reduceStatsFabric _ => exact ⟨_, rfl, bounded_runJob (fun _ _ => jobKeeps_reduceJob) h⟩
  | reduceStatsBeacon _ => exact ⟨_, rfl, bounded_ite (bounded_runJob (fun _ _ => jobKeeps_reduceBcnJob) h) h⟩
  | commit => exact ⟨_, rfl, bounded_commit h⟩
  | stepKill _ => exact ⟨_, rfl, bounded_stepKill h⟩
  | rerun => exact ⟨_, rfl, bounded_rerun h⟩
  | modelSwitch _ => exact ⟨_, rfl, bounded_modelSwitch h⟩
  | ingressBeat _ _ _ => exact ⟨_, rfl, bounded_ite (bounded_onBeat h) h⟩
  | ingTimeout => exact ⟨_, rfl, bounded_ite (bounded_ingTimeout h) h⟩
  | shDone _ => exact ⟨_, rfl, bounded_onShDone h⟩
  | clusterResultRow _ _ _ => exact ⟨_, rfl, bounded_clusterRow h⟩
  | workRecordTaken _ => exact ⟨_, rfl, bounded_workTaken h⟩
  | dlbSteal => exact ⟨_, rfl, bounded_steal h⟩
  | warmDone _ => exact ⟨_, rfl, bounded_ite (bounded_joinRecover (bounded_of_eq h rfl rfl rfl)) h⟩
  | halfArmed _ => exact ⟨_, rfl, bounded_ite (bounded_armAll h) h⟩
  | dispatchPacket _ => exact ⟨_, rfl, bounded_ite (bounded_eject (fun _ hu => bounded_onDispatch hu) h) h⟩
  | bundlePacket _ => exact ⟨_, rfl, bounded_ite (bounded_eject (fun _ hu => bounded_onDispatch hu) h) h⟩
  | fetchRd _ => exact ⟨_, rfl, bounded_ite (bounded_eject (fun _ hu => bounded_serveAll (bounded_of_eq hu rfl rfl rfl)) h) h⟩
  | fetchCpl _ => exact ⟨_, rfl, bounded_ite (bounded_eject (fun _ hu => bounded_onFetchCpl hu) h) h⟩
  | countRecords _ => exact ⟨_, rfl, bounded_ite (bounded_eject (fun _ hu => bounded_onCount hu) h) h⟩
  | collData _ => exact ⟨_, rfl, bounded_ite (bounded_eject (fun _ hu => bounded_onColl hu) h) h⟩
  | result _ => exact ⟨_, rfl, bounded_ite (bounded_eject (fun _ hu => bounded_onResult hu) h) h⟩
  | ack _ => exact ⟨_, rfl, bounded_ite (bounded_eject (fun _ hu => bounded_onAck hu) h) h⟩
  | ackBatchTimer _ => exact ⟨_, rfl, bounded_ackBatch h⟩
  | ackTimeout _ => exact ⟨_, rfl, bounded_ackLate h⟩
  | resultTimeout _ => exact ⟨_, rfl, bounded_resultLate h⟩
  | fetchRdLate => exact ⟨_, rfl, bounded_rdLate h⟩
  | fetchStreamShort => exact ⟨_, rfl, bounded_streamShort h⟩
  | sharedRowsTimeout => exact ⟨_, rfl, bounded_sharedLate h⟩
  | llReqRead _ => exact ⟨_, rfl, bounded_ite (bounded_eject (fun _ hu => bounded_onLlRead hu) h) h⟩
  | llReqOwn _ _ => exact ⟨_, rfl, bounded_ite (bounded_eject (fun _ hu => bounded_onLlOwn hu) h) h⟩
  | llWb _ => exact ⟨_, rfl, bounded_ite (bounded_eject (fun _ hu => bounded_onWriteBack hu) h) h⟩
  | llGrantData _ => exact ⟨_, rfl, bounded_ite (bounded_eject (fun _ hu => bounded_onGrantData hu) h) h⟩
  | llGrantGrant _ => exact ⟨_, rfl, bounded_ite (bounded_eject (fun _ hu => bounded_onGrantOwn hu) h) h⟩
  | llRetry _ => exact ⟨_, rfl, bounded_ite (bounded_eject (fun _ hu => bounded_onLlRetry hu) h) h⟩
  | llRetryResend _ => exact ⟨_, rfl, bounded_onRetryResend h⟩
  | regWrite _ => exact ⟨_, rfl, bounded_ctrlRow (fun _ hu => bounded_onRegWrite hu) h⟩
  | regRead _ => exact ⟨_, rfl, bounded_ctrlRow (fun _ hu => bounded_onRegRead hu) h⟩
  | stepAbort _ => exact ⟨_, rfl, bounded_ctrlRow (fun _ hu => bounded_onStepAbort hu) h⟩
  | partHold _ => exact ⟨_, rfl, bounded_ctrlRow (fun _ hu => bounded_onPartHold hu) h⟩
  | partResume _ => exact ⟨_, rfl, bounded_ctrlRow (fun _ hu => bounded_onPartResume hu) h⟩
  | ctrlResult _ => exact ⟨_, rfl, bounded_ctrlRow (fun _ hu => bounded_onCtrlResult hu) h⟩
  | transitForward _ _ => exact ⟨_, rfl, bounded_transit h⟩
  | bucketAdmit _ => exact ⟨_, rfl, bounded_ite h (bounded_ite (bounded_admitMem h) (bounded_admitNet (bounded_admitNet h)))⟩
  | apertureAccess _ => exact ⟨_, rfl, bounded_ite (bounded_onAccess h) h⟩
  | memCompletion _ _ => exact ⟨_, rfl, bounded_ite (bounded_onCompletion h) h⟩
  | memReadTimeout _ => exact ⟨_, rfl, bounded_ite (bounded_onReadTimeout h) h⟩
  | join _ _ => exact ⟨_, rfl, bounded_ite (bounded_recvFrame (fun _ hu => bounded_onJoin hu) h) h⟩
  | release _ _ => exact ⟨_, rfl, bounded_ite (bounded_recvFrame (fun _ hu => bounded_onReleaseFrame hu) h) h⟩
  | alarm _ _ => exact ⟨_, rfl, bounded_ite (bounded_recvFrame (fun _ hu => bounded_alarmFrame hu) h) h⟩
  | wake _ _ => exact ⟨_, rfl, bounded_ite (bounded_recvFrame (fun _ hu => bounded_wakeFrame hu) h) h⟩
  | heartbeat _ _ => exact ⟨_, rfl, bounded_ite (bounded_recvFrame (fun _ hu => bounded_onHeartbeat hu) h) h⟩
  | heartbeatPeriod => exact ⟨_, rfl, bounded_onPeriod h⟩
  | claim _ _ => exact ⟨_, rfl, bounded_ite (bounded_recvFrame (fun _ hu => bounded_onClaim hu) h) h⟩
  | root _ _ => exact ⟨_, rfl, bounded_ite (bounded_recvFrame (fun _ hu => bounded_onRoot hu) h) h⟩
  | electSettle => exact ⟨_, rfl, bounded_onSettle h⟩
  | treeRootTimeout => exact ⟨_, rfl, bounded_ite (bounded_nextTree (bounded_raiseBit h)) h⟩
  | discover _ _ => exact ⟨_, rfl, bounded_ite (bounded_recvFrame (fun _ hu => bounded_onDiscover hu) h) h⟩
  | discoverReply _ _ => exact ⟨_, rfl, bounded_ite (bounded_recvFrame (fun _ hu => bounded_setLink hu) h) h⟩
  | flipReq _ _ => exact ⟨_, rfl, bounded_ite (bounded_recvFrame (fun _ hu => bounded_ite (bounded_sendUp hu) (bounded_requestFlip hu)) h) h⟩
  | flipReqTimer => exact ⟨_, rfl, bounded_ite (bounded_requestFlip h) h⟩
  | flipPrep _ _ => exact ⟨_, rfl, bounded_ite (bounded_recvFrame (fun _ hu => bounded_ite (bounded_sendDown (bounded_capBeacon hu)) (bounded_startPrep
      (bounded_sendDown (bounded_capBeacon hu)))) h) h⟩
  | flipStage1Done => exact ⟨_, rfl, bounded_onStage1Done h⟩
  | flipGo _ _ => exact ⟨_, rfl, bounded_ite (bounded_recvFrame (fun _ hu => bounded_ite (bounded_sendDown (bounded_capBeacon hu)) (bounded_applyGo
      (bounded_sendDown (bounded_capBeacon hu)))) h) h⟩
  | flipRetireJoin => exact ⟨_, rfl, bounded_onRetireJoin h⟩
  | drainTimeout => exact ⟨_, rfl, bounded_onDrainTimeout h⟩
  | drainDone => exact ⟨_, rfl, bounded_onDrainDone h⟩
  | killFrame _ _ => exact ⟨_, rfl, bounded_ite (bounded_recvFrame (fun _ hu => bounded_onKill hu) h) h⟩
  | fence _ _ => exact ⟨_, rfl, bounded_ite (bounded_recvFrame (fun _ hu => bounded_onFence hu) h) h⟩
  | beaconFrameAck _ _ => exact ⟨_, rfl, bounded_onFrameAck h⟩
  | beaconResend _ _ => exact ⟨_, rfl, bounded_onResend h⟩
  | darkSidebandChange _ _ => exact ⟨_, rfl, bounded_onDark h⟩
  | lockstepMismatch => exact ⟨_, rfl, bounded_keeperFatal h⟩
  | watchdogExpire => exact ⟨_, rfl, bounded_keeperFatal h⟩
  | scrubVisit _ => exact ⟨_, rfl, bounded_ite (bounded_onScrub h) h⟩
  | soundSample _ _ _ _ _ => exact ⟨_, rfl, bounded_ite (bounded_onSound h) h⟩
  | clockWindow _ => exact ⟨_, rfl, bounded_ite (bounded_onClockWindow h) h⟩
  | pwrGoodRise => exact ⟨_, rfl, bounded_ite h bounded_resetTo⟩
  | resetN _ => exact ⟨_, rfl, bounded_ite bounded_resetTo h⟩
  | phaseAEnd => exact ⟨_, rfl, bounded_endPhaseA h⟩
  | phaseBEnd _ _ => exact ⟨_, rfl, bounded_endPhaseB h⟩
  | sliceReady _ => exact ⟨_, rfl, bounded_becomeReady h⟩
  | extImageTimeout => exact ⟨_, rfl, bounded_ite (bounded_bringupFail h) h⟩
  | idleExitDone => exact ⟨_, rfl, bounded_ite (bounded_idleExit h) h⟩
  | darkDrainTimer =>
    refine ⟨_, rfl, ?_⟩
    split
    · with_reducible exact bounded_ite (bounded_of_eq h rfl rfl rfl) h
    · exact h
  | darkEnter => exact ⟨_, rfl, bounded_ite (bounded_enterDark h) h⟩
  | logFlushBoundary => exact ⟨_, rfl, bounded_ite (bounded_flushNow h) h⟩
  | acctCopyDone => exact ⟨_, rfl, bounded_ite (bounded_acctCopied h) h⟩
  | captureStartApply => exact ⟨_, rfl, bounded_ite (bounded_capStart h) h⟩
  | captureStopApply => exact ⟨_, rfl, bounded_ite (bounded_capStop h) h⟩
  | pwrGoodFall => exact ⟨_, rfl, bounded_of_eq h rfl rfl rfl⟩
  | aonTick => exact ⟨_, rfl, bounded_ite (bounded_aonTick h) h⟩
  | badTypePacket _ _ => exact ⟨_, rfl, bounded_ite (bounded_eject (fun _ hu => hu) h) h⟩
  | unlistedBeaconFrame _ _ => exact ⟨_, rfl, bounded_ite h (bounded_recvFrame (fun _ hu => bounded_bump hu) h)⟩
  | captureRingCopy => exact ⟨_, rfl, bounded_ite (bounded_ringCopy h) h⟩
  | memWriteTimeout _ _ => exact ⟨_, rfl, bounded_ite (bounded_onWriteTimeout h) h⟩

/-- Settles O60: a command keeps the bounds (`exec_bounded`), and so does the tick of an empty queue (`bounded_idle`); putting the maps into canonical form
touches none of the three lists. -/
theorem stepKeepsBounds : Obligations.StepKeepsBounds := by
  unfold Obligations.StepKeepsBounds
  intro s t h hstep
  cases hqueue : s.pending with
  | nil =>
    rw [step_empty hqueue] at hstep
    cases hstep
    exact bounded_idle h
  | cons c rest =>
    rw [stepRunsFrontCommand s c rest hqueue] at hstep
    obtain ⟨u, hu, hbounded⟩ := exec_bounded c (s := { s with pending := rest }) (bounded_of_eq h rfl rfl rfl)
    rw [hu] at hstep
    cases hstep
    exact bounded_settled hbounded

end Sys2Proof.Machine
end
